-- ==== Sys2Proof/Word.lean ====
section
/-! DEFINITION. The word types of the KM4 and their plainest helpers (00_scope R4, 03_lines R67). -/

namespace Sys2Proof

/-- A word is 8 bytes (R4). -/
abbrev Word := BitVec 64
/-- One byte. -/
abbrev Byte := BitVec 8
/-- One half-word of a code line (R66). -/
abbrev Half := BitVec 16
/-- A 5-bit register field (R74): 0 is z, 1 to 27 the window, 28 qi, 29 qo, 30 ix, 31 ln. -/
abbrev Reg := BitVec 5
/-- A predicate index, p0 to p7 (R76). -/
abbrev Pred := BitVec 3
/-- A unit value of R400: a compute coordinate, 0x8000 + service index, 0x4000 + slice,
0xC000 + station, 0x10000 + die for a port engine, 0x14000 + 2 * die + side for a port. -/
abbrev UnitId := Nat


end Sys2Proof
end

