-- ==== Sys2Proof/Syntax.lean ====
section
/-! DEFINITION. Sys2Proof/Syntax.lean: every instruction of the opcode map (03_lines R80) and every step the
device makes by itself (95_what_each_step_holds), as ONE inductive Instr. The operands of a program
instruction are its typed fields; what a device step acts on is an Arg, which State holds while the step is taken. -/

namespace Sys2Proof

/-- The guard of R68. -/
inductive Guard | always | ifP0 | ifNotP0 | ifP1
deriving DecidableEq, Repr

/-- Access widths .b .h .w .d (R245). -/
inductive Width | b | h | w | d
deriving DecidableEq, Repr

/-- Lane widths of PKOP (R118). -/
inductive Lane | b | h | w
deriving DecidableEq, Repr

/-- Conditions of CMP and CMPI (R121). -/
inductive Cond | eq | ne | lt | ge | ltz | gez
deriving DecidableEq, Repr

/-- Combinations of CMP and CMPI (R121). -/
inductive Comb | set | and | or
deriving DecidableEq, Repr

/-- Conditions of FCMP (R168). -/
inductive FCond | eq | lt | le | un | ne
deriving DecidableEq, Repr

/-- Conditions of VCMP (R203). -/
inductive VCond | eq | ne | lt | le
deriving DecidableEq, Repr

/-- The scopes of R283. -/
inductive Scope | core | die | pkg | sys
deriving DecidableEq, Repr

/-- The eleven number formats of R155, in the order of their codes 0 to 10. -/
inductive Fmt | i64 | i32 | z64 | z32 | f64 | f32 | f16 | bf16 | lg6 | i8 | q4
deriving DecidableEq, Repr

/-- The operations of AMO (R250). -/
inductive AmoOp | add | and | or | xor | swap | min | max | minz | maxz
deriving DecidableEq, Repr

/-- The keys of FALLOC (R142): step, block, window, priority, chain and unbounded flags. -/
structure FallocArgs where
  step : BitVec 8
  blk : BitVec 8
  g : BitVec 3
  s : BitVec 3
  l : BitVec 5
  prio : BitVec 2
  chain : Bool
  unb : Bool
deriving DecidableEq, Repr

/-- The operands common to the vector operations (R203): token A, destination B, source C. -/
structure VArgs where
  a : Reg
  b : Reg
  c : Reg
  fmt : Fmt
  len : BitVec 16
deriving DecidableEq, Repr

/-! Payloads of the device's own steps. -/

/-- One piece of work: the core, the slot and its own start count (R138). -/
structure Who where
  unit : UnitId
  slot : Nat
  sgen : BitVec 15
deriving DecidableEq, Repr

/-- The space of a global access: the service space or a VI's (R239). -/
structure Space where
  svs : Bool
  viid : BitVec 6
deriving DecidableEq, Repr

/-- A family-table entry with its generation (R137). -/
structure FamRef where
  owner : UnitId
  entry : Nat
  gen : BitVec 15
deriving DecidableEq, Repr

/-- What a load-type request asks of its target (R247, R249, R250, R277, R280, R73, R131, R349, R268, R345). -/
inductive ReqKind
  | ld (wd : Width) (z : Bool)
  | ldp
  | ldv
  | ldt
  | amo (op : AmoOp) (w : Bool)
  | cas (w : Bool)
  | fetch
  | jtab
  | record (k : Nat)
  | granule (n : Nat)
deriving DecidableEq, Repr

/-- What the family of a claimant hands to an evaluator's handler member (R152, R271). -/
structure HandlerInfo where
  body : Option Word
  mode : BitVec 2
  rkey : Word
deriving DecidableEq, Repr

/-- A load-type request as captured at its issue (R244): issuer, transaction, operands, space and mode.
`entry` is the journal entry and its stamp when an AMO or CAS is posted (R250). `at_` is where it stands. -/
structure Access where
  who : Who
  tid : Nat
  kind : ReqKind
  addr : Word
  space : Space
  sys : Bool
  c : Word
  d : Word
  outer : Word
  dest : Reg
  pc : Word
  entry : Option (Nat × Nat)
  at_ : UnitId
  replica : Bool
  walk : Nat
  /-- The handler and default place of the issuer's family, for an evaluator that the access claims (R268, R271). -/
  h : HandlerInfo := ⟨none, 0, 0⟩
  defPlace : Word := 0
  /-- When it is at its home, unloaded, and when it first arrived there (R327, R329). -/
  eta : Nat := 0
  came : Nat := 0
deriving DecidableEq, Repr

/-- The kinds of posted store (R251). -/
inductive StoreKind | st (wd : Width) | stp | stf | ssus | semp
deriving DecidableEq, Repr

/-- A posted store in flight (R248, R249, R278, R279), with its journal entry and stamp.
`e3` marks a store of erratum E3 (R456): it passed a replica slice that held its line. -/
structure PostedStore where
  who : Who
  entry : Nat
  stamp : Nat
  kind : StoreKind
  addr : Word
  space : Space
  sys : Bool
  d0 : Word
  d1 : Word
  pc : Word
  at_ : UnitId
  e3 : Bool
  /-- When it is at its home, unloaded (R329). -/
  eta : Nat := 0
deriving DecidableEq, Repr

/-- A refusal travelling to its core (R256). `early` is the decrement that E3 sends ahead (R456);
`counted` says whether the refusal itself still decrements. -/
structure RefusalMsg where
  unit : UnitId
  entry : Nat
  stamp : Nat
  cause : Nat
  early : Bool
  counted : Bool
  /-- The replica slice that erratum E3 takes it through (R456); else 0. -/
  slice : Nat
deriving DecidableEq, Repr

/-- An engine's write of up to 64 bytes at its target, or with `last` a channel's completion store (R345, R347). -/
structure EngWrite where
  unit : UnitId
  ch : Nat
  tid : Nat
  addr : Word
  n : Nat
  data : BitVec 512
  space : Space
  sys : Bool
  last : Bool
  at_ : UnitId
deriving DecidableEq, Repr

/-- The answer to an engine's write: 0, or the cause of its failure (R264, R345). -/
structure EngAck where
  unit : UnitId
  ch : Nat
  tid : Nat
  cause : Nat
  last : Bool
deriving DecidableEq, Repr

/-- What lands: one or two register images with flags to OR into FRM (R107), a failure (R243, R273), no wait record
(R266), or the news that a translation notice was sent or answered with resume (R241, R242). -/
inductive LandRes
  | val (v0 v1 : Word) (flags : BitVec 5)
  | data (bytes : BitVec 512)
  | fail (cause : Nat)
  | selfdep
  | noRecord
  | notice
  | resumed
deriving DecidableEq, Repr

/-- A landing addressed to the outstanding write `tid` of a core (R104). -/
structure Landing where
  unit : UnitId
  tid : Nat
  res : LandRes
deriving DecidableEq, Repr

/-- A code line, or its failure, arriving at the slot that fetched it (R73). -/
structure FetchReply where
  who : Who
  tid : Nat
  line : Word
  res : LandRes
deriving DecidableEq, Repr

/-- A forwarded shared (R38): to the member of ordinal `ord` at core `unit`, or with `final` to the family entry. -/
structure Forward where
  unit : UnitId
  fam : FamRef
  ord : Nat
  k : Nat
  v : Word
  final : Bool
deriving DecidableEq, Repr

/-- A kill in class CTL (R148): every member of ordinal at least `from_` at core `unit`. -/
structure KillMsg where
  unit : UnitId
  fam : FamRef
  from_ : Nat
deriving DecidableEq, Repr

/-- The family a FALLOC asks for, after R142 has read its operands. -/
structure FamSpec where
  start : BitVec 32
  limit : BitVec 32
  args : FallocArgs
  cls : BitVec 2
  base : Nat
  count : Nat
  creator : Who
  sys : Bool
  defPlace : Word
  root : Bool
deriving DecidableEq, Repr

/-- What the cores of a place need to start a family's members (R24, R32, R36). -/
structure StartInfo where
  body : Word
  handler : Option Word
  mode : BitVec 2
  rkey : Word
  glob : List (Nat × Word)
  inis : List (Nat × Word)
deriving DecidableEq, Repr

/-- The reservation traffic of R48 and R49, and what the owning core tells the cores of a place: the request to a
core, its answer, the decision (which family, or none), the start at FGO, and the return of anchors. A family still
being decided is named by its creating core and request number. -/
inductive ReserveMsg
  | ask (unit : UnitId) (id : Nat) (sender : UnitId) (spec : FamSpec)
  | answer (unit : UnitId) (id : Nat) (src : UnitId) (anchor : Bool) (entry : Option FamRef)
  | settle (unit : UnitId) (id : Nat) (sender : UnitId) (fam : Option FamRef)
  | start (unit : UnitId) (id : Nat) (sender : UnitId) (fam : FamRef) (info : StartInfo)
  | release (unit : UnitId) (id : Nat) (sender : UnitId) (fam : FamRef)
deriving DecidableEq, Repr

/-- The handle instructions as they reach the owning core (R139), the news that a creator has ended (R134), and an
FBAR's arrival (R151). -/
inductive HandleOp
  | fsetg (k : Nat) (v : Word)
  | fsets (k : Nat) (v : Word)
  | fhand (body : Word)
  | fgo (body : Word) (mode : BitVec 2) (rkey : Word)
  | fsync
  | fgets (k : Nat)
  | fkill
  | frel
  | frsm (op : BitVec 2)
  | orphan
  | bar (ord : Nat)
deriving DecidableEq, Repr

/-- The answer of an owning core (R139, R140). -/
inductive HandleRes | ok (v : Word) | stale (handle : Word) | bad (cause : Nat)
deriving DecidableEq, Repr

/-- A handle round trip (R139): the request at the owning core, then the reply at the issuer. -/
inductive HandleMsg
  | serve (unit : UnitId) (who : Who) (op : HandleOp) (handle : Word)
  | answer (who : Who) (res : HandleRes)
deriving DecidableEq, Repr

/-- A bound request (R58, R59, R305). -/
structure BoundReq where
  fam : FamRef
  stamp : Nat
  creator : UnitId
  base : Nat
  count : Nat
deriving DecidableEq, Repr


/-- A claim sent to the claimant's core (R268). -/
structure Claim where
  who : Who
  tid : Nat
  space : Space
  cell : Word
  ptr : Word
  claim : BitVec 16
  home : UnitId
  h : HandlerInfo
  defPlace : Word
deriving DecidableEq, Repr

/-- An evaluator to be started (R268, R269). -/
structure EvalReq where
  unit : UnitId
  space : Space
  cell : Word
  claim : BitVec 16
  home : UnitId
  body : Word
  prio : BitVec 2
  args : List Word
  claimant : Who
  defPlace : Word
  h : HandlerInfo
  step : Nat
deriving DecidableEq, Repr

/-- A wake or failure multicast as it reaches one core: slot, SGEN, WDEST and transaction of each record (R272). -/
structure WakeRec where
  slot : Nat
  sgen : BitVec 15
  dest : Reg
  tid : Nat
deriving DecidableEq, Repr

/-- The part of a wake multicast for one core. -/
structure WakeMsg where
  unit : UnitId
  recs : List WakeRec
  res : LandRes
deriving DecidableEq, Repr

/-- An evaluator's report (R269), end notice or cannot-launch notice (R270). -/
structure EvalNotice where
  home : UnitId
  space : Space
  cell : Word
  claim : BitVec 16
  ev : Option Who
  at_ : UnitId
deriving DecidableEq, Repr

/-- A chain-queue word with its sender's LXM, or an end-of-stream marker (R352, R354). -/
structure ChainWord where
  v : Word
  lxm : Bool
  eos : Bool
deriving DecidableEq, Repr

/-- Where a reduction is held (R330, R334). -/
inductive RedCtx
  | station (id : Nat) (k : Nat)
  | port (die : Nat) (k : Nat)
  | endpoint (slice : Nat)
deriving DecidableEq, Repr

/-- A contribution (R359). -/
structure Contribution where
  unit : UnitId
  viid : BitVec 6
  handle : Word
  v : Word
  who : Who
  tid : Option Nat
deriving DecidableEq, Repr

/-- A round's delivery (R332). -/
structure Delivery where
  viid : BitVec 6
  key : Word
  round : BitVec 16
  v : Word
  flags : BitVec 5
  failed : Bool
deriving DecidableEq, Repr

/-- The acknowledgement of a contribution (R359): its round, or none when the reduction is gone. -/
structure ContribAck where
  unit : UnitId
  tid : Nat
  viid : BitVec 6
  key : Word
  round : Option (BitVec 16)
deriving DecidableEq, Repr

/-- A peer partition's exact round state (R334). -/
structure PeerState where
  die : Nat
  viid : BitVec 6
  key : Word
  peer : Nat
  round : BitVec 16
  acc : BitVec 320
  flags : BitVec 4
deriving DecidableEq, Repr

/-- The result of an RDJOIN or RDFREE at K's home (R357, R360). -/
inductive JoinRes | pending | ok (v : Word) | xarg (cause : Nat) | fail (cause : Nat)
deriving DecidableEq, Repr

/-- RDJOIN and RDFREE travelling to K's home and back. -/
structure JoinMsg where
  who : Who
  tid : Nat
  key : Word
  desc : Word
  handle : Word
  dest : Reg
  space : Space
  sys : Bool
  at_ : UnitId
  res : JoinRes
deriving DecidableEq, Repr

/-- The reply to a far read at the replica slice that forwarded it at `stamp` (R287): it fills the line, takes it away, or
leaves it, and goes on to the reader, where it is at `eta`, unloaded. -/
structure ReplicaMsg where
  slice : Nat
  space : Space
  line : Nat
  data : Option (BitVec 1024)
  drop : Bool
  stamp : Nat
  access : Access
  res : LandRes
  eta : Nat
  /-- Which of the home's readings it is: a later one is newer. -/
  read : Nat
deriving DecidableEq, Repr

/-- A multicast (R323): the tokens it needs and what it hands to its receivers. -/
structure Multicast where
  src : UnitId
  tokens : List Nat
  wakes : List WakeMsg
  reads : List Landing
  fetches : List FetchReply
  deliveries : List (UnitId × Delivery)
  /-- Replies to far readers, which fill their replica slices on the way (R287). -/
  fills : List ReplicaMsg
  /-- The line that a combined reply carries (R323). -/
  line : BitVec 1024 := 0
deriving DecidableEq, Repr

/-- An uncorrectable error (R414): in a core's pool, in a slice's word, or in a station buffer. -/
inductive MemError
  | pool (unit : UnitId)
  | slice (id : Nat) (space : Space) (va : Word)
  | station (id : Nat)
deriving DecidableEq, Repr

/-- What a power controller measures (R446). -/
structure PowerReading where
  powerHigh : Bool
  powerLow : Bool
  hot : Bool
  cool : Bool
deriving DecidableEq, Repr

/-- Where a request entry comes from (R430 to R432): the operator endpoint, a guest's queue, or a guest's endpoint. -/
inductive HostVia | operator | queue | endpoint
deriving DecidableEq, Repr

/-- A request entry (R431), and the partition it reaches. -/
structure HostReq where
  pid : Nat
  via : HostVia
  viid : BitVec 6
  w : BitVec 512
deriving DecidableEq, Repr

/-- A guest's 16-byte send (R433, R434). -/
structure GuestSend where
  pid : Nat
  viid : BitVec 6
  w0 : Word
  w1 : Word
deriving DecidableEq, Repr

/-- An Ultra Ethernet RMA (R429): up to 8 bytes at an address of the VI. It stands at its port's die, or as a piece within one word
at its home: `n` bytes, `off` bytes into the whole, of the port engine's run `run`; or as that piece's answer at the port, true
when it was served, and `data` then holds what a read returns. -/
structure RmaReq where
  die : Nat
  viid : BitVec 6
  addr : Word
  wd : Width
  data : Word
  ticket : Nat
  home : Option UnitId
  n : Nat := 0
  off : Nat := 0
  run : Nat := 0
  ans : Option Bool := none
deriving DecidableEq, Repr

/-- A merge message at the Heald of a die (R439). -/
structure MergeMsg where
  die : Nat
  data : Word
deriving DecidableEq, Repr

/-- An Ultra Ethernet packet the device does not support (R429). -/
structure UePacket where
  die : Nat
  unreliable : Bool
  ticket : Nat
deriving DecidableEq, Repr

/-- What reaches a family's owning core (R370): the end of a member with its last shareds, a break,
a fault, the end of a member that popped end-of-stream (R354), or a kill carried out. -/
inductive FamEvent
  | ended (ord : Nat)
  | broke (ord : Nat) (ix : BitVec 32)
  | eos (ord : Nat)
  | faulted (ord : Nat) (ix : BitVec 32) (kill : Bool)
  | killed (ords : List Nat)
  | killDone (unit : UnitId)
deriving DecidableEq, Repr

/-- A report to a family's owning core. -/
structure FamReport where
  fam : FamRef
  src : UnitId
  ev : FamEvent
deriving DecidableEq, Repr

/-- A SYS request on its way to a target, or with `ans` its answer on the way back (R400). -/
structure SysMsg where
  who : Who
  tid : Nat
  unit : UnitId
  b : Word
  c : Word
  d : Word
  v : Word
  ans : Option Word
deriving DecidableEq, Repr

/-- What a device step acts on: the packet that arrives, the timer that matures, the request that is served.
`State.arg` holds it while the step is taken; a program instruction has `none`. -/
inductive Arg
  | none
  | unit (u : UnitId)
  | unitWord (u : UnitId) (v : Word)
  | slot (u : UnitId) (slot : Nat)
  | physWord (pa : Nat) (v : Word)
  | fetch (x : FetchReply)
  | land (x : Landing)
  | forward (x : Forward)
  | entry (u : UnitId) (entry : Nat)
  | kill (x : KillMsg)
  | reserve (x : ReserveMsg)
  | handle (x : HandleMsg)
  | bound (x : BoundReq)
  | vi (pid : Nat) (viid : BitVec 6)
  | access (x : Access)
  | store (x : PostedStore)
  | ack (u : UnitId) (entry : Nat) (stamp : Nat)
  | refusal (x : RefusalMsg)
  | tid (u : UnitId) (tid : Nat) (stamp : Nat)
  | claim (x : Claim)
  | eval (x : EvalReq)
  | wake (x : WakeMsg)
  | notice (x : EvalNotice)
  | chan (u : UnitId) (ch : Nat)
  | engine (x : EngWrite)
  | engAck (x : EngAck)
  | chain (u : UnitId) (x : ChainWord) (src : UnitId) (fam : FamRef)
  | credit (u : UnitId) (fam : FamRef)
  | contrib (x : Contribution)
  | delivery (u : UnitId) (x : Delivery)
  | contribAck (x : ContribAck)
  | peer (x : PeerState)
  | round (die : Nat) (ctx : Nat) (round : BitVec 16) (alloc : Nat)
  | join (x : JoinMsg)
  | token (tok : Nat) (mc : Nat)
  | window (slice : Nat) (id : Nat)
  | replica (x : ReplicaMsg)
  | clear (slice : Nat) (who : Who)
  | sweep (place : Nat) (ring : Nat) (viid : BitVec 6)
  | way (k : Nat) (seq : Nat)
  | reread (station : Nat) (viid : BitVec 6)
  | copy (id : Nat) (mc : Multicast) (at_ : UnitId) (side : Nat)
  | granted (mc : Nat)
  | link (pair : Nat) (place : Nat) (second : Bool)
  | memError (x : MemError)
  | parity (u : UnitId) (slot : Nat) (again : Bool)
  | power (die : Nat) (x : PowerReading)
  | die (d : Nat)
  | part (pid : Nat) (stamp : Nat)
  | host (x : HostReq)
  | guest (x : GuestSend)
  | finish (x : HostReq) (status : Word)
  | split (pid : Nat) (dies : BitVec 4)
  | rma (x : RmaReq)
  | merge (x : MergeMsg)
  | ue (x : UePacket)
  | report (x : FamReport)
  | line (slice : Nat) (space : Space) (line : Nat)
  | held (slice : Nat) (stamp : Nat)
  | multicast (slice : Nat) (mc : Multicast)
  | sys (x : SysMsg)
deriving DecidableEq, Repr


/-- The instructions and steps of the KM4, one constructor per row of the opcode table. Program
instructions carry their guard first (R68). -/
inductive Instr
  | br (g : Guard) (i : BitVec 27)
  | call (g : Guard) (i : BitVec 27)
  | jr (g : Guard) (b : Reg)
  | callr (g : Guard) (b : Reg)
  | jtab (g : Guard) (b c : Reg) (len : BitVec 16)
  | exit (g : Guard)
  | nop (g : Guard)
  | trap (g : Guard) (b : Reg) (code : BitVec 16)
  | add (g : Guard) (w : Bool) (a b c : Reg)
  | sub (g : Guard) (w : Bool) (a b c : Reg)
  | mul (g : Guard) (w : Bool) (a b c : Reg)
  | mulh (g : Guard) (w : Bool) (a b c : Reg)
  | mulhz (g : Guard) (w : Bool) (a b c : Reg)
  | div (g : Guard) (w : Bool) (a b c : Reg)
  | divz (g : Guard) (w : Bool) (a b c : Reg)
  | rem (g : Guard) (w : Bool) (a b c : Reg)
  | remz (g : Guard) (w : Bool) (a b c : Reg)
  | and (g : Guard) (w : Bool) (a b c : Reg)
  | or (g : Guard) (w : Bool) (a b c : Reg)
  | xor (g : Guard) (w : Bool) (a b c : Reg)
  | andn (g : Guard) (w : Bool) (a b c : Reg)
  | orn (g : Guard) (w : Bool) (a b c : Reg)
  | shl (g : Guard) (w : Bool) (a b c : Reg)
  | shr (g : Guard) (w : Bool) (a b c : Reg)
  | sra (g : Guard) (w : Bool) (a b c : Reg)
  | rol (g : Guard) (w : Bool) (a b c : Reg)
  | ror (g : Guard) (w : Bool) (a b c : Reg)
  | min (g : Guard) (w : Bool) (a b c : Reg)
  | max (g : Guard) (w : Bool) (a b c : Reg)
  | minz (g : Guard) (w : Bool) (a b c : Reg)
  | maxz (g : Guard) (w : Bool) (a b c : Reg)
  | clz (g : Guard) (w : Bool) (a b : Reg)
  | ctz (g : Guard) (w : Bool) (a b : Reg)
  | popc (g : Guard) (w : Bool) (a b : Reg)
  | brev (g : Guard) (w : Bool) (a b : Reg)
  | bswap (g : Guard) (w : Bool) (a b : Reg)
  | addi (g : Guard) (w : Bool) (a b : Reg) (imm : BitVec 16)
  | andi (g : Guard) (w : Bool) (a b : Reg) (imm : BitVec 16)
  | ori (g : Guard) (w : Bool) (a b : Reg) (imm : BitVec 16)
  | xori (g : Guard) (w : Bool) (a b : Reg) (imm : BitVec 16)
  | shli (g : Guard) (w : Bool) (a b : Reg) (sh : BitVec 6)
  | shri (g : Guard) (w : Bool) (a b : Reg) (sh : BitVec 6)
  | srai (g : Guard) (w : Bool) (a b : Reg) (sh : BitVec 6)
  | muli (g : Guard) (w : Bool) (a b : Reg) (imm : BitVec 16)
  | mini (g : Guard) (w : Bool) (a b : Reg) (imm : BitVec 16)
  | maxi (g : Guard) (w : Bool) (a b : Reg) (imm : BitVec 16)
  | ldi (g : Guard) (a : Reg) (imm : BitVec 27)
  | ldq (g : Guard) (a : Reg) (imm : Word)
  | padd (g : Guard) (ln : Lane) (a b c : Reg)
  | psub (g : Guard) (ln : Lane) (a b c : Reg)
  | pmin (g : Guard) (ln : Lane) (a b c : Reg)
  | pmax (g : Guard) (ln : Lane) (a b c : Reg)
  | pminz (g : Guard) (ln : Lane) (a b c : Reg)
  | pmaxz (g : Guard) (ln : Lane) (a b c : Reg)
  | pavg (g : Guard) (ln : Lane) (a b c : Reg)
  | padds (g : Guard) (ln : Lane) (a b c : Reg)
  | bfx (g : Guard) (a b : Reg) (pos len1 : BitVec 6)
  | bfxz (g : Guard) (a b : Reg) (pos len1 : BitVec 6)
  | bfi (g : Guard) (a b c : Reg) (pos len1 : BitVec 6)
  | lea (g : Guard) (a b c : Reg) (s : BitVec 2) (imm : BitVec 16)
  | sel (g : Guard) (a b c : Reg) (p : Pred) (neg : Bool)
  | cmp (g : Guard) (cond : Cond) (comb : Comb) (w : Bool) (p : Pred) (b c : Reg)
  | cmpi (g : Guard) (cond : Cond) (comb : Comb) (w : Bool) (p : Pred) (b : Reg) (imm : BitVec 16)
  | plog (g : Guard) (pk pj pi : Pred) (tt : BitVec 4)
  | psetw (g : Guard) (b : Reg)
  | pgetw (g : Guard) (a : Reg)
  | fallocFree (g : Guard) (a b c : Reg) (x : FallocArgs)
  | fallocBound (g : Guard) (a b c : Reg) (x : FallocArgs)
  | fallocSeq (g : Guard) (a b c : Reg) (x : FallocArgs)
  | fsetg (g : Guard) (a b : Reg) (k : BitVec 3)
  | fsets (g : Guard) (a b : Reg) (k : BitVec 3)
  | fgo (g : Guard) (a : Reg) (i : BitVec 27)
  | fsync (g : Guard) (a b : Reg)
  | fgets (g : Guard) (a b : Reg) (k : BitVec 3)
  | fbrk (g : Guard)
  | fkill (g : Guard) (b : Reg)
  | frel (g : Guard) (b : Reg)
  | fself (g : Guard) (a : Reg)
  | fhand (g : Guard) (a : Reg) (i : BitVec 27)
  | fbar (g : Guard) (die : Bool)
  | frsmRetry (g : Guard) (b : Reg)
  | frsmSkip (g : Guard) (b : Reg)
  | frsmKill (g : Guard) (b : Reg)
  | fadd (g : Guard) (d : Bool) (a b c : Reg)
  | fsub (g : Guard) (d : Bool) (a b c : Reg)
  | fmul (g : Guard) (d : Bool) (a b c : Reg)
  | fdiv (g : Guard) (d : Bool) (a b c : Reg)
  | fsqrt (g : Guard) (d : Bool) (a b : Reg)
  | fmin (g : Guard) (d : Bool) (a b c : Reg)
  | fmax (g : Guard) (d : Bool) (a b c : Reg)
  | fabs (g : Guard) (d : Bool) (a b : Reg)
  | fneg (g : Guard) (d : Bool) (a b : Reg)
  | fma (g : Guard) (d : Bool) (a b c : Reg)
  | fclass (g : Guard) (d : Bool) (a b : Reg)
  | fcmp (g : Guard) (cond : FCond) (d : Bool) (p : Pred) (b c : Reg)
  | cvt (g : Guard) (dst src : Fmt) (a b : Reg) (s : BitVec 8)
  | frnd (g : Guard) (mode : BitVec 2) (d : Bool) (a b : Reg)
  | rngp (g : Guard) (a b c d : Reg)
  | rngf (g : Guard) (a b : Reg)
  | cadd (g : Guard) (n1 : BitVec 3) (sgn : Bool) (a b c : Reg)
  | csub (g : Guard) (n1 : BitVec 3) (sgn : Bool) (a b c : Reg)
  | cins (g : Guard) (n1 : BitVec 3) (a b c : Reg) (axis : BitVec 3)
  | cext (g : Guard) (n1 : BitVec 3) (a b : Reg) (axis : BitVec 3)
  | clvl (g : Guard) (n1 : BitVec 3) (a b : Reg) (level : BitVec 6)
  | cenc (g : Guard) (n1 : BitVec 3) (a b : Reg)
  | cdec (g : Guard) (n1 : BitVec 3) (a b : Reg)
  | cpar (g : Guard) (n1 : BitVec 3) (a b : Reg)
  | cbox (g : Guard) (n1 : BitVec 3) (p : Pred) (b c d : Reg)
  | cnext (g : Guard) (n1 : BitVec 3) (a b c d : Reg)
  | csplit (g : Guard) (n1 : BitVec 3) (a b c d : Reg) (off : BitVec 17) (m1 : BitVec 8)
  | ld (g : Guard) (wd : Width) (z : Bool) (a b : Reg) (imm : BitVec 16)
  | ldx (g : Guard) (wd : Width) (z : Bool) (a b c : Reg) (s : BitVec 2)
  | st (g : Guard) (wd : Width) (a b : Reg) (imm : BitVec 16)
  | stx (g : Guard) (wd : Width) (a b c : Reg) (s : BitVec 2)
  | ldp (g : Guard) (a b : Reg) (imm : BitVec 16)
  | stp (g : Guard) (a b : Reg) (imm : BitVec 16)
  | ldv (g : Guard) (a b : Reg) (imm : BitVec 16)
  | stf (g : Guard) (a b : Reg) (imm : BitVec 16)
  | ssus (g : Guard) (a b : Reg) (imm : BitVec 16)
  | semp (g : Guard) (b : Reg) (imm : BitVec 16)
  | ldt (g : Guard) (a b : Reg) (imm : BitVec 16)
  | amoAdd (g : Guard) (w : Bool) (a b c : Reg)
  | amoAnd (g : Guard) (w : Bool) (a b c : Reg)
  | amoOr (g : Guard) (w : Bool) (a b c : Reg)
  | amoXor (g : Guard) (w : Bool) (a b c : Reg)
  | amoSwap (g : Guard) (w : Bool) (a b c : Reg)
  | amoMin (g : Guard) (w : Bool) (a b c : Reg)
  | amoMax (g : Guard) (w : Bool) (a b c : Reg)
  | amoMinz (g : Guard) (w : Bool) (a b c : Reg)
  | amoMaxz (g : Guard) (w : Bool) (a b c : Reg)
  | cas (g : Guard) (w : Bool) (a b c d : Reg)
  | fenceRel (g : Guard) (scope : Scope)
  | fenceAcq (g : Guard) (scope : Scope)
  | fenceFull (g : Guard) (scope : Scope)
  | rfence (g : Guard)
  | vadd (g : Guard) (x : VArgs) (d : Reg) (bcast : Bool)
  | vsub (g : Guard) (x : VArgs) (d : Reg) (bcast : Bool)
  | vmul (g : Guard) (x : VArgs) (d : Reg) (bcast : Bool)
  | vfma (g : Guard) (x : VArgs) (d : Reg) (bcast : Bool)
  | vmin (g : Guard) (x : VArgs) (d : Reg) (bcast : Bool)
  | vmax (g : Guard) (x : VArgs) (d : Reg) (bcast : Bool)
  | vabs (g : Guard) (x : VArgs)
  | vneg (g : Guard) (x : VArgs)
  | vcvt (g : Guard) (x : VArgs) (src : Fmt)
  | vexp2 (g : Guard) (x : VArgs)
  | vlog2 (g : Guard) (x : VArgs)
  | vrsq (g : Guard) (x : VArgs)
  | vrcp (g : Guard) (x : VArgs)
  | vsel (g : Guard) (x : VArgs) (d : Reg) (bcast : Bool)
  | vcmp (g : Guard) (x : VArgs) (d : Reg) (bcast : Bool) (cond : VCond)
  | vsum (g : Guard) (x : VArgs)
  | vscan (g : Guard) (x : VArgs)
  | vgath (g : Guard) (x : VArgs) (d : Reg)
  | vscat (g : Guard) (x : VArgs) (d : Reg)
  | vrng (g : Guard) (x : VArgs) (d : Reg)
  | vclr (g : Guard) (a b : Reg) (fmt : Fmt) (len : BitVec 16)
  | vcpy (g : Guard) (x : VArgs)
  | mzero (g : Guard) (acc : BitVec 4)
  | mmac (g : Guard) (a b c : Reg) (acc : BitVec 4) (steps1 : BitVec 8)
  | mxfTranspose (g : Guard) (a : Reg) (src dst : BitVec 4)
  | mxfPerm (g : Guard) (a b : Reg) (src dst : BitVec 4)
  | mxfRsum (g : Guard) (a : Reg) (src dst : BitVec 4)
  | mxfCsum (g : Guard) (a : Reg) (src dst : BitVec 4)
  | mxfExch (g : Guard) (a : Reg) (src dst i j : BitVec 4)
  | mlda (g : Guard) (fmt : Fmt) (a b : Reg) (acc : BitVec 4)
  | msta (g : Guard) (fmt : Fmt) (sc : Bool) (a b : Reg) (acc : BitVec 4) (s : BitVec 8)
  | xcopy (g : Guard) (scope : Scope) (ch : BitVec 2) (a b c d : Reg)
  | xshape (g : Guard) (scope : Scope) (ch : BitVec 2) (a b c d : Reg)
  | xfill (g : Guard) (scope : Scope) (ch : BitVec 2) (a b c d : Reg)
  | xwptr (g : Guard) (a : Reg) (ch : BitVec 2)
  | qeos (g : Guard)
  | qpoll (g : Guard)
  | rdjoin (g : Guard) (a b c : Reg)
  | rdadd (g : Guard) (a b c : Reg)
  | rdfree (g : Guard) (b : Reg)
  | rdc (g : Guard) (a : Reg) (num : BitVec 16)
  | wrc (g : Guard) (b : Reg) (num : BitVec 16)
  | rdcyc (g : Guard) (a : Reg)
  | evwait (g : Guard) (a : Reg) (mask : BitVec 3)
  | jreplay (g : Guard) (a b : Reg)
  | jstat (g : Guard) (a b : Reg)
  | wakeResume (g : Guard) (a b c : Reg) (vi : BitVec 6) (slot : BitVec 6)
  | wakeFail (g : Guard) (a b c : Reg) (vi : BitVec 6) (slot : BitVec 6)
  | wakeCell (g : Guard) (a b c : Reg) (vi : BitVec 6) (slot : BitVec 6)
  | wakeGo (g : Guard) (a b c : Reg) (vi : BitVec 6) (slot : BitVec 6)
  | slotsv (g : Guard) (a b c : Reg) (core : Bool) (slot : BitVec 6)
  | slotld (g : Guard) (a b c : Reg) (core : Bool) (slot : BitVec 6)
  | stopatStop (g : Guard) (a c : Reg) (vi : BitVec 6) (dies : BitVec 4)
  | stopatGo (g : Guard) (a c : Reg) (vi : BitVec 6) (dies : BitVec 4)
  | pzero (g : Guard) (a b c : Reg)
  | poolpart (g : Guard) (a b c : Reg) (bob : BitVec 8)
  | tinv (g : Guard) (a b c : Reg) (op : BitVec 2) (all : Bool) (vi : BitVec 6) (dies : BitVec 4)
  | pgver (g : Guard) (a b : Reg)
  | pgswap (g : Guard) (a b c d : Reg) (vi : BitVec 6)
  | selv (g : Guard) (a b c : Reg)
  | imap (g : Guard) (a b c : Reg) (dies : BitVec 4)
  | evpost (g : Guard) (a b c : Reg) (vi : BitVec 6) (gen : BitVec 16) (sysm : Bool)
  | haltRetire (g : Guard) (a b c : Reg) (slice : Bool)
  | haltRemap (g : Guard) (a b c : Reg) (slice : Bool)
  | timerWrite
  | gstopWrite
  | viidWrite
  | combiningRegisterWrite
  | counterClearStore
  | lineFetch
  | slotAssignment
  | handlerMemberStart
  | asyncFaultDelivery
  | longLatencyLanding
  | forwardedSharedArrival
  | familyEnd
  | killArrival
  | reservationReply
  | handleReply
  | boundGrant
  | boundEnqueueRetry
  | launchAdmission
  | admissionRetryTimer
  | loadAtHome
  | postedStoreAtHome
  | storeAcknowledgement
  | storeRefusal
  | amoAtHome
  | ldvAtHome
  | ldvAcceptance
  | ldvReissueTimer
  | parkedLdvTimeout
  | claimArrival
  | evaluatorStart
  | evaluatorClaimRetry
  | stfAtHome
  | ssusAtHome
  | sempAtHome
  | wakeMulticastDelivery
  | endNoticeAtHome
  | watchdogTest
  | timerEvent
  | vectorCommandCompletion
  | matrixCommandCompletion
  | csplitCompletion
  | copyGranule
  | copyCompletion
  | chainWordArrival
  | chainCredit
  | reductionContribution
  | deliveryLanding
  | contributionAck
  | peerStateArrival
  | crossDeviceRoundTimeout
  | rdjoinAtHome
  | rdfreeAtHome
  | multicastTokenGrant
  | multicastTokenRelease
  | combiningWindowClose
  | replicaFill
  | replicaClear
  | replicaClearConfirm
  | syncStop
  | shuttleLaunch
  | shuttleReturn
  | stationSave
  | zeroFillComplete
  | linkBundleFailure
  | uncorrectableError
  | parityReplay
  | healdEventRetry
  | throttleUpdate
  | thermalTrip
  | powerOn
  | computeDieRelease
  | timeSliceEnd
  | launch
  | copyin
  | copyout
  | define
  | weight
  | reset
  | undefine
  | hostreg
  | store
  | group
  | attest
  | storage
  | merge
  | qsetup
  | doorbell
  | rmaWrite
  | rmaRead
  | quiesce
  | answer
  | proceed
  | ready
  | abort
  | done
  | mergeTimeout
  | gcycAdvance
  | evaluatorReport
  | breakKillFaultReport
  | lineWriteBack
  | heldRefusalRelease
  | lateWakeMulticast
  | notsupRequest
  | ueNotSupported
  | serviceCoreReassign
deriving DecidableEq, Repr

/-- A device step with what it acts on, as the agenda and the queues of held accesses keep it. -/
structure Ev where
  ins : Instr
  arg : Arg
deriving DecidableEq, Repr

end Sys2Proof
end

