-- ==== Sys2Proof/Machine/Bits.lean ====
section
/-! DEFINITION. Bit fields, extensions and byte order, in the little-endian order of R4. -/

namespace Sys2Proof.Machine

/-- Sign-extend the low `n` bits of a word to 64 bits. -/
def sextN (n : Nat) (w : Word) : Word := (w.setWidth n).signExtend 64

/-- Zero-extend the low `n` bits of a word to 64 bits. -/
def zextN (n : Nat) (w : Word) : Word := (w.setWidth n).setWidth 64

/-- The field [hi:lo] of a word, as a number. -/
def fld (w : Word) (hi lo : Nat) : Nat := w.toNat / 2 ^ lo % 2 ^ (hi + 1 - lo)

/-- A word with the field at `lo` of `n` bits replaced. -/
def setFld (w : Word) (lo n : Nat) (v : Nat) : Word :=
  let m : Nat := (2 ^ n - 1) * 2 ^ lo
  BitVec.ofNat 64 ((w.toNat &&& (2 ^ 64 - 1 - m)) ||| (v % 2 ^ n * 2 ^ lo))

/-- Byte `k` of a word. -/
def byteOf (w : Word) (k : Nat) : Byte := w.extractLsb' (8 * k) 8

/-- The bytes of the low `n` bytes of a number, lowest first. -/
def bytesOf (n : Nat) (v : Nat) : List Byte := (List.range n).map fun k => BitVec.ofNat 8 (v >>> (8 * k))

/-- A number from its bytes, lowest first. -/
def ofBytes : List Byte → Nat
  | [] => 0
  | b :: bs => b.toNat + 256 * ofBytes bs

/-- The size in bytes of an access width (R245). -/
def widthBytes : Width → Nat | .b => 1 | .h => 2 | .w => 4 | .d => 8

/-- A set bit list of a number below `n`, ascending. -/
def bitsBelow (n : Nat) (v : Nat) : List Nat := (List.range n).filter fun i => v.testBit i

/-- Insert into a list sorted by a key. -/
def insertOn {α : Type} (key : α → Nat) (x : α) : List α → List α
  | [] => [x]
  | y :: ys => if key x < key y then x :: y :: ys else y :: insertOn key x ys

/-- A list sorted by a key; equal keys keep their order. -/
def sortOn {α : Type} (key : α → Nat) (xs : List α) : List α := xs.foldl (fun ys x => insertOn key x ys) []

/-- Bit `i` of `v` set or cleared. -/
def setBitN {n : Nat} (v : BitVec n) (i : Nat) (b : Bool) : BitVec n :=
  let m : BitVec n := 1#n <<< i
  if b then v ||| m else v &&& ~~~m

end Sys2Proof.Machine
end

