-- ==== Sys2Proof/Machine/Assoc.lean ====
section
/-! DEFINITION. Sparse data by key: lists of key and value, keys strictly rising. `aget` and `aset` keep the form in
which no entry equals what an unlisted key reads as; `aput` keeps only the order. -/

namespace Sys2Proof.Machine

/-- The entry at a key, if listed. -/
def afind {α : Type} : List (Nat × α) → Nat → Option α
  | [], _ => none
  | (k, v) :: m, i => if i = k then some v else if i < k then none else afind m i

/-- The value at a key; `d` is what an unlisted key reads as. -/
def aget {α : Type} (d : α) (m : List (Nat × α)) (i : Nat) : α := (afind m i).getD d

/-- The map without an entry at `i`. -/
def adel {α : Type} : List (Nat × α) → Nat → List (Nat × α)
  | [], _ => []
  | (k, v) :: m, i => if i = k then m else if i < k then (k, v) :: m else (k, v) :: adel m i

/-- The map with `v` listed at `i`. -/
def aput {α : Type} : List (Nat × α) → Nat → α → List (Nat × α)
  | [], i, v => [(i, v)]
  | (k, x) :: m, i, v => if i = k then (k, v) :: m else if i < k then (i, v) :: (k, x) :: m else (k, x) :: aput m i v

/-- The map that reads `v` at `i`, in canonical form. -/
def aset {α : Type} [DecidableEq α] (d : α) (m : List (Nat × α)) (i : Nat) (v : α) : List (Nat × α) :=
  if v = d then adel m i else aput m i v

/-- Keys strictly rising from `lo`, no entry equal to `d`. -/
def awfFrom {α : Type} [DecidableEq α] (d : α) : Nat → List (Nat × α) → Bool
  | _, [] => true
  | lo, (k, v) :: m => decide (lo ≤ k) && !decide (v = d) && awfFrom d (k + 1) m

/-- The canonical form. -/
def awf {α : Type} [DecidableEq α] (d : α) (m : List (Nat × α)) : Bool := awfFrom d 0 m

end Sys2Proof.Machine
end

