-- ==== Sys2Proof/Machine/State.lean ====
section
/-! DEFINITION. The state of a KM4 module as plain data: everything INVENTORY.md lists under State. -/

namespace Sys2Proof.Machine

/-- Why the machine stops: nothing the spec gives an effect stops it. -/
inductive Fault
  /-- A walk, a write-back or a counter store reached a physical address that no rule assigns (R376, R390, R449).
  Safe: the machine stops where hardware goes on in some way the spec does not give. -/
  | physAbsent (pa : Nat)
deriving DecidableEq, Repr

/-- Why a step has no meaning. -/
inductive Refusal
  /-- Raised by `exec` for an instruction this model gives no meaning. Safe: nothing is concluded about it. -/
  | notModelled (mnemonic : String)
deriving DecidableEq, Repr

/-! ## Slots -/

/-- What a fault record is written from (R392, R393). -/
structure FaultInfo where
  code : Nat
  sub : Nat := 0
  addr : Word := 0
  opc : Option Word := none
  val : Word := 0
  ucode : BitVec 16 := 0
  jent : Nat := 0
  dest : Reg := 0
  /-- The outstanding write that FRSM reissues or fills (R244), or the fetch (R73). -/
  tid : Option Nat := none
  /-- Which delivery this is: a handler member answers for its own fault only (R152). -/
  stamp : Nat := 0
deriving DecidableEq, Repr

/-- What a Suspended member waits for (R307; WAIT of R372). -/
inductive Wait
  | reg (r : Reg)
  | ln
  | allPend
  | qi
  | qo
  | busy (til : Nat)
  | vecQueue | matQueue | copyQueue | locks
  | journal
  | held
  | reply
  | record
  | fetch
  | pass
  | fence
  | event (mask : BitVec 3) (order : Nat)
  | bar
  | boundEntry
deriving DecidableEq, Repr

/-- WAIT of R372 for a Suspended member: 0 register, 1 queue, 2 engine entry, 3 reply, 4 fetch. -/
def Wait.code : Wait → BitVec 4
  | .reg _ | .ln | .allPend | .pass => 0
  | .qi | .qo => 1
  | .busy _ | .vecQueue | .matQueue | .copyQueue | .locks | .journal | .held => 2
  | .reply | .record | .fence | .event _ _ | .bar | .boundEntry => 3
  | .fetch => 4

/-- In rotation, or Suspended (R47, R307). -/
inductive Run | ready | wait (w : Wait)
deriving DecidableEq, Repr

/-- The progress of an instruction that has begun and suspended its issuer (R7, R139, R310): what it waits for, or what
the member takes when it issues the instruction again: the value for its destination, with p0 for a FALLOC, or the exact
fault. -/
inductive Trip
  | none
  | out (w : Wait)
  | done (v : Word) (p : Option Bool)
  | fault (f : FaultInfo)
deriving DecidableEq, Repr

/-- Why a member is off rotation (R307; WAIT 5, 6, 7 and 9 of R372). -/
inductive Hold
  | notice
  | fault (recNo : Nat) (f : FaultInfo)
  | noRecord (f : FaultInfo)
  | save
  /-- FRSM kill has begun and waits for a dependent, or for a shared whose write is pending (R153). -/
  | killed
deriving DecidableEq, Repr

/-- WAIT of R372 for a member off rotation. -/
def Hold.code : Hold → BitVec 4
  | .notice => 5
  | .fault _ _ | .killed => 6
  | .noRecord _ => 7
  | .save => 9

/-- What an evaluator carries (R269, R270). -/
structure EvalRun where
  space : Space
  cell : Word
  claim : BitVec 16
  home : UnitId
  h : HandlerInfo
  defPlace : Word
deriving DecidableEq, Repr

/-- The work a slot runs (KIND of R372): a member of the family of a create-queue entry, a handler member,
an evaluator, or a member of a family folded into the slot. -/
inductive Work
  | none
  | member (cqe : Nat)
  | handler (held : Who) (recNo : Nat) (stamp : Nat)
  | evaluator (e : EvalRun)
  | folded
deriving DecidableEq, Repr

/-- KIND of R372. -/
def Work.kind : Work → BitVec 2
  | .none | .member _ => 0
  | .handler _ _ _ => 1
  | .evaluator _ => 2
  | .folded => 3

/-- A FENCE or RFENCE in progress (R291, R293), or the posted-store wait of an FBAR (R151). -/
structure FenceRun where
  kind : BitVec 2
  scope : Scope
  rfence : Bool
  /-- The journal entries (and stamps) still waited for, once the loads have landed. -/
  j : Option (List (Nat × Nat))
  /-- Replica slices whose confirmation is still to come. -/
  confirms : Option (List Nat)
deriving DecidableEq, Repr

/-- One fold of a slot (R53, R268): the frame on the bobbin, and what the frame does not hold of the work
that was swapped out. `flt` and `killed` gather the causes of R54. -/
structure Fold where
  frame : Nat
  eval : Bool
  work : Work
  sgen : BitVec 15
  ix : Word
  g : BitVec 3
  s : BitVec 3
  l : BitVec 5
  ord : BitVec 32
  prio : BitVec 2
  run : Run
  holds : List Hold
  /-- The frames the swapped-out work has pushed itself (R55). -/
  pushed : List Nat
  /-- The handles of the families it created (R134). -/
  created : List Word
  handler : Option Word
  mode : BitVec 2
  rkey : Word
  defPlace : Word
  flt : Option (BitVec 32)
  killed : Bool
  dead : Bool
  held : List Ev
  eos : Bool
  target : Bool
  branchPc : Option Word
  replyDest : Reg
  /-- What the swapped-out work had begun: its round trip, its fence, its end, its line fetch, its jump table read. -/
  trip : Trip := .none
  fence : Option FenceRun := none
  ending : Option (BitVec 2) := none
  told : Bool := false
  fetching : Option Nat := none
  jtab : Option Nat := none
  jpop : Nat := 0
deriving DecidableEq, Repr

/-- What the slot keeps beside a family's frame: the handler of FHAND (R144) and the index value of the
lowest faulting member (R54). -/
structure FrameInfo where
  frame : Nat
  handler : Option Word
  flt : Option (BitVec 32)
deriving DecidableEq, Repr

/-- A thread slot: its 32-word context (R23), ln, its slot-table entry (R372), its counters (R388) and the
line it holds (R73). -/
structure Slot where
  regs : List (Nat × Word) := []
  full : BitVec 32 := 0
  pend : BitVec 32 := 0
  pc : Word := 0
  pred : BitVec 8 := 0
  frm : BitVec 7 := 0
  /-- The cycle of the last landing that raised flags, and the flags landed in it (R159). -/
  landed : Nat × BitVec 5 := (0, 0)
  ffrm : BitVec 20 := 0
  fflim : BitVec 20 := 0
  /-- The slot's bobbin area as POOLPART gave it (R24, R406). -/
  bobRm : BitVec 20 := 0
  bobLim : BitVec 20 := 0
  rkey : Word := 0
  evc : Word := 0
  ln : Word := 0
  lnPend : Bool := false
  ix : Word := 0
  g : BitVec 3 := 0
  s : BitVec 3 := 0
  l : BitVec 5 := 0
  work : Work := .none
  anchor : Option Nat := none
  run : Run := .ready
  holds : List Hold := []
  prio : BitVec 2 := 0
  sgen : BitVec 15 := 0
  scnt : BitVec 15 := 0
  ord : BitVec 32 := 0
  aging : BitVec 12 := 0
  evage : BitVec 32 := 0
  evRaised : Bool := false
  readyAt : Nat := 0
  line : Option (Word × BitVec 512) := none
  fetching : Option Nat := none
  branchPc : Option Word := none
  /-- The PC was set by a branch or a start, not by going on from the head before (R72, R79). -/
  target : Bool := true
  /-- Asynchronous faults kept for the work with the SGEN beside them (R394). -/
  asyncs : List (BitVec 15 × FaultInfo) := []
  folds : List Fold := []
  pushed : List Nat := []
  created : List Word := []
  frameInfo : List FrameInfo := []
  fence : Option FenceRun := none
  /-- A popped end-of-stream (R354). -/
  eos : Bool := false
  /-- A member that must die when its folded evaluator has ended (R44). -/
  deadBelow : Bool := false
  /-- A JTAB whose read is in flight, and the words of qi that it takes when it takes effect (R132). -/
  jtab : Option Nat := none
  jpop : Nat := 0
  /-- An end that waits for a dependent: 2, begun by FRSM kill (R153). -/
  ending : Option (BitVec 2) := none
  /-- The member's break has been told to its family's owning core (R42, R148). -/
  told : Bool := false
  /-- A round trip in progress, or its answer, and its destination (R139, R310). -/
  trip : Trip := .none
  replyDest : Reg := 0
  defPlace : Word := 0
deriving DecidableEq, Repr

/-! ## Families -/

/-- The states of a family entry (R47, R370). -/
inductive FamState | free | queued | staged | running | ended
deriving DecidableEq, Repr

/-- A member waiting in a round of FBAR (R151), and its ordinal. -/
structure BarWaiter where
  who : Who
  ord : Nat
deriving DecidableEq, Repr

/-- What a launch brings with it: where its completion word lies (R65, R431), or for a service launch the word at g0
that holds the status (R437). -/
structure LaunchInfo where
  pid : Nat
  viid : BitVec 6
  compl : Word
  svc : Bool
deriving DecidableEq, Repr

/-- A family-table entry: the fields of R370, and below them the model's own record of a running family. -/
structure FamEntry where
  st : FamState := .free
  gen : BitVec 15 := 1
  cls : BitVec 2 := 0
  prio : BitVec 2 := 0
  unb : Bool := false
  chain : Bool := false
  hnd : Bool := false
  g : BitVec 3 := 0
  s : BitVec 3 := 0
  l : BitVec 5 := 0
  blk : BitVec 8 := 0
  step : BitVec 8 := 0
  limit : BitVec 32 := 0
  start : BitVec 32 := 0
  place : Word := 0
  body : Word := 0
  handler : Word := 0
  status : Word := 0
  csvc : Bool := false
  ccore : BitVec 12 := 0
  cslot : BitVec 6 := 0
  csgen : BitVec 15 := 0
  ended : BitVec 32 := 0
  brk : BitVec 32 := 0xFFFFFFFF
  kld : Bool := false
  flt : BitVec 32 := 0xFFFFFFFF
  glob : List (Nat × Word) := []
  inis : List (Nat × Word) := []
  fins : List (Nat × Word) := []
  base : Nat := 0
  count : Nat := 0
  cores : List (UnitId × Nat) := []
  contig : Nat := 0
  above : List Nat := []
  finOrd : List (Nat × Nat) := []
  brkIx : BitVec 32 := 0
  fltIx : BitVec 32 := 0
  eosEnd : Bool := false
  killAll : Bool := false
  killsOut : List UnitId := []
  waiters : List (Who × HandleOp) := []
  heldFgo : Option (Who × HandleOp) := none
  bar : List BarWaiter := []
  orphan : Bool := false
  launch : Option LaunchInfo := none
  mode : BitVec 2 := 0
  rkey : Word := 0
  defPlace : Word := 0
  root : Bool := false
  /-- The request that reserved it: creating core and number (R48). -/
  resv : UnitId × Nat := (0, 0)
  stamp : Nat := 0
deriving DecidableEq, Repr

/-- A create-queue family entry (R304), with the copy of the family's data its core needs to start members. -/
structure CqEntry where
  fam : FamRef
  g : BitVec 3
  s : BitVec 3
  l : BitVec 5
  prio : BitVec 2
  blk : Nat
  step : BitVec 8
  start : BitVec 32
  n : Option Nat
  base : Nat
  count : Nat
  chain : Bool
  bound : Bool
  started : Bool
  body : Word
  handler : Option Word
  mode : BitVec 2
  rkey : Word
  glob : List (Nat × Word)
  inis : List (Nat × Word)
  next : Nat
  resident : Nat
  fwd : List (Nat × Nat × Word)
  anchors : List Nat
  stop : Option Nat
  seq : Nat
  defPlace : Word
  root : Bool
deriving DecidableEq, Repr

/-- A handler member waiting for a slot (R152, R306). -/
structure HandlerReq where
  held : Who
  recNo : Nat
  stamp : Nat
  h : HandlerInfo
  body : Word
  prio : BitVec 2
  defPlace : Word
  /-- The faulting member is a folded member (R138, R152). -/
  fold : Bool
deriving DecidableEq, Repr

/-- A reservation held for a FALLOC still being decided (R48, R49): the create-queue entry whose slot anchors it, and
the family-table entry set aside. -/
structure Reservation where
  id : Nat
  sender : UnitId
  anchor : Option Nat
  entry : Option Nat
deriving DecidableEq, Repr

/-- A FALLOC collecting its replies at the creating core (R48). -/
structure Reserving where
  id : Nat
  who : Who
  spec : FamSpec
  dest : Reg
  waiting : List UnitId
  refused : Bool
  entries : List FamRef
deriving DecidableEq, Repr

/-! ## Stores, loads and engines of a core -/

/-- The states of a journal entry (R254). -/
inductive JState | free | posted | held | refused
deriving DecidableEq, Repr

/-- A posted access as a journal entry keeps it. -/
inductive JReq | store (p : PostedStore) | amo (a : Access)
deriving DecidableEq, Repr

/-- A journal entry (R254, R255). `pscl` says which counter counts it (R386). -/
structure JEntry where
  st : JState := .free
  slot : Nat := 0
  sgen : BitVec 15 := 0
  kind : BitVec 2 := 0
  size : BitVec 4 := 0
  cause : BitVec 4 := 0
  addr : Word := 0
  pc : Word := 0
  stamp : Nat := 0
  pscl : Bool := false
  /-- Its counter has already been decremented ahead of its refusal (R456). -/
  early : Bool := false
  req : Option JReq := none
deriving DecidableEq, Repr

/-- What an outstanding long-latency write waits for (R308). -/
inductive OutKind
  | access (a : Access)
  | unit
  | token
  | rdadd (viid : BitVec 6) (key : Word) (round : Option (BitVec 16))
  | join
deriving DecidableEq, Repr

/-- A long-latency operation whose result has not landed (R404). `load` marks what a FENCE waits for (R291);
`noticed` an access held at its home by a translation notice (R241); `accepted` an LDV in a wait list (R277). -/
structure Outst where
  tid : Nat
  who : Who
  /-- The PC of its issue. -/
  pc : Word
  kind : OutKind
  dest : Reg
  dest2 : Option Reg
  load : Bool
  noticed : Bool
  accepted : Bool
  refusals : Nat
  parked : Bool
  failed : Bool
  h : HandlerInfo
  /-- The words the access touches at its home, for the holds of R252 and R289. -/
  words : List (Space × Nat)
deriving DecidableEq, Repr

/-- An access held at its core behind another to the same word (R252, R289). -/
structure HeldAcc where
  req : Ev
  isStore : Bool
  entry : Nat
  tid : Nat
  words : List (Space × Nat)
deriving DecidableEq, Repr

/-- A range-lock entry (R373). OWNER: 0 vector unit, 1 matrix unit, 2 to 5 copy channels. -/
structure RangeLock where
  dst : Bool
  owner : Nat
  tid : Nat
  lo : Word
  hi : Word
deriving DecidableEq, Repr

/-- The vector operations (R204). -/
inductive VOp
  | add | sub | mul | fma | min | max | abs | neg | cvt (src : Fmt) | exp2 | log2 | rsq | rcp | sel | cmp (c : VCond)
  | sum | scan | gath | scat | rng | clr | cpy
deriving DecidableEq, Repr

/-- A queued vector command with what it sampled at issue (R206, R207). -/
structure VCmd where
  tid : Nat
  op : VOp
  fmt : Fmt
  b : Nat
  c : Nat
  d : Word
  c1 : Word
  bcast : Bool
  len : Nat
  mode : BitVec 2
  lxm : Bool
  cbk0 : Word
  cbk1 : Word
  rkey : Word
deriving DecidableEq, Repr

/-- The matrix operations (R222). -/
inductive MOp
  | zero (acc : Nat)
  | mmac (acc : Nat) (steps : Nat) (aOff aPitch bOff bPitch : Word)
  | transpose (src dst : Nat) | perm (src dst : Nat) (off : Nat) | rsum (src dst : Nat) | csum (src dst : Nat)
  | exch (src dst i j : Nat)
  | lda (fmt : Fmt) (acc : Nat) (off pitch : Word)
  | sta (fmt : Fmt) (acc : Nat) (off pitch : Word) (s : BitVec 8) (sc : Bool)
deriving DecidableEq, Repr

/-- A queued matrix command with the registers it sampled (R110, R221). -/
structure MCmd where
  tid : Nat
  op : MOp
  mfmt : BitVec 11
  msca : BitVec 17
  mscb : BitVec 17
  cbk0 : Word
  cbk1 : Word
  mode : BitVec 2
deriving DecidableEq, Repr

/-- The forms of copy command (R342). -/
inductive XKind | copy | shape (words : List Word) | fill
deriving DecidableEq, Repr

/-- A copy command (R344): queued on its channel. -/
structure XCmd where
  tid : Nat
  kind : XKind
  ch : Nat
  dst : Word
  src : Word
  n : Nat
  scope : Scope
  seq : BitVec 31
  xcw : Word
  space : Space
  sys : Bool
deriving DecidableEq, Repr

/-- A copy channel (R344 to R350): its sequence, its pointer and the progress of its running command. -/
structure Channel where
  seq : BitVec 31 := 0
  wptr : Word := 0
  /-- Granules or elements delivered so far by the running command. -/
  pos : Nat := 0
  running : Bool := false
  /-- The cause of the command's first failure; 0 none. -/
  failed : Nat := 0
  /-- The index vector of the next element (R348). -/
  idx : List Nat := []
  /-- Reads in flight: transaction, place in the granule, bytes. -/
  reads : List (Nat × Nat × Nat) := []
  buf : BitVec 512 := 0
  /-- Writes of the granule that no target has answered yet. -/
  writes : Nat := 0
  /-- The completion store has been sent (R347). -/
  stored : Bool := false
deriving DecidableEq, Repr

/-- A running CSPLIT (R186). -/
structure CurveCmd where
  who : Who
  tid : Nat
  dest : Reg
  n1 : BitVec 3
  start : Word
  lo : Word
  hi : Word
  off : Nat
  m : Nat
  /-- The cycle in which it completes; 0 until the unit takes it up. -/
  til : Nat
  /-- The cycle in which its member was killed. -/
  killed : Option Nat := none
deriving DecidableEq, Repr

/-- A record-cache entry (R349). -/
structure RecEntry where
  space : Space
  addr : Word
  data : List Word
deriving DecidableEq, Repr

/-- A shape record being read for a suspended XSHAPE: the reads in flight with their place, and the words so far (R349). -/
structure RecRead where
  who : Who
  space : Space
  addr : Word
  tids : List (Nat × Nat)
  words : List (Nat × Word)
  /-- The reads whose translation notice has the issuer off rotation (R241). -/
  noticed : List Nat := []
deriving DecidableEq, Repr

/-- A SYS form whose targets have not all answered (R400). -/
structure SysRun where
  tid : Nat
  left : Nat
  acc : Word
deriving DecidableEq, Repr

/-- A suspension record being read for a claim: the reads in flight with their word, and the words so far (R268). -/
structure SuspRead where
  claim : Claim
  tids : List (Nat × Nat)
  words : List (Nat × Word)
  failed : Bool
deriving DecidableEq, Repr

/-! ## A core -/

/-- A compute or service core. -/
structure Core where
  sysMode : Bool := false
  poolw : Word := 0x44
  pool : List (Nat × Byte) := []
  zeroFillUntil : Nat := 0
  assigned : Bool := false
  mfmt : BitVec 11 := 0
  msca : BitVec 17 := 0
  mscb : BitVec 17 := 0
  cbk0 : Word := 0
  cbk1 : Word := 0
  qchain : Word := 0
  xcw : List (Nat × Word) := []
  timer : Word := 0
  evto : Word := 0x00100000
  gstop : Word := 0
  /-- The core is stopped by a STOPAT, not by its own WRC of GSTOP alone (R405, R464). -/
  swept : Bool := false
  viid : BitVec 6 := 0
  pscl : BitVec 7 := 0
  pscr : BitVec 7 := 0
  slots : List (Nat × Slot) := []
  fams : List (Nat × FamEntry) := []
  cq : List (Nat × CqEntry) := []
  hq : List HandlerReq := []
  eq : List EvalReq := []
  bq : List BoundReq := []
  reservations : List Reservation := []
  reserving : List Reserving := []
  journal : List (Nat × JEntry) := []
  locks : List RangeLock := []
  divFree : Nat := 0
  fpFree : Nat := 0
  curve : Option CurveCmd := none
  /-- The CSPLITs that wait for the curve-list unit, in the order of their issue (R186). -/
  curves : List CurveCmd := []
  vq : List VCmd := []
  mq : List MCmd := []
  xq : List XCmd := []
  /-- Pool bytes that an engine command no longer writes, because another engine's value won (R202). -/
  shields : List (Nat × Nat) := []
  chans : List (Nat × Channel) := []
  qi : List ChainWord := []
  qo : List ChainWord := []
  /-- Chain words that have come before their family is decided here (R353). -/
  early : List (FamRef × ChainWord) := []
  /-- Words sent downstream whose credit has not come back (R352). -/
  qoOut : Nat := 0
  chainFam : Option FamRef := none
  /-- Where buffered chain words go, kept when the member that pushed them has ended (R353). -/
  downLink : Option (UnitId × FamRef) := none
  timerEv : Option Word := none
  /-- The places of the event area that hold a posted event, oldest first (R200, R362). -/
  posts : List Nat := []
  evOrder : Nat := 0
  recs : List (Nat × RecEntry) := []
  recReads : List RecRead := []
  out : List Outst := []
  held : List HeldAcc := []
  /-- Deliveries of reductions kept for RDADDs not yet acknowledged (R359). -/
  deliveries : List Delivery := []
  /-- The fault records in use (R200). -/
  recUsed : BitVec 16 := 0
  rr : List (Nat × Nat) := []
  /-- The cycle of the core's last issue, for the count of R391. -/
  issuedAt : Option Nat := none
  stopped : Bool := false
  late : Bool := false
  retired : Bool := false
  halted : Bool := true
  nlog : BitVec 2 := 0
  imap : List (Nat × BitVec 8) := []
  perf : List (Nat × Word) := []
  suspReads : List SuspRead := []
  sysRuns : List SysRun := []
  /-- SYS requests at this core behind one that waits there, that one first (R400). -/
  sysQueue : List Ev := []
deriving DecidableEq, Repr

/-! ## Slices -/

/-- A slice line (R235): its words, tags and dirty bit, the physical address it came from, and its words marked
uncorrectable (R411, R414). -/
structure CLine where
  svs : Bool
  viid : BitVec 6
  line : Nat
  data : BitVec 1024
  tags : BitVec 32
  dirty : Bool
  pa : Nat
  marked : BitVec 16
deriving DecidableEq, Repr

/-- A replica line (R328). -/
structure RLine where
  svs : Bool
  viid : BitVec 6
  line : Nat
  data : BitVec 1024
deriving DecidableEq, Repr

/-- A translation-cache entry (R374). -/
structure TEntry where
  svs : Bool
  viid : BitVec 6
  psize : BitVec 2
  vpage : Nat
  pa : Nat
  d : Bool
  sysp : Bool
  x : Bool
  w : Bool
  leafAt : Nat
deriving DecidableEq, Repr

/-- A wait record (R266). -/
structure WaitRec where
  next : BitVec 11
  tail : BitVec 10
  ev : Bool
  evWho : Who
  claim : BitVec 16
  who : Who
  dest : Reg
  tid : Nat
deriving DecidableEq, Repr

/-- An open combining window (R327). -/
structure Window where
  id : Nat
  svs : Bool
  viid : BitVec 6
  line : Nat
  readers : List Access
  /-- The cycle from which the line is present, before which it does not close. -/
  ready : Nat := 0
deriving DecidableEq, Repr

/-- Accesses held at a home behind a notice, a full dirty log or a PGSWAP (R241, R259, R408). -/
structure HeldChunk where
  space : Space
  chunk : Nat
  notice : Bool
  reqs : List Ev
deriving DecidableEq, Repr

/-- A refusal that A0 holds at a replica slice (R456). -/
structure HeldRefusal where
  stamp : Nat
  msg : RefusalMsg
deriving DecidableEq, Repr

/-- A reduction-directory entry (R377), with where its context lies. -/
structure DirEntry where
  viid : BitVec 6
  key : Word
  handle : Word
  desc : Word
  ctx : RedCtx
deriving DecidableEq, Repr

/-- A slice. -/
structure Slice where
  lines : List CLine := []
  replicas : List RLine := []
  tcache : List TEntry := []
  waits : List (Nat × WaitRec) := []
  high : Nat := 0
  claims : BitVec 16 := 0
  w : BitVec 8 := 0
  windows : List Window := []
  vtb : Word := 0
  hroot : Word := 0
  dir : List (Nat × DirEntry) := []
  held : List HeldChunk := []
  refusals : List HeldRefusal := []
  /-- When a replica line was last invalidated or the store cleared: later fills of older reads are dropped (R287). -/
  clearedAt : Nat := 0
  invalAt : List (Nat × Nat) := []
  /-- The newest reading of a line that has passed: an older one fills nothing (R294 shape 2). -/
  newest : List (Nat × Nat) := []
  retired : Bool := false
  nlog : BitVec 2 := 0
  imap : List (Nat × BitVec 8) := []
  perf : List (Nat × Word) := []
deriving DecidableEq, Repr

/-! ## Stations, ports, dies, partitions -/

/-- A reduction context (R331). -/
structure RedContext where
  viid : BitVec 6
  op : BitVec 3
  fmt : BitVec 2
  key : Word
  peers : BitVec 16
  expect : BitVec 16
  count : BitVec 16
  round : BitVec 16
  xdev : Bool
  group : BitVec 4
  place : BitVec 25
  sig : Bool
  nan : Bool
  pinf : Bool
  ninf : Bool
  acc : BitVec 320
  /-- The contributions of the round, for a cross-device round that ends with NORED (R334). -/
  late : List (UnitId × Nat)
  states : List PeerState
  full : Bool
  alloc : Nat
deriving DecidableEq, Repr

/-- Something that will happen: when, in which place of a cycle's order (R104, R311), and in which order of sending.
A packet names its class, endpoints and VI, for the order of R322 and the sweep of R335, and the cycle of its injection. -/
structure Pending where
  due : Nat
  rank : Nat
  seq : Nat
  packet : Bool
  cls : Nat
  src : UnitId
  dst : UnitId
  viid : BitVec 6
  svs : Bool
  ev : Ev
  inj : Nat := 0
  /-- No port stops it, else `back` is what its source hears of a port that does (R381). -/
  exempt : Bool := true
  back : Option Ev := none
deriving DecidableEq, Repr

/-- A packet a station keeps through a stop, with the sides of its route there (a multicast may leave by several), the cycles it
still has to go, the place of its route where it stands, and its flits; with its place in the die's save area once spilled (R336,
R338). Sides: 0 to 3 ring + and ring − of pairs A and B, 4 and 5 spine + and −, 6 the station itself. -/
structure Saved where
  packet : Pending
  left : Nat
  way : Nat
  sideIn : Nat
  sidesOut : List Nat
  flits : Nat
  spilled : Option Nat
deriving DecidableEq, Repr

/-- A packet that waits at its stop, not injected, for its VI's go (R335, R405). -/
structure Unsent where
  cls : Nat
  rank : Nat
  src : UnitId
  dst : UnitId
  space : Space
  exempt : Bool
  leg : Nat
  ev : Ev
  back : Option Ev
deriving DecidableEq, Repr

/-- A station. -/
structure Station where
  ctx : List (Nat × RedContext) := []
  save : List Saved := []
  /-- The VIs that go on, and whose spilled packets it is still reading: it keeps what comes behind those (R337, R338). -/
  reading : List (BitVec 6) := []
  perf : List (Nat × Word) := []
deriving DecidableEq, Repr

/-- An RMA whose pieces are on their way (R429): how many have not been answered, and what has come back. -/
structure RmaRun where
  run : Nat
  ticket : Nat
  write : Bool
  left : Nat
  data : Word
  failed : Bool
deriving DecidableEq, Repr

/-- A port engine. -/
structure PortEngine where
  ctx : List (Nat × RedContext) := []
  dies : BitVec 4 := 0
  /-- The peers' addresses of the groups, by VIID · 16 + group. -/
  groups : List (Nat × List (BitVec 128)) := []
  rmas : List RmaRun := []
  drop : BitVec 32 := 0
  perf : List (Nat × Word) := []
deriving DecidableEq, Repr

/-- A die-to-die port. -/
structure D2dPort where
  pass : Bool := false
  drop : BitVec 32 := 0
  perf : List (Nat × Word) := []
deriving DecidableEq, Repr

/-- The power states of a die (R446, R448). -/
inductive Power | off | rom | halted | ready | running | tripped
deriving DecidableEq, Repr

/-- A stop in progress on a die (R335, R405). -/
structure StopRun where
  viid : BitVec 6
  /-- C, and the cycle at which the stop begins on this die: later than C only under erratum E5 (R458). -/
  gstop : Nat
  cycle : Nat
  issuer : Who
  dies : BitVec 4
  shuttles : Nat
  cores : List UnitId
  /-- The packets in flight have been judged, and the shuttles launched (R335). -/
  kept : Bool
  launched : Bool
deriving DecidableEq, Repr

/-- A die. -/
structure Die where
  power : Power := .off
  throttle : BitVec 3 := 0
  m0 : BitVec 256 := 0
  m1 : BitVec 256 := 0
  m2 : BitVec 256 := 0
  seats : List (Nat × Nat) := []
  sliceMap : List (Nat × Nat) := []
  stops : List StopRun := []
  /-- The copy of IMAP that a core of the die takes over at PZERO (R380, R406). -/
  nlog : BitVec 2 := 0
  imap : List (Nat × BitVec 8) := []
  retiredCores : Nat := 0
  retiredSlices : Nat := 0
deriving DecidableEq, Repr

/-- How a Heald takes part in a merge (R423, R437, R440). As the primary: `asked` waits for ANSWER, with whether a queue of its own
was busy at step 2, `stopping` for its own stop and READY, `routine` runs a service launch on a service core, `splitting` waits for
its own stop to give dies away. As the other Heald: `quiesced` has the primary's VIIDs so far and the service index that hears it,
`saving` stops its VI, `saved` has told READY, with the VIIDs it then had. -/
inductive MergeState
  | idle
  | asked (req : HostReq) (other : Nat) (stamp : Nat) (busy : Bool)
  | stopping (req : HostReq) (other : Nat) (ready : Bool)
  | routine (req : HostReq) (svc : Nat) (entry : Nat) (stamp : Nat) (quiesced answered : Bool)
  | quiesced (rsvc : Nat) (vis : BitVec 64)
  | saving (rsvc : Nat)
  | saved (vis : BitVec 64)
  | splitting (dies : List Nat)
deriving DecidableEq, Repr

/-- A partition as its primary Heald keeps it (R420 to R436), under the primary's die. Maps are keyed by VIID, saved
cores by VIID · 2^16 + unit. -/
structure Partition where
  dies : List Nat := []
  running : Option (BitVec 6) := none
  /-- The running VI is being stopped for the next slice, or for its dirty log (R259, R427). -/
  stopping : Bool := false
  sliceStamp : Nat := 0
  sliceEnd : Nat := 0
  last : BitVec 6 := 0
  merge : MergeState := .idle
  heldReqs : List Ev := []
  /-- The queue entry in service (R434). -/
  heads : List (Nat × HostReq) := []
  retryAt : List (Nat × Nat) := []
  hostReg : List (Nat × Word) := []
  hostLen : List (Nat × Word) := []
  hostKey : List (Nat × Word) := []
  winFirst : List (Nat × Word) := []
  winCount : List (Nat × Word) := []
  saved : List (Nat × Core) := []
  /-- Cores whose pool has failed, and units of a lost ring pair, to be retired and remapped while the VI is stopped (R339, R414). -/
  repairs : List UnitId := []
  /-- C of the stop whose end Heald has not yet heard of (R405, R440). -/
  stopC : Option Nat := none
  /-- The service cores that wait for their PZERO after a routine was killed (R437). -/
  reassign : List Nat := []
  /-- The TYPEs whose service image has been loaded (R437, R450). -/
  loaded : List Nat := []
deriving DecidableEq, Repr

/-! ## Agenda -/


/-- A multicast waiting for tokens (R324). -/
structure McRun where
  id : Nat
  left : List Nat
  mc : Multicast
deriving DecidableEq, Repr

/-- What the device sends over its ports: replies to sends (R430), to RMA and to operations it does not support (R429),
and the states of cross-device rounds to their peers (R334). -/
inductive UeOut
  | reply (pid : Nat) (viid : BitVec 6) (w0 w1 : Word)
  | rmaData (ticket : Nat) (v : Word)
  | rmaDone (ticket : Nat)
  | rmaError (ticket : Nat)
  | notSupported (ticket : Nat)
  | certificate (die : Nat) (bytes : List Byte)
  | peer (address : BitVec 128) (x : PeerState)
deriving DecidableEq, Repr

/-- The module and what stands in for its outside. -/
structure State where
  cycle : Nat
  released : Bool
  agenda : List Pending
  nextSeq : Nat
  freeCtr : Nat
  curUnit : UnitId
  curSlot : Nat
  arg : Arg
  cursor : Nat
  fifo : List (Nat × Nat)
  /-- Packets of stopped VIs that no stop has injected, in order (R335). -/
  unsent : List Unsent
  mem : List Host.Cell
  tags : List (Nat × BitVec 2)
  /-- Words written back marked uncorrectable (R411). -/
  marks : List (Nat × Bool)
  cores : List (Nat × Core)
  slices : List (Nat × Slice)
  stations : List (Nat × Station)
  engines : List (Nat × PortEngine)
  ports : List (Nat × D2dPort)
  dies : List (Nat × Die)
  parts : List (Nat × Partition)
  tokens : List (Nat × List Nat)
  mcasts : List McRun
  degraded : List (Nat × Nat)
  /-- The failed bundles at a place of a ring pair or spine: bit r for ring r (R339). -/
  bundles : List (Nat × Nat)
  hostMem : List Host.Cell
  /-- The storage namespaces, each under the die of the primary whose partition attaches it (R420, R436). -/
  nvme : List (Nat × List Host.Cell)
  replies : List UeOut
  /-- Core images that SLOTSV has written, by the number their second word holds (R403). -/
  images : List (Nat × Core)
  /-- For a drop counter: the cycle of its last count, and how many it counted in that cycle (R389). Ports 0 to 7, port engines
  8 to 11, the DROP words of VI tables by their physical address. -/
  dropCounts : List (Nat × (Nat × Nat))
deriving DecidableEq, Repr

/-- The module at power-on (R448): nothing released, nothing in memory, the four dies about to run their ROMs. -/
def State.reset : State where
  cycle := 0
  released := false
  agenda :=
    [ { due := 0, rank := 0, seq := 0, packet := false, cls := 0, src := 0, dst := 0, viid := 0, svs := true, ev := ⟨.powerOn, .die 0⟩ },
      { due := 0, rank := 0, seq := 1, packet := false, cls := 0, src := 0, dst := 0, viid := 0, svs := true, ev := ⟨.powerOn, .die 1⟩ },
      { due := 0, rank := 0, seq := 2, packet := false, cls := 0, src := 0, dst := 0, viid := 0, svs := true, ev := ⟨.powerOn, .die 2⟩ },
      { due := 0, rank := 0, seq := 3, packet := false, cls := 0, src := 0, dst := 0, viid := 0, svs := true, ev := ⟨.powerOn, .die 3⟩ } ]
  nextSeq := 4
  freeCtr := 0
  curUnit := 0
  curSlot := 0
  arg := .none
  cursor := 0
  fifo := []
  unsent := []
  mem := []
  tags := []
  marks := []
  cores := []
  slices := []
  stations := []
  engines := []
  ports := []
  dies := []
  parts := []
  tokens := []
  mcasts := []
  degraded := []
  bundles := []
  hostMem := []
  nvme := []
  replies := []
  images := []
  dropCounts := []

end Sys2Proof.Machine
end

