-- ==== Sys2Proof/Machine/Base.lean ====
section
/-! DEFINITION. Accessors of State: cores, slots, slices and the agenda. Every other file reads and writes the
state through these. -/

namespace Sys2Proof.Machine

/-- The answer of a meaning or a step. -/
abbrev Out := Host.Outcome State Fault Refusal

/-! ## Units (R319, R400) -/

/-- KIND of a unit value. -/
def unitKind (u : UnitId) : Nat := u / 0x4000
/-- Identifier of a unit value. -/
def unitIdent (u : UnitId) : Nat := u % 0x4000
/-- Compute core. -/
def isCompute (u : UnitId) : Bool := unitKind u == 0 && u < 4096
/-- Service core. -/
def isService (u : UnitId) : Bool := unitKind u == 2 && unitIdent u < 32
/-- A service core's unit value. -/
def svcUnit (idx : Nat) : UnitId := 0x8000 + idx
/-- A slice's unit value. -/
def sliceUnit (id : Nat) : UnitId := 0x4000 + id
/-- A station's unit value. -/
def stationUnit (id : Nat) : UnitId := 0xC000 + id
/-- A port engine's unit value. -/
def engineUnit (die : Nat) : UnitId := 0x10000 + die
/-- A die-to-die port's unit value (R319). -/
def portUnit (die : Nat) (down : Bool) : UnitId := 0x14000 + 2 * die + (if down then 1 else 0)

/-- The die of a unit (R16, R18, R19, R319). -/
def unitDie (u : UnitId) : Nat :=
  match unitKind u with
  | 0 => u / 1024
  | 1 => unitIdent u / 64
  | 2 => unitIdent u / 8
  | 3 => unitIdent u / 16
  | 4 => unitIdent u
  | _ => unitIdent u / 2

/-- Heald's service core of a die (R396). -/
def healdUnit (die : Nat) : UnitId := svcUnit (8 * die)

/-! ## Records of the state -/

def State.core (s : State) (u : UnitId) : Core := aget {} s.cores u
def State.setCore (s : State) (u : UnitId) (c : Core) : State := { s with cores := aput s.cores u c }
def State.modCore (s : State) (u : UnitId) (f : Core → Core) : State := s.setCore u (f (s.core u))

def Core.slot (c : Core) (i : Nat) : Slot := aget {} c.slots i
def Core.setSlot (c : Core) (i : Nat) (x : Slot) : Core := { c with slots := aput c.slots i x }

def State.slot (s : State) (u : UnitId) (i : Nat) : Slot := (s.core u).slot i
def State.setSlot (s : State) (u : UnitId) (i : Nat) (x : Slot) : State := s.modCore u fun c => c.setSlot i x
def State.modSlot (s : State) (u : UnitId) (i : Nat) (f : Slot → Slot) : State := s.setSlot u i (f (s.slot u i))

/-- The core that issues. -/
def State.curCore (s : State) : Core := s.core s.curUnit
/-- The slot that issues. -/
def State.cur (s : State) : Slot := s.slot s.curUnit s.curSlot
def State.modCur (s : State) (f : Slot → Slot) : State := s.modSlot s.curUnit s.curSlot f
def State.modCurCore (s : State) (f : Core → Core) : State := s.modCore s.curUnit f

def State.slice (s : State) (id : Nat) : Slice := aget {} s.slices id
def State.setSlice (s : State) (id : Nat) (x : Slice) : State := { s with slices := aput s.slices id x }
def State.modSlice (s : State) (id : Nat) (f : Slice → Slice) : State := s.setSlice id (f (s.slice id))

def State.station (s : State) (id : Nat) : Station := aget {} s.stations id
def State.modStation (s : State) (id : Nat) (f : Station → Station) : State :=
  { s with stations := aput s.stations id (f (s.station id)) }

def State.engine (s : State) (die : Nat) : PortEngine := aget {} s.engines die
def State.modEngine (s : State) (die : Nat) (f : PortEngine → PortEngine) : State :=
  { s with engines := aput s.engines die (f (s.engine die)) }

def State.port (s : State) (id : Nat) : D2dPort := aget {} s.ports id
def State.modPort (s : State) (id : Nat) (f : D2dPort → D2dPort) : State :=
  { s with ports := aput s.ports id (f (s.port id)) }

def State.die (s : State) (d : Nat) : Die := aget {} s.dies d
def State.modDie (s : State) (d : Nat) (f : Die → Die) : State := { s with dies := aput s.dies d (f (s.die d)) }

/-- The partition a primary's die number names. -/
def State.part (s : State) (p : Nat) : Partition := aget {} s.parts p
def State.modPart (s : State) (p : Nat) (f : Partition → Partition) : State :=
  { s with parts := aput s.parts p (f (s.part p)) }

/-- The primary (lowest) die of the partition that holds a die (R421); a die outside any defined partition
works alone (R449). -/
def State.pidOf (s : State) (d : Nat) : Nat :=
  match s.parts.find? fun p => p.2.dies.contains d with
  | some p => p.1
  | none => d

/-- The dies of the partition of a die. -/
def State.partDies (s : State) (d : Nat) : List Nat :=
  match (s.part (s.pidOf d)).dies with
  | [] => [d]
  | ds => ds

/-- A unit lies in the partition of a die. -/
def State.inPart (s : State) (d : Nat) (u : UnitId) : Bool := (s.partDies d).contains (unitDie u)

/-- GCYC (R384). -/
def State.gcyc (s : State) : Word := BitVec.ofNat 64 s.cycle

/-- The identity of the work that a slot runs (R138). -/
def State.who (s : State) (u : UnitId) (i : Nat) : Who := ⟨u, i, (s.slot u i).sgen⟩
def State.curWho (s : State) : Who := s.who s.curUnit s.curSlot

/-- A fresh transaction number. -/
def State.fresh (s : State) : Nat × State := (s.nextSeq, { s with nextSeq := s.nextSeq + 1 })

/-- The key of a VI's reduction group at a port engine (R334). -/
def groupKey (viid : BitVec 6) (g : Nat) : Nat := viid.toNat * 16 + g

/-- `t` cycles of a matrix sequencer or vector unit at its die's throttle level: it begins work in at most 8 − L of every
8 cycles (R446). -/
def State.slowed (s : State) (u : UnitId) (t : Nat) : Nat :=
  let k := 8 - (s.die (unitDie u)).throttle.toNat
  (8 * t + k - 1) / k

/-! ## The agenda (R104, R311): ranks within one cycle. -/

/-- Landings come after kills and before forwarded shareds; then what reaches families, a break before a kill and a kill
before a fault report (R370); the units' own steps and arrivals at slices; assignment and issue come last. -/
def rankKill : Nat := 0
def rankLanding : Nat := 1
def rankForward : Nat := 2
def rankBreak : Nat := 3
def rankReply : Nat := 4
def rankFault : Nat := 5
def rankUnit : Nat := 6
def rankAssign : Nat := 7

/-- A device step to be taken at a cycle. -/
def State.schedule (s : State) (due rank : Nat) (ins : Instr) (arg : Arg) : State :=
  { s with
    nextSeq := s.nextSeq + 1
    agenda := { due := due, rank := rank, seq := s.nextSeq, packet := false, cls := 0, src := 0, dst := 0, viid := 0,
                svs := false, ev := ⟨ins, arg⟩ } :: s.agenda }

/-- `a` comes before `b`: earlier cycle, then rank, then order of sending. -/
def Pending.before (a b : Pending) : Bool :=
  a.due < b.due || (a.due == b.due && (a.rank < b.rank || (a.rank == b.rank && a.seq < b.seq)))

/-- The first pending entry. -/
def firstPending : List Pending → Option Pending
  | [] => none
  | p :: ps =>
    match firstPending ps with
    | none => some p
    | some q => if q.before p then some q else some p

/-- The pool size of a core (R194). -/
def poolSize (u : UnitId) : Nat := if isService u then 0x100000 else 0x20000

/-- The slots of a core (R195: RF units of 16). -/
def Core.nslots (c : Core) : Nat := 16 * fld c.poolw 3 0

/-- Add one to a performance counter, with its sticky OVF (R390). -/
def bumpPerf (m : List (Nat × Word)) (off n : Nat) : List (Nat × Word) :=
  let v := aget 0 m off
  let c := fld v 47 0 + n
  aset 0 m off (BitVec.ofNat 64 ((if v.toNat ≥ 2 ^ 63 || c ≥ 2 ^ 48 then 2 ^ 63 else 0) + c % 2 ^ 48))

/-- A core's space for global accesses (R239). -/
def State.spaceOf (s : State) (u : UnitId) : Space :=
  if isService u then ⟨true, 0⟩ else ⟨false, (s.core u).viid⟩

/-- The mode of every slot of a core (R395). -/
def State.sysOf (s : State) (u : UnitId) : Bool := isService u || (s.core u).sysMode

end Sys2Proof.Machine
end

