-- ==== Sys2Proof/Machine/Digest.lean ====
section
/-! DEFINITION. SHA-256 and the verification of RSASSA-PSS signatures, which the rules on boot images and measurements name
(27_package R447, R450, R451). Both are written from their standards, FIPS 180-4 and RFC 8017 (assumption log 44, PRESUMED). -/

namespace Sys2Proof.Machine

/-- The bytes of a digest or signature, first byte first. -/
def bigEndian (n : Nat) (v : Nat) : List Byte := (bytesOf n v).reverse
/-- The number that bytes are, first byte first. -/
def ofBigEndian (bs : List Byte) : Nat := ofBytes bs.reverse

/-! ## SHA-256 -/

/-- The eight words of a hash value. -/
structure Sha where
  a : BitVec 32
  b : BitVec 32
  c : BitVec 32
  d : BitVec 32
  e : BitVec 32
  f : BitVec 32
  g : BitVec 32
  h : BitVec 32
deriving DecidableEq, Repr

/-- The initial hash value. -/
def Sha.init : Sha :=
  ⟨0x6a09e667, 0xbb67ae85, 0x3c6ef372, 0xa54ff53a, 0x510e527f, 0x9b05688c, 0x1f83d9ab, 0x5be0cd19⟩

/-- The constants of rounds 0 to 31. -/
def shaConstsLow : List (BitVec 32) :=
  [0x428a2f98, 0x71374491, 0xb5c0fbcf, 0xe9b5dba5, 0x3956c25b, 0x59f111f1, 0x923f82a4, 0xab1c5ed5,
   0xd807aa98, 0x12835b01, 0x243185be, 0x550c7dc3, 0x72be5d74, 0x80deb1fe, 0x9bdc06a7, 0xc19bf174,
   0xe49b69c1, 0xefbe4786, 0x0fc19dc6, 0x240ca1cc, 0x2de92c6f, 0x4a7484aa, 0x5cb0a9dc, 0x76f988da,
   0x983e5152, 0xa831c66d, 0xb00327c8, 0xbf597fc7, 0xc6e00bf3, 0xd5a79147, 0x06ca6351, 0x14292967]
/-- The constants of rounds 32 to 63. -/
def shaConstsHigh : List (BitVec 32) :=
  [0x27b70a85, 0x2e1b2138, 0x4d2c6dfc, 0x53380d13, 0x650a7354, 0x766a0abb, 0x81c2c92e, 0x92722c85,
   0xa2bfe8a1, 0xa81a664b, 0xc24b8b70, 0xc76c51a3, 0xd192e819, 0xd6990624, 0xf40e3585, 0x106aa070,
   0x19a4c116, 0x1e376c08, 0x2748774c, 0x34b0bcb5, 0x391c0cb3, 0x4ed8aa4a, 0x5b9cca4f, 0x682e6ff3,
   0x748f82ee, 0x78a5636f, 0x84c87814, 0x8cc70208, 0x90befffa, 0xa4506ceb, 0xbef9a3f7, 0xc67178f2]

/-- The message schedule of a block, the latest word first. -/
def shaSchedule (block : List Byte) : List (BitVec 32) :=
  let ws := (List.range 16).map fun k => BitVec.ofNat 32 (ofBigEndian ((block.drop (4 * k)).take 4))
  (List.range 48).foldl
    (fun ws _ =>
      let w := fun (k : Nat) => ws.getD k 0
      let s0 := (w 14).rotateRight 7 ^^^ (w 14).rotateRight 18 ^^^ (w 14) >>> 3
      let s1 := (w 1).rotateRight 17 ^^^ (w 1).rotateRight 19 ^^^ (w 1) >>> 10
      (s1 + w 6 + s0 + w 15) :: ws) ws.reverse

/-- A round, of a constant and a schedule word. -/
def Sha.round (x : Sha) (kw : BitVec 32 × BitVec 32) : Sha :=
  let s1 := x.e.rotateRight 6 ^^^ x.e.rotateRight 11 ^^^ x.e.rotateRight 25
  let ch := (x.e &&& x.f) ^^^ (~~~x.e &&& x.g)
  let t1 := x.h + s1 + ch + kw.1 + kw.2
  let s0 := x.a.rotateRight 2 ^^^ x.a.rotateRight 13 ^^^ x.a.rotateRight 22
  let maj := (x.a &&& x.b) ^^^ (x.a &&& x.c) ^^^ (x.b &&& x.c)
  ⟨t1 + s0 + maj, x.a, x.b, x.c, x.d + t1, x.e, x.f, x.g⟩

/-- The hash value after a block of 64 bytes. -/
def Sha.compress (x : Sha) (block : List Byte) : Sha :=
  let y := ((shaConstsLow ++ shaConstsHigh).zip (shaSchedule block).reverse).foldl Sha.round x
  ⟨x.a + y.a, x.b + y.b, x.c + y.c, x.d + y.d, x.e + y.e, x.f + y.f, x.g + y.g, x.h + y.h⟩

/-- The hash value after `n` blocks. -/
def Sha.blocks : Nat → List Byte → Sha → Sha
  | 0, _, x => x
  | n + 1, bs, x => Sha.blocks n (bs.drop 64) (x.compress (bs.take 64))

/-- A message with its padding: whole blocks. -/
def shaPad (m : List Byte) : List Byte :=
  m ++ [0x80] ++ List.replicate ((119 - m.length % 64) % 64) 0 ++ bigEndian 8 (8 * m.length)

/-- SHA-256. -/
def sha256 (m : List Byte) : BitVec 256 :=
  let p := shaPad m
  let x := Sha.blocks (p.length / 64) p Sha.init
  x.a ++ x.b ++ x.c ++ x.d ++ x.e ++ x.f ++ x.g ++ x.h

/-- The bytes of a hash. -/
def shaBytes (m : List Byte) : List Byte := bigEndian 32 (sha256 m).toNat

/-- The extension of a measurement register (R450). -/
def extendM (m : BitVec 256) (measured : List Byte) : BitVec 256 := sha256 (bigEndian 32 m.toNat ++ shaBytes measured)

/-! ## RSASSA-PSS with SHA-256, MGF1 with SHA-256 and a 32-byte salt, for a modulus of 3,072 bits and the exponent 65,537 -/

/-- The mask that MGF1 makes of a seed, `n` bytes. -/
def mgf1 (seed : List Byte) (n : Nat) : List Byte :=
  ((List.range ((n + 31) / 32)).flatMap fun k => shaBytes (seed ++ bigEndian 4 k)).take n

/-- The 65,537th power of a number, by a modulus. -/
def powF4 (n x : Nat) : Nat := (List.range 16).foldl (fun y _ => y * y % n) x * x % n

/-- An encoded message of 3,071 bits agrees with a message's hash. -/
def pssAgrees (em hash : List Byte) : Bool :=
  let masked := em.take 351
  let h := (em.drop 351).take 32
  let db := ((masked.zip (mgf1 h 351)).map fun p => p.1 ^^^ p.2)
  let salt := db.drop 319
  em.drop 383 = [0xBC] && !(masked.headD 0).getLsbD 7 && (db.headD 0 &&& 0x7F) = 0 && ((db.take 318).drop 1).all (· = 0) &&
    db.getD 318 0 = 1 && h = shaBytes (List.replicate 8 0 ++ hash ++ salt)

/-- A signature of a message verifies under a modulus. -/
def pssVerify (modulus : Nat) (msg : List Byte) (sig : Nat) : Bool :=
  sig < modulus && pssAgrees (bigEndian 384 (powF4 modulus sig)) (shaBytes msg)

end Sys2Proof.Machine
end

