-- ==== Sys2Proof/WellFormed.lean ====
section
/-! DEFINITION. Which terms of Instr are instructions: the operand rules that a type of Syntax does not already
state (R81, R82, and the entries named at each check). A step of the device carries no such rule. -/

namespace Sys2Proof

/-- The width in bits of one axis of a curve code with n = n1 + 1 axes (R177). -/
def axisBits (n1 : BitVec 3) : Nat := 64 / (n1.toNat + 1)

/-- The integer formats and the floating formats of the vector operations (R204: I and Fl). -/
def Fmt.isArith : Fmt → Bool
  | .i64 | .i32 | .z64 | .z32 | .i8 | .f64 | .f32 | .f16 | .bf16 => true
  | .lg6 | .q4 => false

/-- The formats of VEXP2, VLOG2, VRSQ and VRCP (R204). -/
def Fmt.isTransc : Fmt → Bool
  | .f32 | .f16 | .bf16 => true
  | _ => false

/-- The formats of VRNG (R204). -/
def Fmt.isRng : Fmt → Bool
  | .z32 | .i32 | .f32 => true
  | _ => false

/-- The control-register numbers that R109 lists. -/
def ctrlNumbers : List Nat :=
  [0x00, 0x01, 0x02, 0x03, 0x04, 0x10, 0x11, 0x12, 0x13, 0x14, 0x15, 0x16, 0x18, 0x19, 0x1A, 0x1B, 0x1C, 0x1D,
   0x20, 0x21, 0x22, 0x30, 0x31, 0x32, 0x33]

/-- The rule of R109 and R361: the number is listed. -/
def ctrlListed (num : BitVec 16) : Bool := ctrlNumbers.contains num.toNat

/-- R119: the field lies within 64 bits. -/
def fieldFits (pos len1 : BitVec 6) : Bool := pos.toNat + len1.toNat + 1 ≤ 64

/-- R116: a 32-bit shift amount has five bits. -/
def shiftFits (w : Bool) (sh : BitVec 6) : Bool := !w || sh.toNat < 32

/-- Well-formed instructions: those some encoding of the spec denotes. -/
def Instr.wf : Instr → Bool
  | .shli _ w _ _ sh | .shri _ w _ _ sh | .srai _ w _ _ sh => shiftFits w sh
  | .bfx _ _ _ pos len1 | .bfxz _ _ _ pos len1 => fieldFits pos len1
  | .bfi _ _ _ _ pos len1 => fieldFits pos len1
  | .cins _ n1 _ _ _ axis => axis.toNat ≤ n1.toNat
  | .cext _ n1 _ _ axis => axis.toNat ≤ n1.toNat
  | .clvl _ n1 _ _ level => level.toNat ≤ axisBits n1
  | .ld _ wd z _ _ _ => !(wd == .d && z)
  | .ldx _ wd z _ _ _ _ => !(wd == .d && z)
  | .vadd _ x _ _ | .vsub _ x _ _ | .vmul _ x _ _ | .vfma _ x _ _ | .vmin _ x _ _ | .vmax _ x _ _
  | .vsel _ x _ _ => x.fmt.isArith
  | .vcmp _ x _ _ _ => x.fmt.isArith
  | .vabs _ x | .vneg _ x | .vsum _ x | .vscan _ x => x.fmt.isArith
  | .vgath _ x _ | .vscat _ x _ => x.fmt.isArith
  | .vexp2 _ x | .vlog2 _ x | .vrsq _ x | .vrcp _ x => x.fmt.isTransc
  | .vrng _ x _ => x.fmt.isRng
  | .rdc _ _ num | .wrc _ _ num => ctrlListed num
  | .evwait _ _ mask => mask != 0
  | _ => true

end Sys2Proof
end

