-- ==== Sys2Proof/Decode.lean ====
section
/-! DEFINITION. The decoder of 03_lines (R67 to R72, R80 to R83, step 1) and of each chapter's encoding table,
total on every head and tail, with the encoder after it. A word that is no instruction is refused by the
sub-code of R82, the lowest one that applies. -/

namespace Sys2Proof

/-- The sub-codes 1 to 4 of R82. -/
inductive Ill | opc | tlm | fn | rsv
deriving DecidableEq, Repr

/-- The number of a sub-code (R82). -/
def Ill.code : Ill → Nat
  | .opc => 1 | .tlm => 2 | .fn => 3 | .rsv => 4

/-! Fields (R67, R69). -/

/-- OP of a head. -/
def headOp (h : Half) : BitVec 7 := h.extractLsb' 9 7
/-- TL of a head. -/
def headTl (h : Half) : BitVec 2 := h.extractLsb' 7 2
/-- A of a head. -/
def headA (h : Half) : Reg := h.extractLsb' 2 5
/-- The guard of a head (R68). -/
def headG (h : Half) : Guard :=
  match (h.extractLsb' 0 2).toNat with
  | 0 => .always | 1 => .ifP0 | 2 => .ifNotP0 | _ => .ifP1
/-- The tail half-words of a TL value (R70). -/
def tlLen (tl : BitVec 2) : Nat :=
  match tl.toNat with
  | 0 => 0 | 1 => 1 | 2 => 2 | _ => 4

/-- The TL of each major opcode's form (R69, R80); none where OP is reserved. -/
def formTl (op : Nat) : Option Nat :=
  if [0x00, 0x06, 0x07, 0x36, 0x39, 0x3B, 0x6E].contains op then some 0
  else if [0x03, 0x04, 0x10, 0x14, 0x17, 0x18, 0x1A, 0x1B, 0x31, 0x32, 0x34, 0x35, 0x37, 0x38, 0x3C, 0x40, 0x41,
    0x43, 0x45, 0x61, 0x63, 0x6B, 0x6D].contains op then some 1
  else if [0x01, 0x02, 0x05, 0x08, 0x11, 0x12, 0x15, 0x16, 0x19, 0x33, 0x3A, 0x42, 0x50, 0x60, 0x62, 0x64, 0x65,
    0x66, 0x67, 0x68, 0x69, 0x6A, 0x78, 0x7E].contains op then some 2
  else if [0x13, 0x30, 0x44, 0x51, 0x52, 0x53, 0x6C, 0x70, 0x79, 0x7A, 0x7B, 0x7C, 0x7D, 0x7F].contains op then some 3
  else none

/-! Codes of the small field types. -/

/-- One bit of a flag field. -/
def bit (b : Bool) : BitVec 1 := BitVec.ofBool b
def widthCode : Width → BitVec 2 | .b => 0 | .h => 1 | .w => 2 | .d => 3
def widthOf (x : BitVec 2) : Width := match x.toNat with | 0 => .b | 1 => .h | 2 => .w | _ => .d
def laneCode : Lane → BitVec 2 | .b => 0 | .h => 1 | .w => 2
def laneOf (x : BitVec 2) : Option Lane := match x.toNat with | 0 => some .b | 1 => some .h | 2 => some .w | _ => none
def condCode : Cond → BitVec 3 | .eq => 0 | .ne => 1 | .lt => 2 | .ge => 3 | .ltz => 4 | .gez => 5
def condOf (x : BitVec 3) : Option Cond :=
  match x.toNat with
  | 0 => some .eq | 1 => some .ne | 2 => some .lt | 3 => some .ge | 4 => some .ltz | 5 => some .gez | _ => none
def combCode : Comb → BitVec 2 | .set => 0 | .and => 1 | .or => 2
def combOf (x : BitVec 2) : Option Comb := match x.toNat with | 0 => some .set | 1 => some .and | 2 => some .or | _ => none
def fcondCode : FCond → BitVec 3 | .eq => 0 | .lt => 1 | .le => 2 | .un => 3 | .ne => 4
def fcondOf (x : BitVec 3) : Option FCond :=
  match x.toNat with
  | 0 => some .eq | 1 => some .lt | 2 => some .le | 3 => some .un | 4 => some .ne | _ => none
def vcondCode : VCond → BitVec 3 | .eq => 0 | .ne => 1 | .lt => 2 | .le => 3
def vcondOf (x : BitVec 3) : Option VCond :=
  match x.toNat with
  | 0 => some .eq | 1 => some .ne | 2 => some .lt | 3 => some .le | _ => none
def scopeCode : Scope → BitVec 2 | .core => 0 | .die => 1 | .pkg => 2 | .sys => 3
def scopeOf (x : BitVec 2) : Scope := match x.toNat with | 0 => .core | 1 => .die | 2 => .pkg | _ => .sys
/-- The format codes of R155. -/
def fmtCode : Fmt → BitVec 4
  | .i64 => 0 | .i32 => 1 | .z64 => 2 | .z32 => 3 | .f64 => 4 | .f32 => 5 | .f16 => 6 | .bf16 => 7 | .lg6 => 8 | .i8 => 9
  | .q4 => 10
def fmtOf (x : BitVec 4) : Option Fmt :=
  match x.toNat with
  | 0 => some .i64 | 1 => some .i32 | 2 => some .z64 | 3 => some .z32 | 4 => some .f64 | 5 => some .f32
  | 6 => some .f16 | 7 => some .bf16 | 8 => some .lg6 | 9 => some .i8 | 10 => some .q4 | _ => none
def guardCode : Guard → BitVec 2 | .always => 0 | .ifP0 => 1 | .ifNotP0 => 2 | .ifP1 => 3

/-! Decoding. FN is looked for before RSV, because the lowest sub-code is reported (R82). -/

/-- The answer of an entry whose FN and RSV conditions are given. -/
def chk (fn rsv : Bool) (i : Instr) : Except Ill Instr :=
  if fn then .error .fn else if rsv then .error .rsv else .ok i

/-- The same when a small field may have no meaning. -/
def chkO {α : Type} (o : Option α) (rsv : Bool) (k : α → Instr) : Except Ill Instr :=
  match o with
  | none => .error .fn
  | some x => chk false rsv (k x)

/-- IOP (R113). -/
def decodeIop (g : Guard) (a b c : Reg) (f : BitVec 6) : Except Ill Instr :=
  let w := f.getLsbD 5
  let ok := fun i => chk false false i
  let un := fun i => chk false (c != 0) i
  match (f.extractLsb' 0 5).toNat with
  | 0 => ok (.add g w a b c)
  | 1 => ok (.sub g w a b c)
  | 2 => ok (.mul g w a b c)
  | 3 => ok (.mulh g w a b c)
  | 4 => ok (.mulhz g w a b c)
  | 5 => ok (.div g w a b c)
  | 6 => ok (.divz g w a b c)
  | 7 => ok (.rem g w a b c)
  | 8 => ok (.remz g w a b c)
  | 9 => ok (.and g w a b c)
  | 10 => ok (.or g w a b c)
  | 11 => ok (.xor g w a b c)
  | 12 => ok (.andn g w a b c)
  | 13 => ok (.orn g w a b c)
  | 14 => ok (.shl g w a b c)
  | 15 => ok (.shr g w a b c)
  | 16 => ok (.sra g w a b c)
  | 17 => ok (.rol g w a b c)
  | 18 => ok (.ror g w a b c)
  | 19 => ok (.min g w a b c)
  | 20 => ok (.max g w a b c)
  | 21 => ok (.minz g w a b c)
  | 22 => ok (.maxz g w a b c)
  | 23 => un (.clz g w a b)
  | 24 => un (.ctz g w a b)
  | 25 => un (.popc g w a b)
  | 26 => un (.brev g w a b)
  | 27 => un (.bswap g w a b)
  | _ => .error .fn

/-- IOPI (R116). -/
def decodeIopi (g : Guard) (a b c : Reg) (f : BitVec 6) (imm : BitVec 16) : Except Ill Instr :=
  let w := f.getLsbD 5
  let ok := fun i => chk false (c != 0) i
  let sh := fun i => chk false (c != 0 || imm.extractLsb' 6 10 != 0 || (w && imm.getLsbD 5)) i
  let amt := imm.extractLsb' 0 6
  match (f.extractLsb' 0 5).toNat with
  | 0 => ok (.addi g w a b imm)
  | 1 => ok (.andi g w a b imm)
  | 2 => ok (.ori g w a b imm)
  | 3 => ok (.xori g w a b imm)
  | 4 => sh (.shli g w a b amt)
  | 5 => sh (.shri g w a b amt)
  | 6 => sh (.srai g w a b amt)
  | 7 => ok (.muli g w a b imm)
  | 8 => ok (.mini g w a b imm)
  | 9 => ok (.maxi g w a b imm)
  | _ => .error .fn

/-- PKOP (R118). -/
def decodePkop (g : Guard) (a b c : Reg) (f : BitVec 6) : Except Ill Instr :=
  match laneOf (f.extractLsb' 4 2) with
  | none => .error .fn
  | some ln =>
  match (f.extractLsb' 0 4).toNat with
  | 0 => chk false false (.padd g ln a b c)
  | 1 => chk false false (.psub g ln a b c)
  | 2 => chk false false (.pmin g ln a b c)
  | 3 => chk false false (.pmax g ln a b c)
  | 4 => chk false false (.pminz g ln a b c)
  | 5 => chk false false (.pmaxz g ln a b c)
  | 6 => chk false false (.pavg g ln a b c)
  | 7 => chk false false (.padds g ln a b c)
  | _ => .error .fn

/-- BF (R119). -/
def decodeBf (g : Guard) (a b c : Reg) (f : BitVec 6) (imm : BitVec 16) : Except Ill Instr :=
  let pos := imm.extractLsb' 0 6
  let len1 := imm.extractLsb' 6 6
  let bad := !fieldFits pos len1
  let rsv := f.extractLsb' 2 4 != 0 || imm.extractLsb' 12 4 != 0
  match (f.extractLsb' 0 2).toNat with
  | 0 => chk bad (rsv || c != 0) (.bfx g a b pos len1)
  | 1 => chk bad (rsv || c != 0) (.bfxz g a b pos len1)
  | 2 => chk bad rsv (.bfi g a b c pos len1)
  | _ => .error .fn

/-- CMP and CMPI (R121). -/
def decodeCmp (f : BitVec 6) (rsv : Bool) (k : Cond → Comb → Bool → Instr) : Except Ill Instr :=
  match condOf (f.extractLsb' 0 3), combOf (f.extractLsb' 3 2) with
  | some cond, some comb => chk false rsv (k cond comb (f.getLsbD 5))
  | _, _ => .error .fn

/-- FALLOC (R142). Class 3 and nonzero reserved bits of I43 are RSV (R140). -/
def decodeFalloc (g : Guard) (a b c d : Reg) (f : BitVec 6) (x : BitVec 43) : Except Ill Instr :=
  let args : FallocArgs :=
    { step := x.extractLsb' 35 8, blk := x.extractLsb' 27 8, g := x.extractLsb' 24 3, s := x.extractLsb' 21 3,
      l := x.extractLsb' 16 5, prio := x.extractLsb' 12 2, chain := x.getLsbD 9, unb := x.getLsbD 8 }
  let rsv := d != 0 || f != 0 || x.extractLsb' 10 2 != 0 || x.extractLsb' 0 8 != 0
  match (x.extractLsb' 14 2).toNat with
  | 0 => chk false rsv (.fallocFree g a b c args)
  | 1 => chk false rsv (.fallocBound g a b c args)
  | 2 => chk false rsv (.fallocSeq g a b c args)
  | _ => .error .rsv

/-- FOP (R165). -/
def decodeFop (g : Guard) (a b c : Reg) (f : BitVec 6) : Except Ill Instr :=
  let d := f.getLsbD 5
  let ok := fun i => chk false false i
  let un := fun i => chk false (c != 0) i
  match (f.extractLsb' 0 5).toNat with
  | 0 => ok (.fadd g d a b c)
  | 1 => ok (.fsub g d a b c)
  | 2 => ok (.fmul g d a b c)
  | 3 => ok (.fdiv g d a b c)
  | 4 => un (.fsqrt g d a b)
  | 5 => ok (.fmin g d a b c)
  | 6 => ok (.fmax g d a b c)
  | 7 => un (.fabs g d a b)
  | 8 => un (.fneg g d a b)
  | 9 => ok (.fma g d a b c)
  | 10 => un (.fclass g d a b)
  | _ => .error .fn

/-- COP (R178). -/
def decodeCop (g : Guard) (a b c : Reg) (f : BitVec 6) (imm : BitVec 16) : Except Ill Instr :=
  let n1 := f.extractLsb' 3 3
  let sgn := imm.getLsbD 15
  let axis := imm.extractLsb' 0 3
  let level := imm.extractLsb' 3 6
  match (f.extractLsb' 0 3).toNat with
  | 0 => chk false (imm.extractLsb' 0 15 != 0) (.cadd g n1 sgn a b c)
  | 1 => chk false (imm.extractLsb' 0 15 != 0) (.csub g n1 sgn a b c)
  | 2 => chk (n1.toNat < axis.toNat) (imm.extractLsb' 3 13 != 0) (.cins g n1 a b c axis)
  | 3 => chk (n1.toNat < axis.toNat) (c != 0 || imm.extractLsb' 3 13 != 0) (.cext g n1 a b axis)
  | 4 => chk (axisBits n1 < level.toNat) (c != 0 || imm.extractLsb' 9 7 != 0 || imm.extractLsb' 0 3 != 0)
      (.clvl g n1 a b level)
  | 5 => chk false (c != 0 || imm != 0) (.cenc g n1 a b)
  | 6 => chk false (c != 0 || imm != 0) (.cdec g n1 a b)
  | _ => chk false (c != 0 || imm != 0) (.cpar g n1 a b)

/-- AMO (R250). -/
def decodeAmo (g : Guard) (a b c : Reg) (f : BitVec 6) : Except Ill Instr :=
  let w := f.getLsbD 5
  let ok := fun i => chk false (f.getLsbD 4) i
  match (f.extractLsb' 0 4).toNat with
  | 0 => ok (.amoAdd g w a b c)
  | 1 => ok (.amoAnd g w a b c)
  | 2 => ok (.amoOr g w a b c)
  | 3 => ok (.amoXor g w a b c)
  | 4 => ok (.amoSwap g w a b c)
  | 5 => ok (.amoMin g w a b c)
  | 6 => ok (.amoMax g w a b c)
  | 7 => ok (.amoMinz g w a b c)
  | 8 => ok (.amoMaxz g w a b c)
  | _ => .error .fn

/-- VOP (R203, R204). -/
def decodeVop (g : Guard) (a b c d : Reg) (f : BitVec 6) (x : BitVec 43) : Except Ill Instr :=
  let cond := x.extractLsb' 32 3
  let sfmt := x.extractLsb' 27 4
  let bc := x.getLsbD 26
  let len := x.extractLsb' 10 16
  match fmtOf (x.extractLsb' 6 4) with
  | none => .error .fn
  | some fmt =>
  let v : VArgs := { a := a, b := b, c := c, fmt := fmt, len := len }
  let r0 := f != 0 || x.extractLsb' 35 8 != 0 || x.getLsbD 31
  let rsv := r0 || cond != 0 || sfmt != 0
  let bin := fun i => chk (!fmt.isArith) rsv i
  let un := fun i => chk (!fmt.isArith) (rsv || d != 0 || bc) i
  let tr := fun i => chk (!fmt.isTransc) (rsv || d != 0 || bc) i
  let idx := fun i => chk (!fmt.isArith) (rsv || bc) i
  match (x.extractLsb' 0 6).toNat with
  | 0 => bin (.vadd g v d bc)
  | 1 => bin (.vsub g v d bc)
  | 2 => bin (.vmul g v d bc)
  | 3 => bin (.vfma g v d bc)
  | 4 => bin (.vmin g v d bc)
  | 5 => bin (.vmax g v d bc)
  | 6 => un (.vabs g v)
  | 7 => un (.vneg g v)
  | 8 =>
    match fmtOf sfmt with
    | none => .error .fn
    | some src => chk false (r0 || cond != 0 || d != 0 || bc) (.vcvt g v src)
  | 9 => tr (.vexp2 g v)
  | 10 => tr (.vlog2 g v)
  | 11 => tr (.vrsq g v)
  | 12 => tr (.vrcp g v)
  | 13 => bin (.vsel g v d bc)
  | 14 =>
    match vcondOf cond with
    | none => .error .fn
    | some vc => chk (!fmt.isArith) (r0 || sfmt != 0) (.vcmp g v d bc vc)
  | 15 => un (.vsum g v)
  | 16 => un (.vscan g v)
  | 17 => idx (.vgath g v d)
  | 18 => idx (.vscat g v d)
  | 19 => chk (!fmt.isRng) (rsv || !bc) (.vrng g v d)
  | 20 => chk false (rsv || c != 0 || d != 0 || bc) (.vclr g a b fmt len)
  | 21 => chk false (rsv || d != 0 || bc) (.vcpy g v)
  | _ => .error .fn

/-- MXF (R222). -/
def decodeMxf (g : Guard) (a b c d : Reg) (f : BitVec 6) (x : BitVec 43) : Except Ill Instr :=
  let src := x.extractLsb' 0 4
  let dst := x.extractLsb' 4 4
  let r0 := c != 0 || d != 0 || f.extractLsb' 3 3 != 0 || x.extractLsb' 16 27 != 0
  let rsv := r0 || b != 0 || x.extractLsb' 8 8 != 0
  match (f.extractLsb' 0 3).toNat with
  | 0 => chk false rsv (.mxfTranspose g a src dst)
  | 1 => chk false (r0 || x.extractLsb' 8 8 != 0) (.mxfPerm g a b src dst)
  | 2 => chk false rsv (.mxfRsum g a src dst)
  | 3 => chk false rsv (.mxfCsum g a src dst)
  | 4 => chk false (r0 || b != 0) (.mxfExch g a src dst (x.extractLsb' 8 4) (x.extractLsb' 12 4))
  | _ => .error .fn

/-- XOP (R342). -/
def decodeXop (g : Guard) (a b c d : Reg) (f : BitVec 6) (x : BitVec 43) : Except Ill Instr :=
  let ch := x.extractLsb' 0 2
  let sc := scopeOf (x.extractLsb' 2 2)
  let rsv := x.extractLsb' 4 39 != 0
  match f.toNat with
  | 0 => chk false rsv (.xcopy g sc ch a b c d)
  | 1 => chk false rsv (.xshape g sc ch a b c d)
  | 2 => chk false rsv (.xfill g sc ch a b c d)
  | 3 => chk false (rsv || b != 0 || c != 0 || d != 0 || x.extractLsb' 2 2 != 0) (.xwptr g a ch)
  | _ => .error .fn

/-- MISC (R355). -/
def decodeMisc (g : Guard) (a b c : Reg) (f : BitVec 6) (imm : BitVec 16) : Except Ill Instr :=
  let za := a != 0
  let zb := b != 0
  let zc := c != 0
  let zi := imm != 0
  match f.toNat with
  | 0 => chk false (za || zb || zc || zi) (.qeos g)
  | 1 => chk false (za || zb || zc || zi) (.qpoll g)
  | 2 => chk false zi (.rdjoin g a b c)
  | 3 => chk false zi (.rdadd g a b c)
  | 4 => chk false (za || zc || zi) (.rdfree g b)
  | 5 => chk (!ctrlListed imm) (zb || zc) (.rdc g a imm)
  | 6 => chk (!ctrlListed imm) (za || zc) (.wrc g b imm)
  | 7 => chk false (zb || zc || zi) (.rdcyc g a)
  | 8 => chk (imm.extractLsb' 0 3 == 0) (zb || zc || imm.extractLsb' 3 13 != 0) (.evwait g a (imm.extractLsb' 0 3))
  | 9 => chk false (zc || zi) (.jreplay g a b)
  | 10 => chk false (zc || zi) (.jstat g a b)
  | _ => .error .fn

/-- SYS (R400, R401). -/
def decodeSys (g : Guard) (a b c d : Reg) (f : BitVec 6) (x : BitVec 43) : Except Ill Instr :=
  let zb := b != 0
  let zc := c != 0
  let zd := d != 0
  let op2 := (x.extractLsb' 0 2).toNat
  match f.toNat with
  | 0 =>
    let vi := x.extractLsb' 2 6
    let sl := x.extractLsb' 8 6
    let rsv := zd || x.extractLsb' 14 29 != 0
    match op2 with
    | 0 => chk false rsv (.wakeResume g a b c vi sl)
    | 1 => chk false rsv (.wakeFail g a b c vi sl)
    | 2 => chk false rsv (.wakeCell g a b c vi sl)
    | _ => chk false rsv (.wakeGo g a b c vi sl)
  | 1 => chk false (zd || x.extractLsb' 7 36 != 0) (.slotsv g a b c (x.getLsbD 6) (x.extractLsb' 0 6))
  | 2 => chk false (zd || x.extractLsb' 7 36 != 0) (.slotld g a b c (x.getLsbD 6) (x.extractLsb' 0 6))
  | 3 =>
    let vi := x.extractLsb' 0 6
    let dies := x.extractLsb' 6 4
    let rsv := zb || zd || x.extractLsb' 11 32 != 0
    if x.getLsbD 10 then chk false rsv (.stopatGo g a c vi dies) else chk false rsv (.stopatStop g a c vi dies)
  | 4 => chk false (zd || x != 0) (.pzero g a b c)
  | 5 => chk false (zd || x.extractLsb' 8 35 != 0) (.poolpart g a b c (x.extractLsb' 0 8))
  | 6 => chk false (zd || x.extractLsb' 13 30 != 0)
      (.tinv g a b c (x.extractLsb' 0 2) (x.getLsbD 2) (x.extractLsb' 3 6) (x.extractLsb' 9 4))
  | 7 => chk false (zc || zd || x != 0) (.pgver g a b)
  | 8 => chk false (x.extractLsb' 6 37 != 0) (.pgswap g a b c d (x.extractLsb' 0 6))
  | 9 => chk false (zd || x != 0) (.selv g a b c)
  | 10 => chk false (zd || x.extractLsb' 4 39 != 0) (.imap g a b c (x.extractLsb' 0 4))
  | 11 => chk false (zd || x.extractLsb' 23 20 != 0)
      (.evpost g a b c (x.extractLsb' 0 6) (x.extractLsb' 6 16) (x.getLsbD 22))
  | 12 =>
    let rsv := zd || x.extractLsb' 3 40 != 0
    match op2 with
    | 0 => chk false rsv (.haltRetire g a b c (x.getLsbD 2))
    | 1 => chk false rsv (.haltRemap g a b c (x.getLsbD 2))
    | _ => .error .fn
  | _ => .error .fn

/-- The opcodes with no tail, form H. -/
def decodeH (op : Nat) (g : Guard) (a : Reg) : Except Ill Instr :=
  match op with
  | 0x06 => chk false (a != 0) (.exit g)
  | 0x07 => chk false (a != 0) (.nop g)
  | 0x36 => chk false (a != 0) (.fbrk g)
  | 0x39 => chk false false (.fself g a)
  | 0x3B => chk (a.getLsbD 1) (a.extractLsb' 2 3 != 0) (.fbar g (a.getLsbD 0))
  | 0x6E => chk false (a != 0) (.rfence g)
  | _ => .error .rsv

/-- The opcodes of form F1. -/
def decodeF1 (op : Nat) (g : Guard) (a b c : Reg) (f : BitVec 6) : Except Ill Instr :=
  let za := a != 0
  let zb := b != 0
  let zc := c != 0
  let zf := f != 0
  match op with
  | 0x03 => chk false (za || zc || zf) (.jr g b)
  | 0x04 => chk false (za || zc || zf) (.callr g b)
  | 0x10 => decodeIop g a b c f
  | 0x14 => decodePkop g a b c f
  | 0x17 => chk false (f.extractLsb' 4 2 != 0) (.sel g a b c (f.extractLsb' 0 3) (f.getLsbD 3))
  | 0x18 => decodeCmp f (a.extractLsb' 3 2 != 0) fun cond comb w => .cmp g cond comb w (a.extractLsb' 0 3) b c
  | 0x1A => chk false
      (a.extractLsb' 3 2 != 0 || b.extractLsb' 3 2 != 0 || c.extractLsb' 3 2 != 0 || f.extractLsb' 4 2 != 0)
      (.plog g (a.extractLsb' 0 3) (b.extractLsb' 0 3) (c.extractLsb' 0 3) (f.extractLsb' 0 4))
  | 0x1B =>
    match f.toNat with
    | 0 => chk false (za || zc) (.psetw g b)
    | 1 => chk false (zb || zc) (.pgetw g a)
    | _ => .error .fn
  | 0x31 => chk false (zc || f.extractLsb' 3 3 != 0) (.fsetg g a b (f.extractLsb' 0 3))
  | 0x32 => chk false (zc || f.extractLsb' 3 3 != 0) (.fsets g a b (f.extractLsb' 0 3))
  | 0x34 => chk false (zc || zf) (.fsync g a b)
  | 0x35 => chk false (zc || f.extractLsb' 3 3 != 0) (.fgets g a b (f.extractLsb' 0 3))
  | 0x37 => chk false (za || zc || zf) (.fkill g b)
  | 0x38 => chk false (za || zc || zf) (.frel g b)
  | 0x3C =>
    let rsv := za || zc || f.extractLsb' 2 4 != 0
    match (f.extractLsb' 0 2).toNat with
    | 0 => chk false rsv (.frsmRetry g b)
    | 1 => chk false rsv (.frsmSkip g b)
    | 2 => chk false rsv (.frsmKill g b)
    | _ => .error .fn
  | 0x40 => decodeFop g a b c f
  | 0x41 => chkO (fcondOf (f.extractLsb' 0 3)) (a.extractLsb' 3 2 != 0 || f.extractLsb' 3 2 != 0) fun cond =>
      .fcmp g cond (f.getLsbD 5) (a.extractLsb' 0 3) b c
  | 0x43 => chk false (zc || f.extractLsb' 2 3 != 0) (.frnd g (f.extractLsb' 0 2) (f.getLsbD 5) a b)
  | 0x45 => chk false (zc || zf) (.rngf g a b)
  | 0x61 =>
    let wd := widthOf (f.extractLsb' 0 2)
    chk false (f.getLsbD 5 || (wd == .d && f.getLsbD 2)) (.ldx g wd (f.getLsbD 2) a b c (f.extractLsb' 3 2))
  | 0x63 => chk false (f.getLsbD 5 || f.getLsbD 2) (.stx g (widthOf (f.extractLsb' 0 2)) a b c (f.extractLsb' 3 2))
  | 0x6B => decodeAmo g a b c f
  | 0x6D =>
    let sc := scopeOf (f.extractLsb' 2 2)
    let rsv := za || zb || zc || f.extractLsb' 4 2 != 0
    match (f.extractLsb' 0 2).toNat with
    | 0 => chk false rsv (.fenceRel g sc)
    | 1 => chk false rsv (.fenceAcq g sc)
    | 2 => chk false rsv (.fenceFull g sc)
    | _ => .error .fn
  | _ => .error .opc

/-- The opcodes of forms F2 and F2L. -/
def decodeF2 (op : Nat) (g : Guard) (a b c : Reg) (f : BitVec 6) (imm : BitVec 16) (i27 : BitVec 27) :
    Except Ill Instr :=
  let za := a != 0
  let zb := b != 0
  let zc := c != 0
  let zf := f != 0
  match op with
  | 0x01 => chk false (za || zb) (.br g i27)
  | 0x02 => chk false (za || zb) (.call g i27)
  | 0x05 => chk false (za || zf) (.jtab g b c imm)
  | 0x08 => chk false (za || zc || zf) (.trap g b imm)
  | 0x11 => decodeIopi g a b c f imm
  | 0x12 => chk false zb (.ldi g a i27)
  | 0x15 => decodeBf g a b c f imm
  | 0x16 => chk false (f.extractLsb' 2 4 != 0) (.lea g a b c (f.extractLsb' 0 2) imm)
  | 0x19 => decodeCmp f (a.extractLsb' 3 2 != 0 || zc) fun cond comb w => .cmpi g cond comb w (a.extractLsb' 0 3) b imm
  | 0x33 => chk false zb (.fgo g a i27)
  | 0x3A => chk false zb (.fhand g a i27)
  | 0x42 =>
    match fmtOf (imm.extractLsb' 0 4), fmtOf (imm.extractLsb' 4 4) with
    | some dst, some src => chk false (zc || zf) (.cvt g dst src a b (imm.extractLsb' 8 8))
    | _, _ => .error .fn
  | 0x50 => decodeCop g a b c f imm
  | 0x60 =>
    let wd := widthOf (f.extractLsb' 0 2)
    chk false (zc || f.extractLsb' 3 3 != 0 || (wd == .d && f.getLsbD 2)) (.ld g wd (f.getLsbD 2) a b imm)
  | 0x62 => chk false (zc || f.extractLsb' 2 4 != 0) (.st g (widthOf (f.extractLsb' 0 2)) a b imm)
  | 0x64 => chk false (zc || zf) (.ldp g a b imm)
  | 0x65 => chk false (zc || zf) (.stp g a b imm)
  | 0x66 => chk false (zc || zf) (.ldv g a b imm)
  | 0x67 => chk false (zc || zf) (.stf g a b imm)
  | 0x68 => chk false (zc || zf) (.ssus g a b imm)
  | 0x69 => chk false (za || zc || zf) (.semp g b imm)
  | 0x6A => chk false (zc || zf) (.ldt g a b imm)
  | 0x78 => chk false (za || zb || zc || zf || imm.extractLsb' 4 12 != 0) (.mzero g (imm.extractLsb' 0 4))
  | 0x7E => decodeMisc g a b c f imm
  | _ => .error .opc

/-- The opcodes of form F4. -/
def decodeF4 (op : Nat) (g : Guard) (a b c d : Reg) (f : BitVec 6) (x : BitVec 43) (t : BitVec 64) :
    Except Ill Instr :=
  let zc := c != 0
  let zd := d != 0
  let zf := f != 0
  match op with
  | 0x13 => chk false false (.ldq g a t)
  | 0x30 => decodeFalloc g a b c d f x
  | 0x44 => chk false (zf || x != 0) (.rngp g a b c d)
  | 0x51 => chk false (a.extractLsb' 3 2 != 0 || f.extractLsb' 0 3 != 0 || x != 0)
      (.cbox g (f.extractLsb' 3 3) (a.extractLsb' 0 3) b c d)
  | 0x52 => chk false (f.extractLsb' 0 3 != 0 || x != 0) (.cnext g (f.extractLsb' 3 3) a b c d)
  | 0x53 => chk false (f.extractLsb' 0 3 != 0 || x.extractLsb' 25 18 != 0)
      (.csplit g (f.extractLsb' 3 3) a b c d (x.extractLsb' 0 17) (x.extractLsb' 17 8))
  | 0x6C => chk false (f.extractLsb' 0 5 != 0 || x != 0) (.cas g (f.getLsbD 5) a b c d)
  | 0x70 => decodeVop g a b c d f x
  | 0x79 => chk false (zd || zf || x.extractLsb' 12 31 != 0) (.mmac g a b c (x.extractLsb' 0 4) (x.extractLsb' 4 8))
  | 0x7A => decodeMxf g a b c d f x
  | 0x7B => chkO (fmtOf (x.extractLsb' 4 4)) (zc || zd || zf || x.extractLsb' 8 35 != 0) fun fmt =>
      .mlda g fmt a b (x.extractLsb' 0 4)
  | 0x7C => chkO (fmtOf (x.extractLsb' 4 4)) (zc || zd || zf || x.extractLsb' 17 26 != 0) fun fmt =>
      .msta g fmt (x.getLsbD 16) a b (x.extractLsb' 0 4) (x.extractLsb' 8 8)
  | 0x7D => decodeXop g a b c d f x
  | 0x7F => decodeSys g a b c d f x
  | _ => .error .opc

/-- The decoder: a head and its tail value (R70), zero above the tail's length. -/
def decode (h : Half) (t : BitVec 64) : Except Ill Instr :=
  let op := (headOp h).toNat
  let g := headG h
  let a := headA h
  match formTl op with
  | none => .error .opc
  | some tl =>
    if (headTl h).toNat ≠ tl then .error .tlm
    else match tl with
      | 0 => decodeH op g a
      | 1 => decodeF1 op g a (t.extractLsb' 11 5) (t.extractLsb' 6 5) (t.extractLsb' 0 6)
      | 2 => decodeF2 op g a (t.extractLsb' 27 5) (t.extractLsb' 22 5) (t.extractLsb' 16 6) (t.extractLsb' 0 16)
          (t.extractLsb' 0 27)
      | _ => decodeF4 op g a (t.extractLsb' 59 5) (t.extractLsb' 54 5) (t.extractLsb' 49 5) (t.extractLsb' 43 6)
          (t.extractLsb' 0 43) t

/-! Encoding: the head, the tail value and the tail's half-words. -/

/-- An encoded instruction. -/
structure Words where
  head : Half
  tail : BitVec 64
deriving DecidableEq, Repr

/-- A head of R67. -/
def mkHead (op : BitVec 7) (tl : BitVec 2) (a : Reg) (g : Guard) : Half := op ++ tl ++ a ++ guardCode g
/-- Form H. -/
def h (op : BitVec 7) (g : Guard) (a : Reg) : Words := ⟨mkHead op 0 a g, 0⟩
/-- Form F1. -/
def f1 (op : BitVec 7) (g : Guard) (a b c : Reg) (f : BitVec 6) : Words :=
  ⟨mkHead op 1 a g, 0#48 ++ (b ++ c ++ f)⟩
/-- Form F2. -/
def f2 (op : BitVec 7) (g : Guard) (a b c : Reg) (f : BitVec 6) (i : BitVec 16) : Words :=
  ⟨mkHead op 2 a g, 0#32 ++ (b ++ c ++ f ++ i)⟩
/-- Form F2L. -/
def f2l (op : BitVec 7) (g : Guard) (a b : Reg) (i : BitVec 27) : Words := ⟨mkHead op 2 a g, 0#32 ++ (b ++ i)⟩
/-- Form F4. -/
def f4 (op : BitVec 7) (g : Guard) (a b c d : Reg) (f : BitVec 6) (i : BitVec 43) : Words :=
  ⟨mkHead op 3 a g, b ++ c ++ d ++ f ++ i⟩
/-- LDQ's tail is its immediate (R117). -/
def raw4 (op : BitVec 7) (g : Guard) (a : Reg) (i : BitVec 64) : Words := ⟨mkHead op 3 a g, i⟩
/-- I43 of FALLOC (R142). -/
def fallocCode (x : FallocArgs) (cls : BitVec 2) : BitVec 43 :=
  x.step ++ x.blk ++ x.g ++ x.s ++ x.l ++ cls ++ x.prio ++ 0#2 ++ bit x.chain ++ bit x.unb ++ 0#8
/-- I43 of VOP (R203). -/
def vopCode (cond : BitVec 3) (sfmt : BitVec 4) (bc : Bool) (len : BitVec 16) (fmt : Fmt) (opc : BitVec 6) :
    BitVec 43 :=
  0#8 ++ cond ++ 0#1 ++ sfmt ++ bit bc ++ len ++ fmtCode fmt ++ opc
/-- A vector operation's words. -/
def vop (g : Guard) (a b c d : Reg) (x : BitVec 43) : Words := f4 0x70 g a b c d 0 x

/-- The words of a well-formed program instruction; a step of the device has none. -/
def encode : Instr → Option Words
  | .br g i => some (f2l 0x01 g 0 0 i)
  | .call g i => some (f2l 0x02 g 0 0 i)
  | .jr g b => some (f1 0x03 g 0 b 0 0)
  | .callr g b => some (f1 0x04 g 0 b 0 0)
  | .jtab g b c len => some (f2 0x05 g 0 b c 0 len)
  | .exit g => some (h 0x06 g 0)
  | .nop g => some (h 0x07 g 0)
  | .trap g b code => some (f2 0x08 g 0 b 0 0 code)
  | .add g w a b c => some (f1 0x10 g a b c (bit w ++ 0#5))
  | .sub g w a b c => some (f1 0x10 g a b c (bit w ++ 1#5))
  | .mul g w a b c => some (f1 0x10 g a b c (bit w ++ 2#5))
  | .mulh g w a b c => some (f1 0x10 g a b c (bit w ++ 3#5))
  | .mulhz g w a b c => some (f1 0x10 g a b c (bit w ++ 4#5))
  | .div g w a b c => some (f1 0x10 g a b c (bit w ++ 5#5))
  | .divz g w a b c => some (f1 0x10 g a b c (bit w ++ 6#5))
  | .rem g w a b c => some (f1 0x10 g a b c (bit w ++ 7#5))
  | .remz g w a b c => some (f1 0x10 g a b c (bit w ++ 8#5))
  | .and g w a b c => some (f1 0x10 g a b c (bit w ++ 9#5))
  | .or g w a b c => some (f1 0x10 g a b c (bit w ++ 10#5))
  | .xor g w a b c => some (f1 0x10 g a b c (bit w ++ 11#5))
  | .andn g w a b c => some (f1 0x10 g a b c (bit w ++ 12#5))
  | .orn g w a b c => some (f1 0x10 g a b c (bit w ++ 13#5))
  | .shl g w a b c => some (f1 0x10 g a b c (bit w ++ 14#5))
  | .shr g w a b c => some (f1 0x10 g a b c (bit w ++ 15#5))
  | .sra g w a b c => some (f1 0x10 g a b c (bit w ++ 16#5))
  | .rol g w a b c => some (f1 0x10 g a b c (bit w ++ 17#5))
  | .ror g w a b c => some (f1 0x10 g a b c (bit w ++ 18#5))
  | .min g w a b c => some (f1 0x10 g a b c (bit w ++ 19#5))
  | .max g w a b c => some (f1 0x10 g a b c (bit w ++ 20#5))
  | .minz g w a b c => some (f1 0x10 g a b c (bit w ++ 21#5))
  | .maxz g w a b c => some (f1 0x10 g a b c (bit w ++ 22#5))
  | .clz g w a b => some (f1 0x10 g a b 0 (bit w ++ 23#5))
  | .ctz g w a b => some (f1 0x10 g a b 0 (bit w ++ 24#5))
  | .popc g w a b => some (f1 0x10 g a b 0 (bit w ++ 25#5))
  | .brev g w a b => some (f1 0x10 g a b 0 (bit w ++ 26#5))
  | .bswap g w a b => some (f1 0x10 g a b 0 (bit w ++ 27#5))
  | .addi g w a b imm => some (f2 0x11 g a b 0 (bit w ++ 0#5) imm)
  | .andi g w a b imm => some (f2 0x11 g a b 0 (bit w ++ 1#5) imm)
  | .ori g w a b imm => some (f2 0x11 g a b 0 (bit w ++ 2#5) imm)
  | .xori g w a b imm => some (f2 0x11 g a b 0 (bit w ++ 3#5) imm)
  | .shli g w a b sh => some (f2 0x11 g a b 0 (bit w ++ 4#5) (0#10 ++ sh))
  | .shri g w a b sh => some (f2 0x11 g a b 0 (bit w ++ 5#5) (0#10 ++ sh))
  | .srai g w a b sh => some (f2 0x11 g a b 0 (bit w ++ 6#5) (0#10 ++ sh))
  | .muli g w a b imm => some (f2 0x11 g a b 0 (bit w ++ 7#5) imm)
  | .mini g w a b imm => some (f2 0x11 g a b 0 (bit w ++ 8#5) imm)
  | .maxi g w a b imm => some (f2 0x11 g a b 0 (bit w ++ 9#5) imm)
  | .ldi g a imm => some (f2l 0x12 g a 0 imm)
  | .ldq g a imm => some (raw4 0x13 g a imm)
  | .padd g ln a b c => some (f1 0x14 g a b c (laneCode ln ++ 0#4))
  | .psub g ln a b c => some (f1 0x14 g a b c (laneCode ln ++ 1#4))
  | .pmin g ln a b c => some (f1 0x14 g a b c (laneCode ln ++ 2#4))
  | .pmax g ln a b c => some (f1 0x14 g a b c (laneCode ln ++ 3#4))
  | .pminz g ln a b c => some (f1 0x14 g a b c (laneCode ln ++ 4#4))
  | .pmaxz g ln a b c => some (f1 0x14 g a b c (laneCode ln ++ 5#4))
  | .pavg g ln a b c => some (f1 0x14 g a b c (laneCode ln ++ 6#4))
  | .padds g ln a b c => some (f1 0x14 g a b c (laneCode ln ++ 7#4))
  | .bfx g a b pos len1 => some (f2 0x15 g a b 0 0 (0#4 ++ len1 ++ pos))
  | .bfxz g a b pos len1 => some (f2 0x15 g a b 0 1 (0#4 ++ len1 ++ pos))
  | .bfi g a b c pos len1 => some (f2 0x15 g a b c 2 (0#4 ++ len1 ++ pos))
  | .lea g a b c s imm => some (f2 0x16 g a b c (0#4 ++ s) imm)
  | .sel g a b c p neg => some (f1 0x17 g a b c (0#2 ++ bit neg ++ p))
  | .cmp g cond comb w p b c => some (f1 0x18 g (0#2 ++ p) b c (bit w ++ combCode comb ++ condCode cond))
  | .cmpi g cond comb w p b imm => some (f2 0x19 g (0#2 ++ p) b 0 (bit w ++ combCode comb ++ condCode cond) imm)
  | .plog g pk pj pi tt => some (f1 0x1A g (0#2 ++ pk) (0#2 ++ pj) (0#2 ++ pi) (0#2 ++ tt))
  | .psetw g b => some (f1 0x1B g 0 b 0 0)
  | .pgetw g a => some (f1 0x1B g a 0 0 1)
  | .fallocFree g a b c x => some (f4 0x30 g a b c 0 0 (fallocCode x 0))
  | .fallocBound g a b c x => some (f4 0x30 g a b c 0 0 (fallocCode x 1))
  | .fallocSeq g a b c x => some (f4 0x30 g a b c 0 0 (fallocCode x 2))
  | .fsetg g a b k => some (f1 0x31 g a b 0 (0#3 ++ k))
  | .fsets g a b k => some (f1 0x32 g a b 0 (0#3 ++ k))
  | .fgo g a i => some (f2l 0x33 g a 0 i)
  | .fsync g a b => some (f1 0x34 g a b 0 0)
  | .fgets g a b k => some (f1 0x35 g a b 0 (0#3 ++ k))
  | .fbrk g => some (h 0x36 g 0)
  | .fkill g b => some (f1 0x37 g 0 b 0 0)
  | .frel g b => some (f1 0x38 g 0 b 0 0)
  | .fself g a => some (h 0x39 g a)
  | .fhand g a i => some (f2l 0x3A g a 0 i)
  | .fbar g die => some (h 0x3B g (0#4 ++ bit die))
  | .frsmRetry g b => some (f1 0x3C g 0 b 0 0)
  | .frsmSkip g b => some (f1 0x3C g 0 b 0 1)
  | .frsmKill g b => some (f1 0x3C g 0 b 0 2)
  | .fadd g d a b c => some (f1 0x40 g a b c (bit d ++ 0#5))
  | .fsub g d a b c => some (f1 0x40 g a b c (bit d ++ 1#5))
  | .fmul g d a b c => some (f1 0x40 g a b c (bit d ++ 2#5))
  | .fdiv g d a b c => some (f1 0x40 g a b c (bit d ++ 3#5))
  | .fsqrt g d a b => some (f1 0x40 g a b 0 (bit d ++ 4#5))
  | .fmin g d a b c => some (f1 0x40 g a b c (bit d ++ 5#5))
  | .fmax g d a b c => some (f1 0x40 g a b c (bit d ++ 6#5))
  | .fabs g d a b => some (f1 0x40 g a b 0 (bit d ++ 7#5))
  | .fneg g d a b => some (f1 0x40 g a b 0 (bit d ++ 8#5))
  | .fma g d a b c => some (f1 0x40 g a b c (bit d ++ 9#5))
  | .fclass g d a b => some (f1 0x40 g a b 0 (bit d ++ 10#5))
  | .fcmp g cond d p b c => some (f1 0x41 g (0#2 ++ p) b c (bit d ++ 0#2 ++ fcondCode cond))
  | .cvt g dst src a b s => some (f2 0x42 g a b 0 0 (s ++ fmtCode src ++ fmtCode dst))
  | .frnd g mode d a b => some (f1 0x43 g a b 0 (bit d ++ 0#3 ++ mode))
  | .rngp g a b c d => some (f4 0x44 g a b c d 0 0)
  | .rngf g a b => some (f1 0x45 g a b 0 0)
  | .cadd g n1 sgn a b c => some (f2 0x50 g a b c (n1 ++ 0#3) (bit sgn ++ 0#15))
  | .csub g n1 sgn a b c => some (f2 0x50 g a b c (n1 ++ 1#3) (bit sgn ++ 0#15))
  | .cins g n1 a b c axis => some (f2 0x50 g a b c (n1 ++ 2#3) (0#13 ++ axis))
  | .cext g n1 a b axis => some (f2 0x50 g a b 0 (n1 ++ 3#3) (0#13 ++ axis))
  | .clvl g n1 a b level => some (f2 0x50 g a b 0 (n1 ++ 4#3) (0#7 ++ level ++ 0#3))
  | .cenc g n1 a b => some (f2 0x50 g a b 0 (n1 ++ 5#3) 0)
  | .cdec g n1 a b => some (f2 0x50 g a b 0 (n1 ++ 6#3) 0)
  | .cpar g n1 a b => some (f2 0x50 g a b 0 (n1 ++ 7#3) 0)
  | .cbox g n1 p b c d => some (f4 0x51 g (0#2 ++ p) b c d (n1 ++ 0#3) 0)
  | .cnext g n1 a b c d => some (f4 0x52 g a b c d (n1 ++ 0#3) 0)
  | .csplit g n1 a b c d off m1 => some (f4 0x53 g a b c d (n1 ++ 0#3) (0#18 ++ m1 ++ off))
  | .ld g wd z a b imm => some (f2 0x60 g a b 0 (0#3 ++ bit z ++ widthCode wd) imm)
  | .ldx g wd z a b c s => some (f1 0x61 g a b c (0#1 ++ s ++ bit z ++ widthCode wd))
  | .st g wd a b imm => some (f2 0x62 g a b 0 (0#4 ++ widthCode wd) imm)
  | .stx g wd a b c s => some (f1 0x63 g a b c (0#1 ++ s ++ 0#1 ++ widthCode wd))
  | .ldp g a b imm => some (f2 0x64 g a b 0 0 imm)
  | .stp g a b imm => some (f2 0x65 g a b 0 0 imm)
  | .ldv g a b imm => some (f2 0x66 g a b 0 0 imm)
  | .stf g a b imm => some (f2 0x67 g a b 0 0 imm)
  | .ssus g a b imm => some (f2 0x68 g a b 0 0 imm)
  | .semp g b imm => some (f2 0x69 g 0 b 0 0 imm)
  | .ldt g a b imm => some (f2 0x6A g a b 0 0 imm)
  | .amoAdd g w a b c => some (f1 0x6B g a b c (bit w ++ 0#1 ++ 0#4))
  | .amoAnd g w a b c => some (f1 0x6B g a b c (bit w ++ 0#1 ++ 1#4))
  | .amoOr g w a b c => some (f1 0x6B g a b c (bit w ++ 0#1 ++ 2#4))
  | .amoXor g w a b c => some (f1 0x6B g a b c (bit w ++ 0#1 ++ 3#4))
  | .amoSwap g w a b c => some (f1 0x6B g a b c (bit w ++ 0#1 ++ 4#4))
  | .amoMin g w a b c => some (f1 0x6B g a b c (bit w ++ 0#1 ++ 5#4))
  | .amoMax g w a b c => some (f1 0x6B g a b c (bit w ++ 0#1 ++ 6#4))
  | .amoMinz g w a b c => some (f1 0x6B g a b c (bit w ++ 0#1 ++ 7#4))
  | .amoMaxz g w a b c => some (f1 0x6B g a b c (bit w ++ 0#1 ++ 8#4))
  | .cas g w a b c d => some (f4 0x6C g a b c d (bit w ++ 0#5) 0)
  | .fenceRel g scope => some (f1 0x6D g 0 0 0 (0#2 ++ scopeCode scope ++ 0#2))
  | .fenceAcq g scope => some (f1 0x6D g 0 0 0 (0#2 ++ scopeCode scope ++ 1#2))
  | .fenceFull g scope => some (f1 0x6D g 0 0 0 (0#2 ++ scopeCode scope ++ 2#2))
  | .rfence g => some (h 0x6E g 0)
  | .vadd g x d bcast => some (vop g x.a x.b x.c d (vopCode 0 0 bcast x.len x.fmt 0))
  | .vsub g x d bcast => some (vop g x.a x.b x.c d (vopCode 0 0 bcast x.len x.fmt 1))
  | .vmul g x d bcast => some (vop g x.a x.b x.c d (vopCode 0 0 bcast x.len x.fmt 2))
  | .vfma g x d bcast => some (vop g x.a x.b x.c d (vopCode 0 0 bcast x.len x.fmt 3))
  | .vmin g x d bcast => some (vop g x.a x.b x.c d (vopCode 0 0 bcast x.len x.fmt 4))
  | .vmax g x d bcast => some (vop g x.a x.b x.c d (vopCode 0 0 bcast x.len x.fmt 5))
  | .vabs g x => some (vop g x.a x.b x.c 0 (vopCode 0 0 false x.len x.fmt 6))
  | .vneg g x => some (vop g x.a x.b x.c 0 (vopCode 0 0 false x.len x.fmt 7))
  | .vcvt g x src => some (vop g x.a x.b x.c 0 (vopCode 0 (fmtCode src) false x.len x.fmt 8))
  | .vexp2 g x => some (vop g x.a x.b x.c 0 (vopCode 0 0 false x.len x.fmt 9))
  | .vlog2 g x => some (vop g x.a x.b x.c 0 (vopCode 0 0 false x.len x.fmt 10))
  | .vrsq g x => some (vop g x.a x.b x.c 0 (vopCode 0 0 false x.len x.fmt 11))
  | .vrcp g x => some (vop g x.a x.b x.c 0 (vopCode 0 0 false x.len x.fmt 12))
  | .vsel g x d bcast => some (vop g x.a x.b x.c d (vopCode 0 0 bcast x.len x.fmt 13))
  | .vcmp g x d bcast cond => some (vop g x.a x.b x.c d (vopCode (vcondCode cond) 0 bcast x.len x.fmt 14))
  | .vsum g x => some (vop g x.a x.b x.c 0 (vopCode 0 0 false x.len x.fmt 15))
  | .vscan g x => some (vop g x.a x.b x.c 0 (vopCode 0 0 false x.len x.fmt 16))
  | .vgath g x d => some (vop g x.a x.b x.c d (vopCode 0 0 false x.len x.fmt 17))
  | .vscat g x d => some (vop g x.a x.b x.c d (vopCode 0 0 false x.len x.fmt 18))
  | .vrng g x d => some (vop g x.a x.b x.c d (vopCode 0 0 true x.len x.fmt 19))
  | .vclr g a b fmt len => some (vop g a b 0 0 (vopCode 0 0 false len fmt 20))
  | .vcpy g x => some (vop g x.a x.b x.c 0 (vopCode 0 0 false x.len x.fmt 21))
  | .mzero g acc => some (f2 0x78 g 0 0 0 0 (0#12 ++ acc))
  | .mmac g a b c acc steps1 => some (f4 0x79 g a b c 0 0 (0#31 ++ steps1 ++ acc))
  | .mxfTranspose g a src dst => some (f4 0x7A g a 0 0 0 0 (0#35 ++ dst ++ src))
  | .mxfPerm g a b src dst => some (f4 0x7A g a b 0 0 1 (0#35 ++ dst ++ src))
  | .mxfRsum g a src dst => some (f4 0x7A g a 0 0 0 2 (0#35 ++ dst ++ src))
  | .mxfCsum g a src dst => some (f4 0x7A g a 0 0 0 3 (0#35 ++ dst ++ src))
  | .mxfExch g a src dst i j => some (f4 0x7A g a 0 0 0 4 (0#27 ++ j ++ i ++ dst ++ src))
  | .mlda g fmt a b acc => some (f4 0x7B g a b 0 0 0 (0#35 ++ fmtCode fmt ++ acc))
  | .msta g fmt sc a b acc s => some (f4 0x7C g a b 0 0 0 (0#26 ++ bit sc ++ s ++ fmtCode fmt ++ acc))
  | .xcopy g scope ch a b c d => some (f4 0x7D g a b c d 0 (0#39 ++ scopeCode scope ++ ch))
  | .xshape g scope ch a b c d => some (f4 0x7D g a b c d 1 (0#39 ++ scopeCode scope ++ ch))
  | .xfill g scope ch a b c d => some (f4 0x7D g a b c d 2 (0#39 ++ scopeCode scope ++ ch))
  | .xwptr g a ch => some (f4 0x7D g a 0 0 0 3 (0#41 ++ ch))
  | .qeos g => some (f2 0x7E g 0 0 0 0 0)
  | .qpoll g => some (f2 0x7E g 0 0 0 1 0)
  | .rdjoin g a b c => some (f2 0x7E g a b c 2 0)
  | .rdadd g a b c => some (f2 0x7E g a b c 3 0)
  | .rdfree g b => some (f2 0x7E g 0 b 0 4 0)
  | .rdc g a num => some (f2 0x7E g a 0 0 5 num)
  | .wrc g b num => some (f2 0x7E g 0 b 0 6 num)
  | .rdcyc g a => some (f2 0x7E g a 0 0 7 0)
  | .evwait g a mask => some (f2 0x7E g a 0 0 8 (0#13 ++ mask))
  | .jreplay g a b => some (f2 0x7E g a b 0 9 0)
  | .jstat g a b => some (f2 0x7E g a b 0 10 0)
  | .wakeResume g a b c vi slot => some (f4 0x7F g a b c 0 0 (0#29 ++ slot ++ vi ++ 0#2))
  | .wakeFail g a b c vi slot => some (f4 0x7F g a b c 0 0 (0#29 ++ slot ++ vi ++ 1#2))
  | .wakeCell g a b c vi slot => some (f4 0x7F g a b c 0 0 (0#29 ++ slot ++ vi ++ 2#2))
  | .wakeGo g a b c vi slot => some (f4 0x7F g a b c 0 0 (0#29 ++ slot ++ vi ++ 3#2))
  | .slotsv g a b c core slot => some (f4 0x7F g a b c 0 1 (0#36 ++ bit core ++ slot))
  | .slotld g a b c core slot => some (f4 0x7F g a b c 0 2 (0#36 ++ bit core ++ slot))
  | .stopatStop g a c vi dies => some (f4 0x7F g a 0 c 0 3 (0#32 ++ 0#1 ++ dies ++ vi))
  | .stopatGo g a c vi dies => some (f4 0x7F g a 0 c 0 3 (0#32 ++ 1#1 ++ dies ++ vi))
  | .pzero g a b c => some (f4 0x7F g a b c 0 4 0)
  | .poolpart g a b c bob => some (f4 0x7F g a b c 0 5 (0#35 ++ bob))
  | .tinv g a b c op all vi dies => some (f4 0x7F g a b c 0 6 (0#30 ++ dies ++ vi ++ bit all ++ op))
  | .pgver g a b => some (f4 0x7F g a b 0 0 7 0)
  | .pgswap g a b c d vi => some (f4 0x7F g a b c d 8 (0#37 ++ vi))
  | .selv g a b c => some (f4 0x7F g a b c 0 9 0)
  | .imap g a b c dies => some (f4 0x7F g a b c 0 10 (0#39 ++ dies))
  | .evpost g a b c vi gen sysm => some (f4 0x7F g a b c 0 11 (0#20 ++ bit sysm ++ gen ++ vi))
  | .haltRetire g a b c slice => some (f4 0x7F g a b c 0 12 (0#40 ++ bit slice ++ 0#2))
  | .haltRemap g a b c slice => some (f4 0x7F g a b c 0 12 (0#40 ++ bit slice ++ 1#2))
  | _ => none

/-- The half-words of an instruction's tail, lowest first (R70). -/
def Words.tailHalves (w : Words) : List Half :=
  (List.range (tlLen (headTl w.head))).map fun q => w.tail.extractLsb' (16 * q) 16

/-! Lines (R66, R70, R71). -/

/-- Half-word `i` of a code line. -/
def lineHalf (line : BitVec 512) (i : Nat) : Half := line.extractLsb' (16 * i) 16

/-- `k` of R71: the lowest half-word that is 0x0000, or 32. -/
def lineHeads (line : BitVec 512) : Nat :=
  ((List.range 32).find? fun i => lineHalf line i == 0).getD 32

/-- The tail half-words of the heads below `j` (R70, R71). -/
def lineTails (line : BitVec 512) (j : Nat) : Nat :=
  ((List.range j).map fun m => tlLen (headTl (lineHalf line m))).sum

/-- The check of R71: the line is not BADLINE. -/
def lineOk (line : BitVec 512) : Bool :=
  let k := lineHeads line
  let t := lineTails line k
  if k = 32 then t == 0 else k + 1 + t ≤ 32

/-- The tail value of head `j` (R70). -/
def lineTail (line : BitVec 512) (j : Nat) : BitVec 64 :=
  let len := tlLen (headTl (lineHalf line j))
  let top := 31 - lineTails line j
  (line.extractLsb' (16 * (top + 1 - len)) 64) &&& BitVec.ofNat 64 (2 ^ (16 * len) - 1)

/-- The instruction at head `j` of a line. -/
def decodeLine (line : BitVec 512) (j : Nat) : Except Ill Instr := decode (lineHalf line j) (lineTail line j)

/-- A line that holds one instruction at head 0, its tail at the top, and ENDL after it (R70, R71). -/
def mkLine (w : Words) : BitVec 512 :=
  let len := tlLen (headTl w.head)
  let tail := (w.tail &&& BitVec.ofNat 64 (2 ^ (16 * len) - 1)).setWidth 512 <<< (16 * (32 - len))
  w.head.setWidth 512 ||| tail

/-- The half-words of an instruction given as the opcode table numbers its bits: the table writes the head
in the highest 16 bits and the tail value below it. -/
def tableWords (nbits w : Nat) : Words :=
  ⟨BitVec.ofNat 16 (w >>> (nbits - 16)), BitVec.ofNat 64 (w % 2 ^ (nbits - 16))⟩

/-- The decoder on an opcode-table word. -/
def decodeTableWord (nbits w : Nat) : Option Instr :=
  let x := tableWords nbits w
  match decodeLine (mkLine x) 0 with
  | .ok i => some i
  | .error _ => none

end Sys2Proof
end

