-- ==== Sys2Proof/Machine/Pool.lean ====
section
/-! DEFINITION. The core pool: the 32-word context as memory, pool bytes, regions and the system area
(02_families R23, 04_register R105, R106; 11_pool R194 to R200). -/

namespace Sys2Proof.Machine

/-- Register `r` of a window. -/
def Slot.reg (x : Slot) (r : Nat) : Word := aget 0 x.regs r
def Slot.setReg (x : Slot) (r : Nat) (v : Word) : Slot := { x with regs := aset 0 x.regs r v }
/-- F of R103. -/
def Slot.isFull (x : Slot) (r : Nat) : Bool := x.full.getLsbD r
/-- P of R103. -/
def Slot.isPend (x : Slot) (r : Nat) : Bool := x.pend.getLsbD r
def Slot.setFP (x : Slot) (r : Nat) (f p : Bool) : Slot :=
  { x with full := setBitN x.full r f, pend := setBitN x.pend r p }
/-- A register made Full with a value (R104). -/
def Slot.fill (x : Slot) (r : Nat) (v : Word) : Slot := (x.setReg r v).setFP r true false
/-- A register made Pending (R104). -/
def Slot.setPend (x : Slot) (r : Nat) : Slot := x.setFP r false true

/-! The context (R23). -/

/-- Word 28 (R106). -/
def Slot.word28 (x : Slot) : Word := 0#8 ++ x.fflim ++ x.ffrm ++ 0#1 ++ x.frm ++ x.pred
/-- Word 29 (R105). -/
def Slot.word29 (x : Slot) : Word := 0#5 ++ x.pend.extractLsb' 1 27 ++ 0#5 ++ x.full.extractLsb' 1 27

/-- Word `w` of the context. -/
def Slot.ctxWord (x : Slot) (w : Nat) : Word :=
  if w < 27 then x.reg (w + 1)
  else match w with
    | 27 => x.pc | 28 => x.word28 | 29 => x.word29 | 30 => x.rkey | _ => x.evc

/-- The slot with word `w` of its context replaced; `outst` are the registers with a write outstanding
(R103, R104, R403). -/
def Slot.setCtxWord (x : Slot) (outst : List Nat) (w : Nat) (v : Word) : Slot :=
  if w < 27 then x.setReg (w + 1) v
  else match w with
    | 27 => { x with pc := v }
    | 28 => { x with pred := v.extractLsb' 0 8, frm := v.extractLsb' 8 7, ffrm := v.extractLsb' 16 20,
                     fflim := v.extractLsb' 36 20 }
    | 29 =>
      let full : BitVec 32 := (v.extractLsb' 0 27 ++ 0#1).setWidth 32
      let p : BitVec 32 := (v.extractLsb' 32 27 ++ 0#1).setWidth 32
      let allowed : BitVec 32 := outst.foldl (fun m r => setBitN m r true) 0
      { x with full := full, pend := p &&& ~~~full &&& allowed }
    | 30 => { x with rkey := v }
    | _ => { x with evc := v }

/-! Regions (R195, R199, R200). -/

/-- The end of the register file. -/
def Core.rfEnd (c : Core) : Nat := 4096 * fld c.poolw 3 0
/-- The end of the accumulator storage. -/
def Core.accEnd (c : Core) : Nat := 4096 * (fld c.poolw 3 0 + fld c.poolw 8 4)

/-- The regions of a pool. -/
inductive Region | rf | acc | scratch | recs | sysArea | outside
deriving DecidableEq, Repr

/-- The region of an offset. -/
def Core.region (c : Core) (size off : Nat) : Region :=
  if off < c.rfEnd then .rf
  else if off < c.accEnd then .acc
  else if off < size - 4096 then .scratch
  else if off < size - 4096 + 0x400 then .recs
  else if off < size then .sysArea
  else .outside

/-- All `n` bytes at `off` lie in the scratchpad. -/
def Core.inScratch (c : Core) (size off n : Nat) : Bool := n == 0 || (c.accEnd ≤ off && off + n ≤ size - 4096)

/-! Bytes. The register-file region is the slots' contexts themselves. -/

/-- A pool byte. -/
def Core.poolByte (c : Core) (off : Nat) : Byte :=
  if off < c.rfEnd then byteOf ((c.slot (off / 256)).ctxWord (off % 256 / 8)) (off % 8) else aget 0 c.pool off

/-- The registers of a slot with a long-latency write outstanding (R404). -/
def Core.outRegs (c : Core) (i : Nat) (sgen : BitVec 15) : List Nat :=
  c.out.flatMap fun o =>
    if o.who.slot == i && o.who.sgen == sgen then o.dest.toNat :: (o.dest2.map (·.toNat)).toList else []

/-- The core with one pool byte written. -/
def Core.setPoolByte (c : Core) (off : Nat) (v : Byte) : Core :=
  if off < c.rfEnd then
    let i := off / 256
    let w := off % 256 / 8
    let x := c.slot i
    c.setSlot i (x.setCtxWord (c.outRegs i x.sgen) w (setFld (x.ctxWord w) (8 * (off % 8)) 8 v.toNat))
  else { c with pool := aset 0 c.pool off v }

/-- `n` bytes at `off`, little-endian. -/
def Core.poolRead (c : Core) (off n : Nat) : Nat := ofBytes ((List.range n).map fun k => c.poolByte (off + k))

/-- Write the bytes at `off`. -/
def Core.poolWrite (c : Core) (off : Nat) (bs : List Byte) : Core :=
  (bs.foldl (fun (p : Core × Nat) b => (p.1.setPoolByte p.2 b, p.2 + 1)) (c, off)).1

/-- The word at a pool offset. -/
def Core.poolWord (c : Core) (off : Nat) : Word := BitVec.ofNat 64 (c.poolRead off 8)
/-- Write a word at a pool offset. -/
def Core.setPoolWord (c : Core) (off : Nat) (v : Word) : Core := c.poolWrite off (bytesOf 8 v.toNat)

/-- The offset of place `k` of the event area, 16 bytes each (R200; assumption log 38, DESIGN CHOICE). -/
def eventPlace (size k : Nat) : Nat := size - 4096 + 0x400 + 16 * k

/-- Zero-fill (R198): every byte of the pool reads 0, and the event area holds no event. The slots' contexts are cleared by
what calls it. The record cache keeps its records, though their shadow now reads 0 (assumption log 42, DESIGN CHOICE). -/
def Core.zeroFill (c : Core) : Core := { c with pool := [], posts := [] }

/-! Addresses of a core (R231). -/

/-- The target of a data address (R231). -/
inductive Target
  | global (va : Word)
  | pool (unit : UnitId) (off : Nat)
  | own (off : Nat)
deriving DecidableEq, Repr

/-- The form of an address; none where the bits its form wants zero are not (R231). -/
def targetOf (me : UnitId) (a : Word) : Option Target :=
  match fld a 63 61 with
  | 4 =>
    if fld a 60 32 = 0 && fld a 19 17 = 0 then
      let c := fld a 31 20
      if c = me then some (.own (fld a 16 0)) else some (.pool c (fld a 16 0))
    else none
  | 5 => if fld a 60 32 = 0 && fld a 31 25 = 0 then some (.pool (svcUnit (fld a 24 20)) (fld a 19 0)) else none
  | 6 | 7 => if fld a 61 20 = 0 then some (.own (fld a 19 0)) else none
  | _ => if fld a 62 53 = 0 then some (.global a) else none

/-- The own-pool address of an offset (R199). -/
def ownAddr (off : Nat) : Word := 0xC000000000000000#64 + BitVec.ofNat 64 off

/-- The own-pool address of fault record `i` (R393). -/
def recordAddr (u : UnitId) (i : Nat) : Word := ownAddr (poolSize u - 4096 + 64 * i)

end Sys2Proof.Machine
end

