-- ==== Sys2Proof/Machine/Flags.lean ====
section
/-! DEFINITION. Predicates, guards and the sticky flags of FRM (03_lines R68; 04_register R106, R107;
05_integer R121, R122). -/

namespace Sys2Proof.Machine

/-- p_k (R106). -/
def Slot.p (x : Slot) (k : Pred) : Bool := x.pred.getLsbD k.toNat

/-- p_k written (R106). -/
def Slot.setP (x : Slot) (k : Pred) (v : Bool) : Slot := { x with pred := setBitN x.pred k.toNat v }

/-- The guard of an instruction holds (R68). -/
def Slot.guard (x : Slot) : Guard → Bool
  | .always => true
  | .ifP0 => x.p 0
  | .ifNotP0 => !x.p 0
  | .ifP1 => x.p 1

/-- Exception flags in the order of FRM (R107): NX, UF, OF, DZ, NV from bit 0. -/
abbrev FpFlags := BitVec 5
def flagNX : FpFlags := 1
def flagUF : FpFlags := 2
def flagOF : FpFlags := 4
def flagDZ : FpFlags := 8
def flagNV : FpFlags := 16

/-- OR flags into FRM (R107). -/
def Slot.orFlags (x : Slot) (f : FpFlags) : Slot := { x with frm := x.frm ||| (f.setWidth 7 <<< 2) }

/-- The flags of a landing (R159): also kept for a WRC of FRM in the same cycle, into whose value they are ORed. -/
def Slot.landFlags (x : Slot) (now : Nat) (f : FpFlags) : Slot :=
  { x.orFlags f with landed := (now, f ||| if x.landed.1 = now then x.landed.2 else 0) }

/-- FRM.MODE (R107). -/
def Slot.mode (x : Slot) : BitVec 2 := x.frm.extractLsb' 0 2

/-- The comparison of CMP and CMPI on 64-bit values (R121). -/
def condHolds (k : Cond) (a b : Word) : Bool :=
  match k with
  | .eq => a == b
  | .ne => a != b
  | .lt => a.slt b
  | .ge => !a.slt b
  | .ltz => a.ult b
  | .gez => !a.ult b

/-- LTZ and GEZ compare unsigned (R121). -/
def condUnsigned : Cond → Bool
  | .ltz | .gez => true
  | _ => false

/-- The operands of a .w comparison (R121). -/
def condNarrow (k : Cond) (w : Bool) (a : Word) : Word :=
  if w then (if condUnsigned k then zextN 32 a else sextN 32 a) else a

/-- The immediate of CMPI (R121). -/
def condImm (k : Cond) (i : BitVec 16) : Word := if condUnsigned k then i.setWidth 64 else i.signExtend 64

/-- The combination of CMP and CMPI (R121). -/
def combApply (k : Comb) (old res : Bool) : Bool :=
  match k with
  | .set => res
  | .and => old && res
  | .or => old || res

/-- PLOG (R122). -/
def plogBit (tt : BitVec 4) (j i : Bool) : Bool := tt.getLsbD (2 * j.toNat + i.toNat)

end Sys2Proof.Machine
end

