-- ==== Sys2Proof/Config.lean ====
section
/-! DEFINITION. What one module fixes and no instruction changes: fuses, boot images, keys, Heald's free choices,
and the values the spec leaves open. An opaque constant has no value that a proof can see. -/

namespace Sys2Proof.Config

/-! Values the spec leaves open (assumption log 1, DESIGN CHOICE). -/

/-- Extra cycles a packet takes under load (18_rings R329: no stated bound). -/
opaque netDelay : Nat → Nat
/-- Cycles from a line's becoming dirty to its write-back (13_global R238: not specified). -/
opaque writeBackDelay : Nat → Nat
/-- A byte a pool holds after two engines wrote it unordered is one of the values written (11_pool R202):
the command taken first by the step. -/
opaque poolRace : Nat → Bool
/-- Extra cycles before a copy channel takes its next granule (11_pool R201, 15_ordering R295: when it reads is not fixed). -/
opaque granuleDelay : Nat → Nat
/-- The record-cache entry that a new record replaces (19_engine R349: not specified). -/
opaque recordVictim : Nat → Nat

/-- The line that leaves a full slice (01_machine R13 gives its size, no rule the choice). -/
opaque sliceVictim : Nat → Nat
/-- OP of a flit header (18_rings R318 numbers no operations), by the packet's order of sending. -/
opaque packetOp : Nat → BitVec 6
/-- Cycles that a station's writes to the save area, and its reads from it, take (18_rings R338 gives no number). -/
opaque spillTime : Nat → Nat

/-- The status word that FSYNC reads of a fold that is still running (02_families R53 has it answer at once). -/
opaque runningStatus : Nat → BitVec 64

/-- What PGVER answers for a chunk that no stack holds (23_traps R408 gives no value). -/
opaque freeVersion : Nat → BitVec 64

/-! Fuses and boot (27_package). -/

/-- RSASSA-PSS signing with a die's device key (R451). -/
opaque rsaPssSign : Nat → List (BitVec 8) → BitVec 3072
/-- Kenlos's certificate for the public part of a die's device key (R451). -/
opaque certificate : Nat → List (BitVec 8)
/-- The hash of the image key in a die's fuses (R447). -/
opaque keyHash : Nat → BitVec 256
/-- A die's fused rollback counter (R447). -/
opaque rollback : Nat → BitVec 16
/-- The boot images in flash: die and slot (0 A, 1 B), header then body (R447). -/
opaque bootImage : Nat → Nat → List (BitVec 8)
/-- Whether a die's HBM4E stacks pass training (R448 step 1). -/
opaque hbmTrains : Nat → Bool
/-- The fused coordinate repair map: seats of the logical cores of a die (R382). -/
opaque fuseSeat : Nat → Nat → Nat
/-- The fused repair map: physical slice behind a slice identifier of a die (R382). -/
opaque fuseSlice : Nat → Nat → Nat
/-- Cycles a die's ROM takes from power-on to its report (R448, step 5: at most 1 s). -/
opaque romTime : Nat → Nat

/-! Heald's choices (02_families R30; 25_partitions). -/

/-- The core Heald chooses as the default place of a launch with place 0 (R30). -/
opaque defaultCore : Nat → Nat → Nat
/-- The physical address of a partition's VI table (R376 VTB). -/
opaque viTable : Nat → Nat
/-- The save area of a die in device memory (18_rings R338). -/
opaque saveArea : Nat → Nat
/-- The combining window W that Heald sets in a slice (R452 step 2). -/
opaque combiningWindow : Nat → BitVec 8
/-- Whether Heald answers a translation notice with resume (R242), by the order of the notice. -/
opaque healdResumes : Nat → Bool
/-- Whether the storage namespace reports an error, by the order of its blocks (R436). -/
opaque storageError : Nat → Bool
/-- Which of the eight shapes of R420 the operator gives the module at boot. -/
opaque shape : Nat
/-- Cycles from release until Heald prepares its partition (R452). -/
opaque healdDelay : Nat → Nat
/-- The configuration of a partition of some dies as Heald measures it into M1 (R450). -/
opaque configBytes : List Nat → List (BitVec 8)
/-- The routine of a service launch (26_program R437) in a partition's image, by TYPE: service core, window, body and globals. -/
opaque serviceRoutine : Nat → Nat → Option (Nat × BitVec 3 × BitVec 3 × BitVec 5 × BitVec 64 × List (BitVec 64))
/-- The image of that service launch: where in physical memory, by its word's number, and its words (26_program R437). -/
opaque serviceImage : Nat → Nat → Nat × List (BitVec 64)

/-! Inputs that the model takes itself (R446). -/

/-- What a die's power controller measures at its n-th test: power above 4.0 kW, below 3.8 kW, junction above 95 °C, below 90 °C. -/
opaque powerReading : Nat → Nat → Bool × Bool × Bool × Bool

end Sys2Proof.Config
end

