-- ==== Sys2Proof/Machine/Net.lean ====
section
/-! DEFINITION. The network: positions, routes, unloaded times, order and the selvedge
(18_rings R314 to R322, R329, R339; 21_tables R381, R382). -/

namespace Sys2Proof.Machine

/-- A stop: on a ring pair of a quadrant, on a die's spine, or a station between them. -/
inductive Loc
  | ring (die quad pair pos : Nat)
  | spine (die pos : Nat)
  | station (die quad k : Nat)
deriving DecidableEq, Repr

/-- The position of cluster stop `n` (R314). -/
def clusterPos (n : Nat) : Nat := 10 * (n / 8) + ([0, 1, 3, 4, 5, 6, 8, 9].getD (n % 8) 0)
/-- The position of slice stop `m` (R314). -/
def slicePos (m : Nat) : Nat := 10 * (m / 2) + (if m % 2 = 0 then 2 else 7)

/-- Where a unit sits, by the repair map for cores and slices (R382, R314, R315). -/
def State.locOf (s : State) (u : UnitId) : Loc :=
  let d := unitDie u
  let i := unitIdent u
  match unitKind u with
  | 0 =>
    let q := u / 256 % 4
    let seat := aget (u % 256) (s.die d).seats (u % 1024)
    if seat < 256 then .ring d q (seat / 128) (clusterPos (seat / 4 % 32))
    else .ring d q ((seat - 256) / 4) (clusterPos (3 + 8 * ((seat - 256) % 4)))
  | 1 =>
    let p := aget (i % 64) (s.die d).sliceMap (i % 64)
    if p < 64 then .ring d (p / 16 % 4) (p / 8 % 2) (slicePos (p % 8)) else .ring d ((p - 64) % 4) 0 (slicePos 0)
  | 2 => .spine d (if i / 4 % 2 = 0 then 0 else 20)
  | 3 => .station d (i / 4 % 4) (i % 4)
  | 4 => .spine d 10
  | _ => .spine d (if i % 2 = 0 then 5 else 15)

/-- The smaller hop count of two directions on a ring of `n` positions. -/
def dist (n p q : Nat) : Nat :=
  let f := (q + n - p) % n
  min f (n - f)

/-- near(p) of R321. -/
def nearStation (p : Nat) : Nat :=
  let best := [0, 1, 2, 3].foldl (fun (b : Nat × Nat) k => if dist 40 p (10 * k) < b.1 then (dist 40 p (10 * k), k) else b) (100, 0)
  best.2

/-- Hops on a ring pair; a degraded pair counts them twice (R339). -/
def State.ringHops (s : State) (d q pair p1 p2 : Nat) : Nat :=
  dist 40 p1 p2 * (if aget 0 s.degraded (8 * d + 2 * q + pair) = 0 then 1 else 2)

/-- Hops on a spine. -/
def State.spineHops (s : State) (d p1 p2 : Nat) : Nat :=
  dist 21 p1 p2 * (if aget 0 s.degraded (32 + d) = 0 then 1 else 2)

/-! ## Routes (R321) -/

/-- The ring + of `n` positions has no more hops than the ring − (R321). -/
def goesPlus (n p q : Nat) : Bool := decide ((q + n - p) % n ≤ n - (q + n - p) % n)
/-- The side of a station on the ring that takes a packet from one position of a pair to another (R320). -/
def ringSide (pair p q : Nat) : Nat := 2 * pair + (if goesPlus 40 p q then 0 else 1)
/-- The same on a spine. -/
def spineSide (p q : Nat) : Nat := if goesPlus 21 p q then 4 else 5

/-- A station that a route passes, with the side it is entered by and the side it is left by (R322, R336). -/
structure Via where
  id : Nat
  sideIn : Nat
  sideOut : Nat
deriving DecidableEq, Repr

/-- A place on a route where a packet can be kept, counted or stopped: a station, or a die-to-die port by which it leaves a die
(`out`) or comes into one. -/
inductive Way
  | station (v : Via)
  | port (p : Nat) (out : Bool)
deriving DecidableEq, Repr

/-- A leg of a route: the place it begins at, or none at the source stop; its hops and the links it crosses. -/
structure Leg where
  way : Option Way
  hops : Nat
  links : Nat
deriving DecidableEq, Repr

/-- Cycles of a leg (R329). -/
def Leg.cost (l : Leg) : Nat :=
  (match l.way with
    | some (.station _) => 10
    | _ => 0) + l.hops + 40 * l.links

/-- Diagonal and next-die traffic goes up, the rest down (R321). -/
def goesUp (sd dd : Nat) : Bool := dd == (sd + 1) % 4 || dd == (sd + 2) % 4

/-- A stop's way to its die's spine: hops, station, the side it is entered by, die and spine position. A stop on a ring goes
through near of its position; a station that is an end of a route is not passed. -/
def State.spineEnd (s : State) : Loc → Nat × Option Nat × Nat × Nat × Nat
  | .ring d q pair pos =>
    let k := nearStation pos
    (s.ringHops d q pair pos (10 * k), some (16 * d + 4 * q + k), ringSide pair pos (10 * k), d, 1 + 5 * q + k)
  | .spine d pos => (0, none, 0, d, pos)
  | .station d q k => (0, none, 0, d, 1 + 5 * q + k)

/-- From a spine position to another: the hops before the first port, the legs from port to port, the side left by and the side
entered by (R321). -/
def State.spinePart (s : State) (d1 p1 d2 p2 : Nat) : Nat × List Leg × Nat × Nat :=
  if d1 == d2 then (s.spineHops d1 p1 p2, [], spineSide p1 p2, spineSide p1 p2)
  else if goesUp d1 d2 then
    let m := (d1 + 1) % 4
    let last : Leg := ⟨some (.port (2 * d2 + 1) false), s.spineHops d2 15 p2, 0⟩
    let mid : List Leg :=
      if d2 == m then [] else [⟨some (.port (2 * m + 1) false), s.spineHops m 15 5, 0⟩, ⟨some (.port (2 * m) true), 0, 1⟩]
    (s.spineHops d1 p1 5, [⟨some (.port (2 * d1) true), 0, 1⟩] ++ mid ++ [last], spineSide p1 5, spineSide 15 p2)
  else
    (s.spineHops d1 p1 15, [⟨some (.port (2 * d1 + 1) true), 0, 1⟩, ⟨some (.port (2 * d2) false), s.spineHops d2 5 p2, 0⟩],
     spineSide p1 15, spineSide 5 p2)

/-- The legs of the route between two stops (R321). -/
def State.pathOf (s : State) (a b : Loc) : List Leg :=
  let far := fun (_ : Unit) =>
    let (h1, v1, i1, d1, p1) := s.spineEnd a
    let (h2, v2, _, d2, p2) := s.spineEnd b
    let (h, ports, so, si) := s.spinePart d1 p1 d2 p2
    let side2 := match b with
      | .ring _ _ pair pos => ringSide pair (10 * nearStation pos) pos
      | _ => 0
    (match v1 with
      | some st => [⟨none, h1, 0⟩, ⟨some (.station ⟨st, i1, so⟩), h, 0⟩]
      | none => [⟨none, h, 0⟩]) ++ ports ++
    match v2 with
      | some st => [⟨some (.station ⟨st, si, side2⟩), h2, 0⟩]
      | none => []
  match a, b with
  | .ring d1 q1 r1 p1, .ring d2 q2 r2 p2 =>
    if d1 == d2 && q1 == q2 then
      if r1 == r2 then [⟨none, s.ringHops d1 q1 r1 p1 p2, 0⟩]
      else
        let plain := fun k => dist 40 p1 (10 * k) + dist 40 (10 * k) p2
        let k := [1, 2, 3].foldl (fun b k => if plain k < plain b then k else b) 0
        [⟨none, s.ringHops d1 q1 r1 p1 (10 * k), 0⟩,
         ⟨some (.station ⟨16 * d1 + 4 * q1 + k, ringSide r1 p1 (10 * k), ringSide r2 (10 * k) p2⟩), s.ringHops d1 q1 r2 (10 * k) p2, 0⟩]
    else far ()
  | .ring d1 q1 r1 p1, .station d2 q2 k =>
    if d1 == d2 && q1 == q2 then [⟨none, s.ringHops d1 q1 r1 p1 (10 * k), 0⟩] else far ()
  | .station d1 q1 k, .ring d2 q2 r2 p2 =>
    if d1 == d2 && q1 == q2 then [⟨none, s.ringHops d2 q2 r2 (10 * k) p2, 0⟩] else far ()
  | _, _ => far ()

/-- The legs of the route between two units. -/
def State.path (s : State) (src dst : UnitId) : List Leg := s.pathOf (s.locOf src) (s.locOf dst)

/-- D of R329: cycles from the issue of a packet to its arrival, unloaded. -/
def State.travel (s : State) (src dst : UnitId) : Nat := 14 + ((s.path src dst).map Leg.cost).sum

/-- The places of a route, each with the cycles from there to the arrival, of which `eject` follow the last hop. -/
def waysLeft (eject : Nat) : List Leg → List (Way × Nat)
  | [] => []
  | l :: ls =>
    match l.way with
    | some w => (w, eject + ((l :: ls).map Leg.cost).sum) :: waysLeft eject ls
    | none => waysLeft eject ls

/-- Die and quadrant of a stop on a ring or of a station; none on a spine. -/
def Loc.quad : Loc → Option (Nat × Nat)
  | .ring d q _ _ => some (d, q)
  | .station d q _ => some (d, q)
  | .spine _ _ => none

/-- The token of the ring pair or spine a stop sits on (R324). -/
def State.tokenOf (s : State) (u : UnitId) : Nat :=
  match s.locOf u with
  | .ring d q p _ => 8 * d + 2 * q + p
  | .spine d _ => 32 + d
  | .station d _ _ => 32 + d

/-- The spines on the way from a stop to another (R321, R324). -/
def State.spinesTo (s : State) (src dst : UnitId) : List Nat :=
  let q := (s.locOf src).quad
  if q.isSome && q == (s.locOf dst).quad then []
  else
    let a := unitDie src
    let b := unitDie dst
    if b = (a + 2) % 4 then [32 + a, 32 + (a + 1) % 4, 32 + b] else [32 + a, 32 + b]

/-- The pair that a stop sits on. -/
def State.ownPair (s : State) (u : UnitId) : List Nat :=
  match s.locOf u with
  | .ring d q p _ => [8 * d + 2 * q + p]
  | _ => []

/-- A route enters a ring pair or spine that is lost (R339). -/
def State.routeLost (s : State) (src dst : UnitId) : Bool :=
  s.degraded.any (·.2 = 2) && s.locOf src ≠ s.locOf dst &&
    (s.ownPair src ++ s.ownPair dst ++ s.spinesTo src dst).any fun t => aget 0 s.degraded t = 2

/-- A packet's route begins, ends or passes on a die. -/
def State.crosses (s : State) (d : Nat) (src dst : UnitId) : Bool :=
  unitDie src = d || unitDie dst = d || (unitDie src ≠ unitDie dst && (s.spinesTo src dst).contains (32 + d))

/-- A packet's route touches a die that has lost its power (R446). -/
def State.routeDead (s : State) (src dst : UnitId) : Bool :=
  s.dies.any fun p => p.2.power = .tripped && s.crosses p.1 src dst

/-! ## Flits (R316, R323) -/

/-- The entries of a multicast: the wait records of a wake, or one for each combined reader (R323). -/
def mcEntries (m : Multicast) : Nat :=
  (m.wakes.map fun w => w.recs.length).sum + m.reads.length + m.fetches.length + m.fills.length

/-- Its flits: the receivers, the value, and up to eight entries in each flit after them (R323). -/
def mcFlits (m : Multicast) : Nat := 2 + (mcEntries m + 7) / 8

/-- Flits of a packet: one, but for a multicast. -/
def flitsOf (ev : Ev) : Nat :=
  match ev.arg with
  | .copy _ m _ _ => mcFlits m
  | _ => 1

/-- The cycles of R329's 14 that a packet takes after its last hop: the 14 are taken as 7 for issue and injection and 7 for
ejection (assumption log 40, DESIGN CHOICE). A copy of a multicast on its way to a station or port is not ejected there. -/
def ejection (ev : Ev) : Nat :=
  match ev.arg with
  | .copy .. => 0
  | _ => 7

/-! ## Counters and the selvedge (R381, R389, R391) -/

/-- A saturating 32-bit count (R389). -/
def satInc (v : BitVec 32) : BitVec 32 := if v == 0xFFFFFFFF then v else v + 1

/-- A drop counter has counted once more in this cycle (R389). -/
def State.noteDrop (s : State) (key : Nat) : State :=
  let e := aget (0, 0) s.dropCounts key
  { s with dropCounts := aput s.dropCounts key (s.cycle, if e.1 = s.cycle then e.2 + 1 else 1) }
/-- What a drop counter holds after a clear: the counts of this cycle (R389). -/
def State.dropsNow (s : State) (key : Nat) : Nat :=
  let e := aget (0, 0) s.dropCounts key
  if e.1 = s.cycle then e.2 else 0

/-- A packet is dropped at a port with PASS = 0 (R381). -/
def State.dropAtPort (s : State) (p : Nat) : State := (s.modPort p fun x => { x with drop := satInc x.drop }).noteDrop p

/-- A packet dropped by a port engine (R381). -/
def State.dropAtEngine (s : State) (d : Nat) : State := (s.modEngine d fun x => { x with drop := satInc x.drop }).noteDrop (8 + d)

/-- Flits a station forwards in a class (R391). -/
def State.countStation (s : State) (id cls n : Nat) : State :=
  s.modStation id fun x => { x with perf := bumpPerf x.perf (8 * cls) n }

/-- Flits a port sends (`out`) or receives (R391). -/
def State.countPort (s : State) (p : Nat) (out : Bool) (n : Nat) : State :=
  s.modPort p fun x => { x with perf := bumpPerf x.perf (if out then 8 else 0x10) n }

/-- Flits of a packet that begins (`out`) or ends at a port engine or a port (R391). -/
def State.countEnd (s : State) (u : UnitId) (out : Bool) (n : Nat) : State :=
  match unitKind u with
  | 4 => s.modEngine (unitIdent u) fun x => { x with perf := bumpPerf x.perf (if out then 8 else 0x10) n }
  | 5 => s.countPort (unitIdent u) out n
  | _ => s

/-! ## Order and stops (R322, R335) -/

/-- A VI is stopped on a die at a cycle: from its GSTOP cycle until its go (R335, R405). -/
def State.stoppedAt (s : State) (die : Nat) (svs : Bool) (viid : BitVec 6) (t : Nat) : Bool :=
  !svs && (s.die die).stops.any fun x => x.viid == viid && x.cycle ≤ t

/-- A VI is stopped on a die. -/
def State.viStopped (s : State) (die : Nat) (sp : Space) : Bool := s.stoppedAt die sp.svs sp.viid s.cycle

/-- A number for a stop. -/
def Loc.num : Loc → Nat
  | .ring d q p x => ((d * 4 + q) * 2 + p) * 40 + x
  | .spine d x => 2000 + d * 21 + x
  | .station d q k => 2100 + (d * 4 + q) * 4 + k

/-- The key under which the order of one source stop, destination stop and class is kept (R289, R322). -/
def State.fifoKey (s : State) (cls : Nat) (src dst : UnitId) : Nat :=
  ((s.locOf src).num * 4096 + (s.locOf dst).num) * 8 + cls

/-- A packet of a copy channel's granule: an engine's drain, which a stop lets pass (R335, R405). -/
def State.drains (s : State) (ev : Ev) : Bool :=
  match ev.arg with
  | .engine _ | .engAck _ => true
  | .access a => match a.kind with
    | .granule _ => true
    | _ => false
  | .land l => (s.core l.unit).chans.any fun p => p.2.reads.any (·.1 == l.tid)
  | _ => false

/-- The places of a packet's route, each with the cycles from there to its arrival. -/
def State.waysOf (s : State) (p : Pending) : List (Way × Nat) := waysLeft (ejection p.ev) (s.path p.src p.dst)

/-- A packet in flight reaches the next place of its route, the `k`th (R320, R322, R335). Time under load is taken before the
first. -/
def State.watchFrom (s : State) (p : Pending) (k : Nat) : State :=
  match (s.waysOf p)[k]? with
  | some (_, left) => s.schedule (max s.cycle (p.due - left)) rankKill .stationSave (.way k p.seq)
  | none => s

/-- Put a packet on the network, to arrive at `want` or after the packets before it (R322): later than one that a cycle's order
would let it pass. -/
def State.inject (s : State) (cls rank : Nat) (src dst : UnitId) (sp : Space) (want inj : Nat) (exempt : Bool) (ev : Ev)
    (back : Option Ev) : State :=
  let seq := s.nextSeq
  let key := s.fifoKey cls src dst
  let last := aget 0 s.fifo key
  let due := max want (last / 8 + if rank < last % 8 then 1 else 0)
  let p : Pending :=
    { due := due, rank := rank, seq := seq, packet := true, cls := cls, src := src, dst := dst, viid := sp.viid, svs := sp.svs, ev := ev,
      inj := inj, exempt := exempt, back := back }
  (({ s with nextSeq := seq + 1, fifo := aset 0 s.fifo key (8 * due + rank), agenda := p :: s.agenda } : State).countEnd src true
    (flitsOf ev)).watchFrom p 0

/-- When the latest packet of a class from one stop to another arrives. -/
def State.lastDue (s : State) (cls : Nat) (src dst : UnitId) : Nat := aget 0 s.fifo (s.fifoKey cls src dst) / 8

/-- A port answers a packet that it has stopped: `back` is what the source then hears, for a REQ in class RSP, for a PST in
ACK (R381). -/
def State.portAnswers (s : State) (p : Nat) (cls rank : Nat) (src : UnitId) (sp : Space) (e : Ev) : State :=
  let port := portUnit (p / 2) (p % 2 == 1)
  let cls := if cls = 0 then 1 else if cls = 2 then 3 else cls
  s.inject cls rank port src sp (s.cycle + s.travel port src + Config.netDelay s.nextSeq) s.cycle true e none

/-- Send a packet of a class (R317). It arrives after `leg` cycles, a time under load that the spec does not bound, and never
before an earlier packet of its source, destination and class (R322). A packet of a stopped VI waits at its stop (R335), and so
does one whose route is lost (R339; assumption log 40, DESIGN CHOICE). One that meets a die without power is lost (R446). A port
engine sends nothing to a die outside its DIES, nor does a port with PASS = 0 forward it; `back` is what the source then hears
(R381). -/
def State.sendLeg (s : State) (cls rank : Nat) (src dst : UnitId) (sp : Space) (exempt : Bool) (extra leg : Nat)
    (ev : Ev) (back : Option Ev) : State :=
  if s.routeDead src dst then s
  else if (s.viStopped (unitDie src) sp && !s.drains ev) || s.routeLost src dst then
    { s with unsent := s.unsent ++ [⟨cls, rank, src, dst, sp, exempt, leg, ev, back⟩] }
  else if unitKind src = 4 && !exempt && !(s.engine (unitIdent src)).dies.getLsbD (unitDie dst) then s.dropAtEngine (unitIdent src)
  else s.inject cls rank src dst sp (s.cycle + extra + leg + Config.netDelay s.nextSeq) (s.cycle + extra) exempt ev back

/-- Send a packet along its route (R329). -/
def State.send (s : State) (cls rank : Nat) (src dst : UnitId) (sp : Space) (exempt : Bool) (extra : Nat)
    (ev : Ev) (back : Option Ev) : State :=
  s.sendLeg cls rank src dst sp exempt extra (s.travel src dst) ev back

/-- Packets that have waited at their stops are sent, in order (R335, R339). -/
def State.resend (s : State) (mine : Unsent → Bool) : State :=
  let us := s.unsent.filter mine
  us.foldl (fun s x => s.sendLeg x.cls x.rank x.src x.dst x.space x.exempt 0 x.leg x.ev x.back)
    { s with unsent := s.unsent.filter fun x => !mine x }

/-- Packets that have waited for a route, now that a unit has been remapped (R339). -/
def State.resendFound (s : State) : State :=
  s.resend fun x => !s.routeLost x.src x.dst && !s.viStopped (unitDie x.src) x.space

/-! ## The home slice (R234) -/

/-- The slice number's hash. -/
def sliceHash (sp : Space) (va : Word) : Nat :=
  let x := fld va 52 13
  let fold8 := (x % 256) ^^^ (x / 2 ^ 8 % 256) ^^^ (x / 2 ^ 16 % 256) ^^^ (x / 2 ^ 24 % 256) ^^^ (x / 2 ^ 32 % 256)
  fold8 ^^^ (if sp.svs then 0 else sp.viid.toNat * 4)

/-- The one-die IMAP entry that boot writes (R449); Heald's entries are listed in the copies (R380). -/
def bootPsid (die n : Nat) : BitVec 8 := BitVec.ofNat 8 (die * 64 + n % 64)

/-- The home slice's identifier, by a copy of IMAP. -/
def homeBy (die : Nat) (nlog : BitVec 2) (imap : List (Nat × BitVec 8)) (sp : Space) (va : Word) : Nat :=
  let n := sliceHash sp va % (64 * 2 ^ nlog.toNat)
  (aget (if n < 64 then bootPsid die n else 0) imap n).toNat

/-- The home slice as a core sees it. -/
def State.homeOf (s : State) (u : UnitId) (sp : Space) (va : Word) : Nat :=
  let c := s.core u
  homeBy (unitDie u) c.nlog c.imap sp va

/-- The replica slice of a die for a home slice (R287). -/
def replicaOf (die home : Nat) : Nat := die * 64 + home % 64

/-- The slice that an access of a core stops at first: its home, or on another die the replica slice on its way (R287). -/
def firstStop (u home : UnitId) : UnitId :=
  if unitDie home ≠ unitDie u then sliceUnit (replicaOf (unitDie u) (unitIdent home)) else home

/-- The home slice as a slice sees it. -/
def State.homeOfSlice (s : State) (id : Nat) (sp : Space) (va : Word) : Nat :=
  let x := s.slice id
  homeBy (id / 64) x.nlog x.imap sp va

end Sys2Proof.Machine
end

