-- ==== Sys2Proof/Machine/Work.lean ====
section
/-! DEFINITION. Work in slots: ordinals and places, forwarding, starts, folds, ends and kills
(02_families; 06_family R137, R138, R152; 14_cells R268, R270, R463; 17_rotation R304 to R307). -/

namespace Sys2Proof.Machine

/-! ## Ordinals and places (R25, R26, R31, R32) -/

/-- N of R25 for a nonzero step. -/
def memberCount (start limit : BitVec 32) (step : BitVec 8) : Nat :=
  let a := start.toInt
  let b := limit.toInt
  let st := step.toInt
  if st > 0 then ((b - a + st - 1) / st).toNat
  else if st < 0 then ((a - b + (-st) - 1) / (-st)).toNat
  else 0

/-- The index value of member `i`, sign-extended (R25, R26). -/
def ixOf (start : BitVec 32) (step : BitVec 8) (i : Nat) : Word :=
  (start + step.signExtend 32 * BitVec.ofNat 32 i).signExtend 64

/-- The core of member `ord` (R31). -/
def memberCore (base count blk ord : Nat) : UnitId := base + ord / blk % count

/-- The ordinal after `ord` on the same core (R31, R32). -/
def nextOrd (count blk ord : Nat) : Nat := if (ord + 1) % blk = 0 then ord + 1 + blk * (count - 1) else ord + 1

/-- The cores of a place that receive members (R48). -/
def receiving (count blk : Nat) (n : Option Nat) : Nat :=
  match n with
  | none => count
  | some k => min count ((k + blk - 1) / blk)

/-! ## Slots -/

/-- SST of R372: 0 Free, 1 Anchored, 2 Ready, 3 Suspended, 4 Off rotation. -/
def Slot.sst (x : Slot) : Nat :=
  if x.work = .none then (if x.anchor.isSome then 1 else 0)
  else if x.holds ≠ [] then 4
  else match x.run with
    | .ready => 2
    | .wait _ => 3

/-- WAIT of R372: of the hold that came last, or of the wait. The one entry of a slot that runs a folded evaluator shows the
evaluator; while it is Ready, WAIT is 8, of its claimant, who is off rotation (R307; assumption log 42, DESIGN CHOICE). -/
def Slot.waitCode (x : Slot) : BitVec 4 :=
  match x.holds, x.run with
  | h :: _, _ => h.code
  | [], .wait w => w.code
  | [], .ready => if (x.folds.head?.map (·.eval)).getD false then 8 else 0

/-- The two words of a slot-table entry (R372). -/
def Slot.tableWords (x : Slot) : List Word :=
  let cqe := match x.work with
    | .member q => q
    | .none => x.anchor.getD 0
    | _ => 0
  let w0 := x.sst * 2 ^ 61 + x.prio.toNat * 2 ^ 59 + x.work.kind.toNat * 2 ^ 57 + x.sgen.toNat * 2 ^ 42 + cqe * 2 ^ 36 +
    (if x.anchor.isSome then 2 ^ 35 else 0) + x.waitCode.toNat * 2 ^ 31
  [BitVec.ofNat 64 w0, BitVec.ofNat 64 (x.scnt.toNat * 2 ^ 49 + x.ord.toNat)]

/-- The slot back in rotation from the next cycle (R310, R311). -/
def Slot.wake (x : Slot) (now : Nat) : Slot := { x with run := .ready, readyAt := now + 1, aging := 0 }

/-- Suspended (R307). -/
def Slot.suspend (x : Slot) (w : Wait) : Slot := { x with run := .wait w, aging := 0 }

/-- Where the work with a start count is: in the slot, swapped out by fold number `j`, or ended. -/
inductive Seat | occupant | folded (j : Nat) | gone
deriving DecidableEq, Repr

/-- The place of a piece of work in a slot (R138). -/
def Slot.seat (x : Slot) (sgen : BitVec 15) : Seat :=
  if x.work ≠ .none ∧ x.sgen = sgen then .occupant
  else match x.folds.findIdx? fun f => f.sgen == sgen && !f.dead with
    | some j => .folded j
    | none => .gone

/-- Put a device step off until fold `j` has swapped back (R268, R272). -/
def Slot.holdFor (x : Slot) (j : Nat) (e : Ev) : Slot :=
  { x with folds := x.folds.modify j fun f => { f with held := f.held ++ [e] } }

/-- Take the next start count (R138). -/
def Slot.count (x : Slot) : Slot := { x with scnt := x.scnt + 1, sgen := x.scnt + 1 }

/-- Wake every slot of a core that waits on a given cause (R307). -/
def State.wakeWhere (s : State) (u : UnitId) (p : Wait → Bool) : State :=
  s.modCore u fun c => { c with slots := c.slots.map fun q =>
    match q.2.run with
    | .wait w => if p w then (q.1, q.2.wake s.cycle) else q
    | .ready => q }

/-- The occupant returns to rotation when no hold is left: it issues again what it waited for (R307, R310). -/
def Slot.back (x : Slot) (now : Nat) : Slot :=
  if x.holds ≠ [] then x
  else { x with run := .ready, readyAt := now + 1, aging := 0 }

/-- The answer to an instruction that its issuer takes when it issues again (R139, R310). -/
def Slot.answered (x : Slot) (now : Nat) (t : Trip) : Slot :=
  match x.trip, x.run with
  | .out _, .wait _ => { x with trip := t, run := .ready, readyAt := now + 1, aging := 0 }
  | .out _, .ready => { x with trip := t }
  | _, _ => x

/-- Free a journal entry (R251, R256) and wake those that wait for one. -/
def State.releaseEntry (s : State) (u : UnitId) (e : Nat) : State :=
  (s.modCore u fun c => { c with journal := adel c.journal e }).wakeWhere u (· == .journal)

/-- The faults that a slot's holds keep. -/
def heldFaults (hs : List Hold) : List FaultInfo :=
  hs.filterMap fun h => match h with | .fault _ f | .noRecord f => some f | _ => none

/-- Refusals whose member has ended (R256, R394): STORE_REFUSAL releases their entries. -/
def State.dropRefusals (s : State) (u : UnitId) (fs : List FaultInfo) : State :=
  (fs.filter (·.code == 32)).foldl
    (fun s f =>
      let e := aget {} (s.core u).journal f.jent
      if e.st == .refused && f.tid == some e.stamp then
        s.schedule s.cycle rankReply .storeRefusal (.refusal ⟨u, f.jent, e.stamp, e.cause.toNat, false, false, 0⟩)
      else s) s

/-- Drop the asynchronous faults kept for work that is neither the occupant nor under a fold (R394). -/
def State.dropEnded (s : State) (u : UnitId) (i : Nat) (occupant : Bool) : State :=
  let x := s.slot u i
  let live := fun (p : BitVec 15 × FaultInfo) =>
    (occupant && p.1 == x.sgen) || x.folds.any fun f => f.sgen == p.1 && !f.dead
  (s.setSlot u i { x with asyncs := x.asyncs.filter live }).dropRefusals u ((x.asyncs.filter (!live ·)).map (·.2))

/-! ## Family entries and create-queue entries -/

def State.fam (s : State) (u : UnitId) (e : Nat) : FamEntry := aget {} (s.core u).fams e
def State.setFam (s : State) (u : UnitId) (e : Nat) (x : FamEntry) : State :=
  s.modCore u fun c => { c with fams := aput c.fams e x }
def State.modFam (s : State) (u : UnitId) (e : Nat) (f : FamEntry → FamEntry) : State := s.setFam u e (f (s.fam u e))

/-- The create-queue entry of a family on a core (R304). -/
def Core.cqOf (c : Core) (fam : FamRef) : Option (Nat × CqEntry) := c.cq.find? fun p => p.2.fam == fam
def Core.modCq (c : Core) (q : Nat) (f : CqEntry → CqEntry) : Core :=
  match afind c.cq q with
  | some e => { c with cq := aput c.cq q (f e) }
  | none => c

/-- N of an entry: none when unbounded (R26). -/
def FamEntry.n (e : FamEntry) : Option Nat := if e.unb then none else some (memberCount e.start e.limit e.step)

/-- The next generation: 1 to 32,767, never 0 (R371). -/
def nextGen (g : BitVec 15) : BitVec 15 := if g + 1 = 0 then 1 else g + 1

/-- A family handle (R137). -/
def famHandle (u : UnitId) (entry : Nat) (gen : BitVec 15) : Word :=
  BitVec.ofNat 64 ((if isService u then 2 ^ 40 + unitIdent u else u) + entry * 2 ^ 12 + gen.toNat * 2 ^ 17)

/-- A folded family's handle (R137). -/
def foldHandle (u : UnitId) (slot frame : Nat) : Word :=
  BitVec.ofNat 64 ((if isService u then 2 ^ 40 + unitIdent u else u) + frame / 256 * 2 ^ 17 + 2 ^ 32 + slot * 2 ^ 34)

/-- A member handle (R138). -/
def memberHandle (w : Who) (fold : Bool) : Word :=
  BitVec.ofNat 64 ((if isService w.unit then 2 ^ 40 + unitIdent w.unit else w.unit) + w.sgen.toNat * 2 ^ 17 +
    (if fold then 2 ^ 32 else 0) + 2 ^ 33 + w.slot * 2 ^ 34)

/-- The occupant's member handle. -/
def State.memberHandle (s : State) (u : UnitId) (i : Nat) : Word :=
  Machine.memberHandle (s.who u i) ((s.slot u i).work == .folded)

/-- Offer every Free or Anchored slot of a core to its candidates (R306). -/
def State.offer (s : State) (u : UnitId) : State :=
  let c := s.core u
  if c.hq.isEmpty && c.eq.isEmpty && c.bq.isEmpty && c.cq.isEmpty then s
  else
    (List.range c.nslots).foldl
      (fun s i => if (c.slot i).work = .none then s.schedule s.cycle rankAssign .slotAssignment (.slot u i) else s) s

/-- A slot of a core has become Free: its candidates are offered it, and Heald repeats the admissions that wait for
the core (R303, R306). -/
def State.slotFree (s : State) (u : UnitId) : State :=
  let s := s.offer u
  if isCompute u then s.schedule s.cycle rankAssign .launchAdmission (.vi (s.pidOf (unitDie u)) (s.core u).viid) else s

/-! ## What an end waits for (R40, R134) -/

/-- The shareds a member never wrote (R40). -/
def Slot.unwritten (x : Slot) : List Nat :=
  (List.range x.s.toNat).filter fun k => !x.isFull (1 + x.g.toNat + k) && !x.isPend (1 + x.g.toNat + k)

/-- What an end must wait for: a Pending shared, or the empty dependent of an unwritten one (R40, R134). -/
def Slot.endWait (x : Slot) : Option Nat :=
  match (List.range x.s.toNat).find? fun k => x.isPend (1 + x.g.toNat + k) with
  | some k => some (1 + x.g.toNat + k)
  | none => (x.unwritten.find? fun k => !x.isFull (1 + x.g.toNat + x.s.toNat + k)).map (1 + x.g.toNat + x.s.toNat + ·)

/-- An EXIT or FBRK that waits for its dependents issues again once they are full (R40, R307). -/
def Slot.wakePass (x : Slot) (now : Nat) : Slot :=
  if x.run == .wait .pass && x.endWait.isNone then x.wake now else x

/-! ## Forwarding (R38, R41) -/

/-- The final shareds of a family that have landed come from member `w`. -/
def FamEntry.finals (e : FamEntry) (w : Nat) : Bool :=
  (List.range e.s.toNat).all fun k => afind e.finOrd k == some w

/-- R46: the family has ended. -/
def FamEntry.over (e : FamEntry) : Bool :=
  if e.st ≠ .running then false
  else if e.killAll then e.killsOut.isEmpty
  else if e.brk ≠ 0xFFFFFFFF then e.brk.toNat < e.contig && e.finals e.brk.toNat && e.killsOut.isEmpty
  else match e.n with
    | none => false
    | some n => n ≤ e.contig && (n == 0 || e.finals (n - 1))

/-- Every member of a round of FBAR has arrived or ended (R151). -/
def FamEntry.barFull (e : FamEntry) : Bool :=
  match e.n with
  | none => false
  | some n =>
    !e.bar.isEmpty && (List.range n).all fun i =>
      e.bar.any (fun b => b.ord == i) || i < e.contig || e.above.contains i || e.brk.toNat < i

/-- Answer a handle request of a member: at its own core at once after this step, else by a reply (R139). -/
def State.answer (s : State) (owner : UnitId) (w : Who) (r : HandleRes) : State :=
  if w.unit == owner then s.schedule s.cycle rankReply .handleReply (.handle (.answer w r))
  else s.send 1 rankReply owner w.unit (s.spaceOf w.unit) false 6 ⟨.handleReply, .handle (.answer w r)⟩ none

/-- What follows a change of a running entry: its end is due, or a barrier round completes. -/
def State.checkFam (s : State) (u : UnitId) (e : Nat) : State :=
  let x := s.fam u e
  if x.over then s.schedule s.cycle rankReply .familyEnd (.entry u e)
  else if x.st == .running && x.barFull then
    x.bar.foldl (fun s b => s.answer u b.who (.ok 0)) (s.modFam u e fun x => { x with bar := [] })
  else s

/-- A final shared lands in the family entry (R41): the lowest ordinal's value stays (R43). -/
def State.recordFinal (s : State) (fam : FamRef) (ord k : Nat) (v : Word) : State :=
  let e := s.fam fam.owner fam.entry
  if e.gen ≠ fam.gen ∨ e.st ≠ .running then s
  else
    let keep := match afind e.finOrd k with
      | some o => decide (o < ord)
      | none => false
    if keep then s
    else
      (s.modFam fam.owner fam.entry fun e => { e with fins := aput e.fins k v, finOrd := aput e.finOrd k ord }).checkFam
        fam.owner fam.entry

/-- A forwarded shared arrives at the core of its receiver (R38): in the successor's window, in the create-queue
entry, or held while the successor's window lies on the bobbin. -/
def State.arriveForward (s : State) (f : Forward) : State :=
  if f.final then s.recordFinal f.fam f.ord f.k f.v
  else
    let c := s.core f.unit
    match c.cqOf f.fam with
    | none =>
      if c.cq.any fun p => p.2.fam.gen == 0 then
        s.schedule (s.cycle + 1) rankForward .forwardedSharedArrival (.forward f)
      else s
    | some (q, e) =>
      match (List.range c.nslots).find? fun i => (c.slot i).work == .member q && (c.slot i).ord.toNat == f.ord with
      | some i =>
        let x := c.slot i
        let r := 1 + x.g.toNat + x.s.toNat + f.k
        let y := x.fill r f.v
        let y := match y.run with
          | .wait (.reg r') => if r'.toNat = r then y.wake s.cycle else y
          | _ => y.wakePass s.cycle
        let s := s.setSlot f.unit i y
        if y.ending.isSome then s.schedule s.cycle rankForward .forwardedSharedArrival (.slot f.unit i) else s
      | none =>
        match (List.range c.nslots).find? fun i =>
            (c.slot i).folds.any fun fo => fo.work == .member q && fo.ord.toNat == f.ord && !fo.dead with
        | some i =>
          s.modSlot f.unit i fun x =>
            { x with folds := x.folds.map fun fo =>
                if fo.work == .member q && fo.ord.toNat == f.ord then
                  { fo with held := fo.held ++ [⟨.forwardedSharedArrival, .forward f⟩] } else fo }
        | none =>
          if e.next ≤ f.ord then s.modCore f.unit fun c => c.modCq q fun e => { e with fwd := (f.ord, f.k, f.v) :: e.fwd }
          else s

/-- Send a final shared to its family entry (R38, R42). -/
def State.toEntry (s : State) (u : UnitId) (fam : FamRef) (ord k : Nat) (v : Word) : State :=
  if fam.owner == u then s.recordFinal fam ord k v
  else s.send 2 rankForward u fam.owner (s.spaceOf u) false 0
    ⟨.forwardedSharedArrival, .forward ⟨fam.owner, fam, ord, k, v, true⟩⟩ none

/-- Forward shared `k` of the member in a slot (R38). -/
def State.forwardShared (s : State) (u : UnitId) (i : Nat) (k : Nat) (v : Word) : State :=
  let x := s.slot u i
  match x.work with
  | .member q =>
    match afind (s.core u).cq q with
    | none => s
    | some e =>
      let ord := x.ord.toNat
      if e.n == some (ord + 1) then s.toEntry u e.fam ord k v
      else
        let d := memberCore e.base e.count e.blk (ord + 1)
        let f : Forward := ⟨d, e.fam, ord + 1, k, v, false⟩
        if d == u then s.arriveForward f
        else s.send 2 rankForward u d (s.spaceOf u) false 0 ⟨.forwardedSharedArrival, .forward f⟩ none
  | _ => s

/-- A register lands Full; a shared is forwarded (R38, R104). -/
def State.landReg (s : State) (u : UnitId) (i : Nat) (r : Nat) (v : Word) : State :=
  let x := s.slot u i
  let s := s.setSlot u i (x.fill r v)
  let lo := 1 + x.g.toNat
  if lo ≤ r && r < lo + x.s.toNat then s.forwardShared u i (r - lo) v else s

/-! ## Reports to the owning core (R370) -/

/-- Count an ordinal as ended. -/
def FamEntry.addEnded (e : FamEntry) (ord : Nat) : FamEntry :=
  let above := if ord < e.contig then e.above else ord :: e.above
  let run := (List.range (above.length + 1)).foldl (fun c _ => if above.contains c then c + 1 else c) e.contig
  { e with ended := e.ended + 1, contig := run, above := above.filter (run ≤ ·) }


/-- Free a fault record (R200). -/
def Core.freeRecord (c : Core) (i : Nat) : Core := { c with recUsed := setBitN c.recUsed i false }

/-- The records a slot's holds occupy. -/
def heldRecords (hs : List Hold) : List Nat := hs.filterMap fun h => match h with | .fault r _ => some r | _ => none

/-- A record has become free: the members that wait for one try again (R200). -/
def State.offerRecord (s : State) (u : UnitId) : State :=
  let c := s.core u
  ((List.range c.nslots).filter fun i => (c.slot i).holds.any fun h => match h with | .noRecord _ => true | _ => false).foldl
    (fun s i => s.schedule s.cycle rankAssign .asyncFaultDelivery (.slot u i)) s

def State.freeRecords (s : State) (u : UnitId) (hs : List Hold) : State :=
  match heldRecords hs with
  | [] => s
  | rs => (s.modCore u fun c => rs.foldl Core.freeRecord c).offerRecord u

/-- The slot with nothing in it: Free, or Anchored while its family lasts (R307). -/
def Slot.emptied (x : Slot) : Slot :=
  { ({} : Slot) with
    scnt := x.scnt, sgen := x.sgen, bobRm := x.bobRm, bobLim := x.bobLim, ffrm := x.bobRm, fflim := x.bobLim,
    anchor := x.anchor, prio := 0 }

/-- A member gives up its place in its family's entry on its core; QCHAIN goes with a chain member (R32, R109). -/
def State.leaveEntry (s : State) (u : UnitId) (q : Nat) : State := s.modCore u fun c =>
  let c := c.modCq q fun e => { e with resident := e.resident - 1 }
  match afind c.cq q with
  | some e => if e.chain then { c with qchain := 0, chainFam := none } else c
  | none => c

/-- The member of a CSPLIT has been killed, or FRSM kill has begun to end it (R153, R186). -/
def Core.curveDead (c : Core) (k : CurveCmd) : Bool :=
  match (c.slot k.who.slot).seat k.who.sgen with
  | .gone => true
  | .occupant => (c.slot k.who.slot).ending.isSome
  | .folded _ => false

/-- The curve-list unit stops for a killed member, after the entry in progress (R186). -/
def State.stopCurve (s : State) (u : UnitId) : State :=
  match (s.core u).curve with
  | some k =>
    if k.killed.isNone && (s.core u).curveDead k then
      (s.modCore u fun c => { c with curve := some { k with killed := some s.cycle } }).schedule s.cycle rankUnit .csplitCompletion (.unit u)
    else s
  | none => s

/-- The slot of a bound family's member is its family's no longer once the member has ended (R307). -/
def State.unanchor (s : State) (u : UnitId) (i q : Nat) : State :=
  match afind (s.core u).cq q with
  | some e => if e.bound then s.modSlot u i fun x => { x with anchor := none } else s
  | none => s

/-- The work of a slot is over: the slot becomes Free or Anchored and is offered (R306, R307). -/
def State.freeSlot (s : State) (u : UnitId) (i : Nat) : State :=
  let x := s.slot u i
  let s := (s.setSlot u i x.emptied).stopCurve u
  let s := match x.work with
    | .member q => (s.leaveEntry u q).unanchor u i q
    | _ => s
  let s := (s.freeRecords u x.holds).dropRefusals u (x.asyncs.map (·.2) ++ heldFaults x.holds)
  s.slotFree u

/-- The cores a running family has members or anchors on. -/
def FamEntry.coreList (e : FamEntry) : List UnitId := (e.cores.map (·.1)).eraseDups

/-- An end notice leaves for a cell's home, behind every store of its evaluator to it (R270). -/
def State.endNotice (s : State) (w : Who) (e : EvalRun) : State :=
  s.schedule s.cycle rankReply .endNoticeAtHome (.notice ⟨e.home, e.space, e.cell, e.claim, some w, w.unit⟩)

/-! ## Folds (R51 to R55, R268, R463) -/

def Core.frameWord (c : Core) (frame w : Nat) : Word := c.poolWord (frame + 8 * w)
def Core.setFrameWord (c : Core) (frame w : Nat) (v : Word) : Core := c.setPoolWord (frame + 8 * w) v

/-- END of a frame (R52). -/
def Core.frameEnd (c : Core) (frame : Nat) : Nat := fld (c.frameWord frame 31) 55 53
def Core.setFrameEnd (c : Core) (frame v : Nat) : Core :=
  c.setFrameWord frame 31 (setFld (c.frameWord frame 31) 53 3 v)

/-- Release the frames that the ending work pushed (END 2), and lower FFRM over them (R55). -/
def Core.releaseFrames (c : Core) (i : Nat) : Core :=
  match (c.slot i).pushed with
  | [] => c
  | fs =>
    let c := fs.foldl (fun c f => c.setFrameEnd f 2) c
    let x := c.slot i
    let low := fs.foldl min (fs.headD 0)
    c.setSlot i { x with ffrm := BitVec.ofNat 20 low, pushed := [], frameInfo := x.frameInfo.filter (·.frame < low) }

/-- A frame of a family that the slot's bobbin still holds, pushed by the running work or by work under a fold. -/
def Slot.owns (x : Slot) (frame : Nat) : Bool := x.pushed.contains frame || x.folds.any fun f => f.pushed.contains frame

/-- FFRM falls back over every released frame at the top of the bobbin, whoever pushed it (R55). -/
def Core.lowerFrames (c : Core) (i : Nat) : Nat → Core
  | 0 => c
  | n + 1 =>
    let x := c.slot i
    let top := x.ffrm.toNat - 256
    if x.owns top && c.frameEnd top = 2 then
      (c.setSlot i { x with
        ffrm := BitVec.ofNat 20 top, pushed := x.pushed.erase top, frameInfo := x.frameInfo.filter (·.frame ≠ top)
        folds := x.folds.map fun f => { f with pushed := f.pushed.erase top } }).lowerFrames i n
    else c

/-- FULL of R105 as a field. -/
def Slot.fullField (x : Slot) : Nat := (x.full.extractLsb' 1 27).toNat
def fullOfField (n : Nat) : BitVec 32 := (BitVec.ofNat 27 n ++ 0#1).setWidth 32

/-- Swap the window and its full bits with a frame (R53). -/
def Core.swapWindow (c : Core) (i frame : Nat) : Core :=
  let x := c.slot i
  let w27 := c.frameWord frame 27
  let regs := (List.range 27).foldl (fun m k => aset 0 m (k + 1) (c.frameWord frame k)) []
  let c := (List.range 27).foldl (fun c k => c.setFrameWord frame k (x.reg (k + 1))) c
  let c := c.setFrameWord frame 27 (setFld w27 0 27 x.fullField)
  c.setSlot i { x with regs := regs, full := fullOfField (fld w27 26 0), pend := 0 }

/-- Start folded member `i` of the frame at the top of the slot's folds (R53): shareds and locals empty, the
globals and dependents as they stand, the creator's rounding mode with no flags (R24). The emptied registers hold 0, as at
every member's start (R104). ln starts at 0, and the swap back does not restore the creator's, of which R53 says nothing (R102;
assumption log 36, DESIGN CHOICE). -/
def State.startFolded (s : State) (u : UnitId) (i : Nat) (frame ord : Nat) : State :=
  let c := s.core u
  let w31 := c.frameWord frame 31
  let w30 := c.frameWord frame 30
  let g := fld w31 43 41
  let sh := fld w31 46 44
  let l := fld w31 51 47
  let c := c.setFrameWord frame 30 (setFld w30 32 32 ord)
  let x := (c.slot i).count
  let keep : BitVec 32 := (List.range 28).foldl
    (fun m r => setBitN m r (1 ≤ r && (r ≤ g || (1 + g + sh ≤ r && r < 1 + g + 2 * sh)))) 0
  let mode := fld (c.frameWord frame 27) 36 35
  let x := { x with
    regs := x.regs.filter fun p => keep.getLsbD p.1
    full := x.full &&& keep, pend := 0, pred := 0, frm := BitVec.ofNat 7 mode, ln := 0, lnPend := false,
    ix := ixOf (BitVec.ofNat 32 (fld w30 31 0)) (BitVec.ofNat 8 (fld w31 40 33)) ord,
    ord := BitVec.ofNat 32 ord, g := BitVec.ofNat 3 g, s := BitVec.ofNat 3 sh, l := BitVec.ofNat 5 l,
    work := .folded, pc := c.frameWord frame 29, run := .ready, readyAt := s.cycle + 1, aging := 0, holds := [],
    asyncs := x.asyncs, pushed := [], created := [], fence := none, eos := false, jtab := none, ending := none, told := false,
    trip := .none, branchPc := none, target := true, fetching := none }
  s.setCore u (c.setSlot i x)

/-- Put back what a fold's frame does not hold, with the SGEN that the frame held, and its held device steps into the
agenda (R53, R268, R272). The work is Ready unless a hold keeps it (R307). -/
def State.unfold (s : State) (u : UnitId) (i : Nat) (f : Fold) (sgen : BitVec 15) : State :=
  let x := s.slot u i
  let c := s.core u
  let outs := c.outRegs i sgen
  let p : BitVec 32 := outs.foldl (fun m r => if r ≠ 0 && r < 28 && !x.full.getLsbD r then setBitN m r true else m) 0
  let x := { x with
    work := f.work, sgen := sgen, ix := f.ix, g := f.g, s := f.s, l := f.l, ord := f.ord, prio := f.prio,
    run := .ready, holds := f.holds, pushed := f.pushed, created := f.created, eos := f.eos, defPlace := f.defPlace,
    folds := x.folds.drop 1, pend := p, lnPend := outs.contains 31, readyAt := s.cycle + 1, aging := 0, fence := f.fence,
    jtab := f.jtab, jpop := f.jpop, ending := f.ending, told := f.told, trip := f.trip, branchPc := f.branchPc, target := f.target,
    replyDest := f.replyDest, fetching := f.fetching }
  let s := s.setSlot u i x
  let s := f.held.foldl (fun s e => s.schedule s.cycle rankLanding e.ins e.arg) s
  let s := if f.ending.isSome then s.schedule s.cycle rankForward .forwardedSharedArrival (.slot u i) else s
  s.stopCurve u

/-- The family fold at the top of a slot is over (R53, R54): swap back, END 4 + status, PC at RET. A frame that FREL has
released meanwhile stays released (R147; assumption log 41, DEDUCED). -/
def State.swapBack (s : State) (u : UnitId) (i : Nat) (brk : Bool) : State :=
  let x := s.slot u i
  match x.folds with
  | [] => s
  | f :: _ =>
    let c := (s.core u).releaseFrames i
    let w27 := c.frameWord f.frame 27
    let status := if f.killed then 2 else if f.flt.isSome then 3 else if brk then 1 else 0
    let c := c.swapWindow i f.frame
    let c := if c.frameEnd f.frame = 2 then c else c.setFrameEnd f.frame (4 + status)
    let y := c.slot i
    let y := { y with
      pred := BitVec.ofNat 8 (fld w27 34 27), frm := BitVec.ofNat 7 (fld w27 41 35), pc := c.frameWord f.frame 28,
      frameInfo := y.frameInfo.map fun fi => if fi.frame == f.frame then { fi with flt := f.flt } else fi }
    ((s.setCore u (c.setSlot i y)).unfold u i f (BitVec.ofNat 15 (fld w27 56 42))).dropEnded u i true

/-- The evaluator fold at the top of a slot is over (R268, R463): the claimant's state comes back, or the slot is
freed when the claimant has been killed (R44). -/
def State.swapBackEval (s : State) (u : UnitId) (i : Nat) : State :=
  let x := s.slot u i
  match x.folds with
  | [] => s
  | f :: _ =>
    let c := (s.core u).releaseFrames i
    if f.dead then (s.setCore u c).freeSlot u i
    else
      let w27 := c.frameWord f.frame 27
      let w28 := c.frameWord f.frame 28
      let w31 := c.frameWord f.frame 31
      let ln := c.frameWord f.frame 29
      let rkey := c.frameWord f.frame 30
      let c := c.swapWindow i f.frame
      let y := c.slot i
      let y := { y with
        pred := BitVec.ofNat 8 (fld w27 34 27), frm := BitVec.ofNat 7 (fld w27 41 35),
        pc := BitVec.ofNat 64 (fld w28 52 1 * 2), ln := ln, rkey := rkey,
        evc := BitVec.ofNat 64 (fld w31 52 3 * 8),
        evage := BitVec.ofNat 32 (fld w28 63 53 + fld w31 63 53 * 2 ^ 11 + fld w31 2 0 * 2 ^ 22 + fld w27 63 57 * 2 ^ 25),
        evRaised := w28.getLsbD 0, ffrm := BitVec.ofNat 20 f.frame }
      ((s.setCore u (c.setSlot i y)).unfold u i f (BitVec.ofNat 15 (fld w27 56 42))).dropEnded u i true

/-- Pass-through inside a fold (R53): each dependent takes the shared that was written. -/
def Slot.foldPass (x : Slot) : Slot :=
  (List.range x.s.toNat).foldl
    (fun x k =>
      let sr := 1 + x.g.toNat + k
      if x.isFull sr then x.fill (sr + x.s.toNat) (x.reg sr) else x) x

/-- The next folded member, or the end of the loop (R53). -/
def State.foldNext (s : State) (u : UnitId) (i : Nat) (brk : Bool) : State :=
  let s := s.modSlot u i Slot.foldPass
  let x := s.slot u i
  match x.folds with
  | [] => s
  | f :: _ =>
    let c := (s.core u).releaseFrames i
    let s := s.setCore u c
    let w31 := c.frameWord f.frame 31
    let next := x.ord.toNat + 1
    if brk || (!w31.getLsbD 52 && fld w31 31 0 ≤ next) then s.swapBack u i brk
    else (s.startFolded u i f.frame next).dropEnded u i true

/-! ## Withdrawal of what a creator leaves (R44, R134) -/

/-- The name of a family still being decided (R48). -/
def pendingFam (sender : UnitId) (id : Nat) : FamRef := ⟨sender, id, 0⟩

/-- The create-queue entry of a family, decided or not. -/
def Core.cqFor (c : Core) (fam : FamRef) (sender : UnitId) (id : Nat) : Option (Nat × CqEntry) :=
  c.cq.find? fun p => p.2.fam == fam || p.2.fam == pendingFam sender id

/-- Drop a create-queue entry and give its anchors back (R304, R307); a chain family's words go with it (R353). -/
def State.dropCq (s : State) (u : UnitId) (q : Nat) : State :=
  let chain := match afind (s.core u).cq q with
    | some e => e.chain
    | none => false
  let s := s.modCore u fun c =>
    let c := if chain then { c with qi := [], early := [], qo := [], qoOut := 0, downLink := none } else c
    { c with
      cq := adel c.cq q
      slots := c.slots.map fun p => if p.2.anchor == some q then (p.1, { p.2 with anchor := none }) else p }
  s.slotFree u

/-- A core gives back a family's anchors and its create-queue entry. -/
def State.releaseAt (s : State) (u : UnitId) (fam : FamRef) (sender : UnitId) (id : Nat) : State :=
  match (s.core u).cqFor fam sender id with
  | some (q, _) => s.dropCq u q
  | none => s

/-- Give back a family's anchors on every core of its place. -/
def State.releaseAnchors (s : State) (u : UnitId) (fam : FamRef) (cores : List UnitId) : State :=
  let (sender, id) := (s.fam u fam.entry).resv
  cores.foldl (fun s d =>
    if d == u then s.releaseAt u fam sender id
    else s.send 6 rankReply u d (s.spaceOf u) false 0 ⟨.reservationReply, .reserve (.release d id sender fam)⟩ none) s

/-- Take a bound request out of every queue of its place (R149, R305). What it headed goes on: the next request may be
granted, and the members it passed over may start (R59, R62, R306). -/
def State.unqueueBound (s : State) (fam : FamRef) (base count : Nat) : State :=
  let s := (List.range count).foldl (fun s k =>
    s.modCore (base + k) fun c => { c with bq := c.bq.filter fun b => b.fam ≠ fam }) s
  (List.range count).foldl (fun s k =>
    let s := match (s.core (base + k)).bq with
      | b :: _ => s.schedule s.cycle rankAssign .boundGrant (.bound b)
      | [] => s
    s.offer (base + k)) s

/-- A family-table entry has become free: the bound FALLOCs that wait for one try again (R58, R307). -/
def State.entryFreed (s : State) : State :=
  s.cores.foldl (fun s p => if p.2.slots.any (fun x => x.2.run == .wait .boundEntry) then s.wakeWhere p.1 (· == .boundEntry) else s) s

/-- Free an entry with its generation advanced (R371). -/
def State.freeEntry (s : State) (u : UnitId) (e : Nat) : State :=
  (s.modFam u e fun x => { ({} : FamEntry) with gen := nextGen x.gen }).entryFreed

/-- Withdraw a Staged or Queued entry (R47, R134). -/
def State.withdraw (s : State) (u : UnitId) (e : Nat) : State :=
  let x := s.fam u e
  let fam : FamRef := ⟨u, e, x.gen⟩
  let s := s.unqueueBound fam x.base (if x.cls == 1 then x.count else 0)
  (s.releaseAnchors u fam x.coreList).freeEntry u e

/-- The creator of an entry has ended (R134, R147). -/
def State.orphan (s : State) (u : UnitId) (e : Nat) : State :=
  match (s.fam u e).st with
  | .queued | .staged => s.withdraw u e
  | .running => s.modFam u e fun x => { x with orphan := true }
  | .ended => s.freeEntry u e
  | .free => s

/-- Leave the families a piece of work created (R44, R134). -/
def State.leaveFamilies (s : State) (u : UnitId) (w : Who) (hs : List Word) : State :=
  hs.foldl (fun s h =>
    let owner := if h.getLsbD 40 then svcUnit (fld h 4 0) else fld h 11 0
    if owner == u then
      let e := fld h 16 12
      if (s.fam u e).gen.toNat = fld h 31 17 then s.orphan u e else s
    else s.send 0 rankReply u owner (s.spaceOf u) false 0 ⟨.handleReply, .handle (.serve owner w .orphan h)⟩ none) s

/-! ## Kills (R44) -/

/-- Discard the work of a slot that has no fold above it, without pass-through. -/
def State.discard (s : State) (u : UnitId) (i : Nat) : State :=
  let x := s.slot u i
  let s := s.leaveFamilies u (s.who u i) x.created
  s.freeSlot u i

/-- The number of folds above the lowest evaluator fold of a slot; none when no evaluator is folded there. -/
def lowestEval (fs : List Fold) : Option Nat := (fs.reverse.findIdx? (·.eval)).map (fs.length - 1 - ·)

/-- What was kept for swapped-out work that has been killed: each finds the work gone (R44, R50). -/
def State.flushHeld (s : State) (fs : List Fold) : State :=
  (fs.flatMap (·.held)).foldl (fun s e => s.schedule s.cycle rankLanding e.ins e.arg) s

/-- Kill the member of a family in a slot, in the slot or under folds (R44). Family folds above it end with it, and so
does the work under them. The lowest evaluator folded above it runs on with all that lies above it, and the slot is freed
when that evaluator ends. -/
def State.killMember (s : State) (u : UnitId) (i : Nat) : State :=
  let x := s.slot u i
  let leave := fun (s : State) (fs : List Fold) => fs.foldl (fun s f => s.leaveFamilies u ⟨u, i, f.sgen⟩ f.created) s
  match lowestEval x.folds with
  | none =>
    match x.folds.getLast? with
    | none => s.discard u i
    | some bottom =>
      let s := leave (s.leaveFamilies u (s.who u i) x.created) x.folds
      let s := s.modSlot u i fun x => { x with work := bottom.work, holds := x.holds ++ x.folds.flatMap (·.holds) }
      (s.freeSlot u i).flushHeld x.folds
  | some j =>
    let gone := x.folds.drop j
    let s := leave s gone
    let s := match gone.getLast?.map (·.work) with
      | some (.member q) => (s.leaveEntry u q).unanchor u i q
      | _ => s
    let hs := gone.flatMap (·.holds)
    let s := (s.freeRecords u hs).dropRefusals u (heldFaults hs)
    let s := (s.modSlot u i fun x => { x with
      folds := (x.folds.take (j + 1)).modify j fun f => { f with dead := true, holds := [], created := [], held := [] } }).dropEnded u i true
    (s.stopCurve u).flushHeld gone

/-- Which slots of a core hold members of a create-queue entry, with their ordinals. -/
def Core.membersOf (c : Core) (q : Nat) : List (Nat × Nat) :=
  (List.range c.nslots).filterMap fun i =>
    let x := c.slot i
    if x.work == .member q then some (i, x.ord.toNat)
    else match x.folds.find? fun f => f.work == .member q && !f.dead with
      | some f => some (i, f.ord.toNat)
      | none => none

/-- A kill at one core (R148): members of ordinal at least `from_`, started or not. A member whose slot runs a
folded evaluator gives up its place in the family at once. -/
def State.killLocal (s : State) (k : KillMsg) : State :=
  let c := s.core k.unit
  match c.cqOf k.fam with
  | none => s
  | some (q, _) =>
    let s := s.modCore k.unit fun c => c.modCq q fun e =>
      { e with stop := some (match e.stop with | some x => min x k.from_ | none => k.from_) }
    ((c.membersOf q).filter fun m => k.from_ ≤ m.2).foldl (fun s m => s.killMember k.unit m.1) s

/-- Send kills to every core of a family, its own core's at once (R148). -/
def State.sendKills (s : State) (u : UnitId) (e : Nat) (from_ : Nat) : State :=
  let x := s.fam u e
  let fam : FamRef := ⟨u, e, x.gen⟩
  let far := x.coreList.filter (· ≠ u)
  let s := s.modFam u e fun x => { x with killsOut := x.killsOut ++ far }
  let s := far.foldl (fun s d =>
    s.send 6 rankKill u d (s.spaceOf u) false 0 ⟨.killArrival, .kill ⟨d, fam, from_⟩⟩ none) s
  if x.coreList.contains u then s.killLocal ⟨u, fam, from_⟩ else s

/-- A report at the owning core (R370). -/
def State.applyReport (s : State) (r : FamReport) : State :=
  let u := r.fam.owner
  let e := r.fam.entry
  let x := s.fam u e
  if x.gen ≠ r.fam.gen ∨ x.st ≠ .running then s
  else
    let s := match r.ev with
      | .ended ord => s.modFam u e fun x => x.addEnded ord
      | .killed _ => s
      | .killDone d => s.modFam u e fun x => { x with killsOut := x.killsOut.erase d }
      | .broke ord ix =>
        if ord < x.brk.toNat then
          (s.modFam u e fun x => { x with brk := BitVec.ofNat 32 ord, brkIx := ix, eosEnd := false }).sendKills u e (ord + 1)
        else s
      | .eos ord =>
        let s := s.modFam u e fun x => x.addEnded ord
        if ord < x.brk.toNat then
          (s.modFam u e fun x => { x with brk := BitVec.ofNat 32 ord, eosEnd := true }).sendKills u e (ord + 1)
        else s
      | .faulted ord ix kill =>
        let s := s.modFam u e fun x =>
          if ord < x.flt.toNat then { x with flt := BitVec.ofNat 32 ord, fltIx := ix } else x
        if kill then (s.modFam u e fun x => { x with killAll := true }).sendKills u e 0 else s
    s.checkFam u e

/-- The reports of one cycle are taken a break first, a fault last, and kills between (R370). -/
def reportRank : FamEvent → Nat
  | .broke _ _ | .eos _ => rankBreak
  | .faulted _ _ _ => rankFault
  | _ => rankReply

/-- Report to the owning core: at once when it is this core (R370). -/
def State.report (s : State) (u : UnitId) (fam : FamRef) (ev : FamEvent) : State :=
  if fam.owner == u then s.applyReport ⟨fam, u, ev⟩
  else s.send 2 (reportRank ev) u fam.owner (s.spaceOf u) false 0 ⟨.breakKillFaultReport, .report ⟨fam, u, ev⟩⟩ none

/-! ## Ends (R40, R42, R134, R153, R270) -/

/-- How a piece of work ends: EXIT, FBRK, or FRSM kill. -/
inductive EndKind | exit | brk | frsm
deriving DecidableEq, Repr

/-- End a member, an evaluator or a folded member whose waits are over. -/
def State.endOther (s : State) (u : UnitId) (i : Nat) (how : EndKind) : State :=
  let x := s.slot u i
  let s := s.modCore u fun c => c.releaseFrames i
  let s := s.leaveFamilies u (s.who u i) x.created
  match x.work with
  | .member q =>
    match afind (s.core u).cq q with
    | none => s.freeSlot u i
    | some e =>
      let dep := fun k => x.reg (1 + x.g.toNat + x.s.toNat + k)
      let ord := x.ord.toNat
      let s := x.unwritten.foldl (fun s k => s.forwardShared u i k (dep k)) s
      let val := fun k => if x.unwritten.contains k then dep k else x.reg (1 + x.g.toNat + k)
      let eos := how == .exit && x.eos && e.chain && e.n.isNone
      let s := if how == .brk || eos then
          (List.range x.s.toNat).foldl (fun s k => s.toEntry u e.fam ord k (val k)) s
        else s
      let s := s.freeSlot u i
      match how with
      | .exit => s.report u e.fam (if eos then .eos ord else .ended ord)
      | .brk => s.report u e.fam (.ended ord)
      | .frsm => (s.report u e.fam (.faulted ord (x.ix.setWidth 32) false)).report u e.fam (.ended ord)
  | .evaluator e =>
    let s := s.endNotice (s.who u i) e
    match x.folds with
    | f :: _ => if f.eval then s.swapBackEval u i else s.freeSlot u i
    | [] => s.freeSlot u i
  | .folded =>
    let s := if how == .frsm then
        s.modSlot u i fun x => { x with
          holds := [], ending := none, told := false
          folds := x.folds.modify 0 fun f => { f with flt := some (f.flt.getD (x.ix.setWidth 32)) } }
      else s
    s.foldNext u i (how == .brk)
  | _ => s.freeSlot u i

/-- The journal entry of a refusal that FRSM or a kill is done with is released, unless JREPLAY has posted it again
(R254, R256). -/
def State.releaseRefused (s : State) (u : UnitId) (f : FaultInfo) : State :=
  match afind (s.core u).journal f.jent with
  | some j => if f.code = 32 && j.st == .refused && f.tid == some j.stamp then s.releaseEntry u f.jent else s
  | none => s

/-- The failed accesses of a piece of work are given up: what they were to write will never land (R153, R244). -/
def State.dropFailed (s : State) (u : UnitId) (w : Who) : State :=
  let outs := (s.core u).out.filter fun o => o.who == w && o.failed
  let s := s.modCore u fun c => { c with out := c.out.filter fun o => !(o.who == w && o.failed) }
  s.modSlot u w.slot fun x => outs.foldl (fun x o =>
    let rs := o.dest.toNat :: (o.dest2.map (·.toNat)).toList
    { x with pend := rs.foldl (fun p r => setBitN p r false) x.pend, lnPend := x.lnPend && !rs.contains 31 }) x

/-- Kill a held member as FRSM kill does (R153): with pass-through, waiting off rotation where it must. A shared whose load has
failed was never written. -/
def State.frsmKill (s : State) (u : UnitId) (i : Nat) : State :=
  let x := s.slot u i
  let s := (heldFaults x.holds).foldl (fun s f => s.releaseRefused u f) (s.freeRecords u x.holds)
  let s := s.dropFailed u (s.who u i)
  let s := s.modSlot u i fun x => { x with
    holds := .killed :: x.holds.filter (fun h => match h with | .fault _ _ => false | _ => true)
    ending := some 2, trip := .none, fence := none, jtab := none }
  let s := s.stopCurve u
  match (s.slot u i).endWait with
  | some _ => s
  | none => s.endOther u i .frsm

/-- A break of a family's member in a slot is told to the owning core, once, as it issues and before its end (R42, R148, R188). -/
def State.tellBreak (s : State) (u : UnitId) (i : Nat) : State :=
  let x := s.slot u i
  match if x.told then .none else x.work with
  | .member q =>
    match afind (s.core u).cq q with
    | some e => (s.modSlot u i fun x => { x with told := true }).report u e.fam (.broke x.ord.toNat (x.ix.setWidth 32))
    | none => s
  | _ => s

/-- An end that FRSM kill began goes on when its dependent or shared has landed (R153). -/
def State.resumeEnding (s : State) (u : UnitId) (i : Nat) : State :=
  let x := s.slot u i
  if x.ending.isSome && x.endWait.isNone && x.holds == [.killed] then s.endOther u i .frsm else s

/-- The holds keep the fault of this delivery. -/
def heldFor (hs : List Hold) (stamp : Nat) : Bool :=
  hs.any fun h => match h with | .fault _ f => f.stamp == stamp | _ => false

/-- An FRSM for the swapped-out work waits for the swap back (R153, R268). -/
def Fold.resumed (f : Fold) : Bool :=
  f.held.any fun e => match e.arg with | .handle (.serve _ _ (.frsm _) _) => true | _ => false

/-- A handler member is over: the member still held for the fault that it handled is killed as by FRSM kill (R152), at
the swap back when it lies under a fold (R268). -/
def State.handlerOver (s : State) (w : Who) (stamp : Nat) : State :=
  let u := w.unit
  let x := s.slot u w.slot
  match x.seat w.sgen with
  | .gone => s
  | .occupant => if heldFor x.holds stamp then s.frsmKill u w.slot else s
  | .folded j =>
    match x.folds[j]? with
    | some f =>
      if heldFor f.holds stamp && !f.resumed then
        s.modSlot u w.slot fun x => x.holdFor j ⟨.handleReply, .handle (.serve u ⟨u, 64, 0⟩ (.frsm 2) (Machine.memberHandle w false))⟩
      else s
    | none => s

/-- End the work of a slot (R134, R42). A handler member that has not resumed its member kills it (R152). -/
def State.endWork (s : State) (u : UnitId) (i : Nat) (how : EndKind) : State :=
  match (s.slot u i).work with
  | .handler w _ stamp =>
    let s := s.modCore u fun c => c.releaseFrames i
    let s := s.leaveFamilies u (s.who u i) (s.slot u i).created
    (s.freeSlot u i).handlerOver w stamp
  | _ => s.endOther u i how

/-! ## Starts (R24, R32, R36, R152, R269) -/

/-- A slot with new work in it (R24, R138). -/
def Slot.begin (x : Slot) (now : Nat) (w : Work) (pc : Word) (mode : BitVec 2) (rkey : Word) (prio : BitVec 2) (ix : Word)
    (ord : Nat) (g s : BitVec 3) (l : BitVec 5) : Slot :=
  { x.emptied.count with
    work := w, pc := pc, frm := mode.setWidth 7, rkey := rkey, prio := prio, ix := ix, ord := BitVec.ofNat 32 ord,
    g := g, s := s, l := l, readyAt := now + 1 }

/-- QCHAIN of a chain family's member (R109). -/
def chainWord (e : CqEntry) (ord : Nat) : Word :=
  let down := e.n ≠ some (ord + 1)
  BitVec.ofNat 64
    ((if ord = 0 then 0 else 2 ^ 15 + memberCore e.base e.count e.blk (ord - 1)) +
     (if down then 2 ^ 31 + memberCore e.base e.count e.blk (ord + 1) * 2 ^ 16 else 0))

/-- The family may start its next member on this core (R32). -/
def CqEntry.ready (e : CqEntry) : Bool :=
  e.started && e.resident < e.blk && (match e.n with | some n => e.next < n | none => true) &&
    (match e.stop with | some k => e.next < k | none => true)

/-- Start the next member of a create-queue entry in a slot (R32, R36). -/
def State.startMember (s : State) (u : UnitId) (i q : Nat) : State :=
  match afind (s.core u).cq q with
  | none => s
  | some e =>
    let ord := e.next
    let x := (s.slot u i).begin s.cycle (.member q) e.body e.mode e.rkey e.prio (ixOf e.start e.step ord) ord e.g e.s e.l
    let x := { x with defPlace := e.defPlace }
    let x := (List.range e.g.toNat).foldl (fun x k => x.fill (1 + k) (aget 0 e.glob k)) x
    let dep := 1 + e.g.toNat + e.s.toNat
    let x := if ord = 0 then (List.range e.s.toNat).foldl (fun x k => x.fill (dep + k) (aget 0 e.inis k)) x
      else (e.fwd.filter fun f => f.1 == ord).foldl (fun x f => x.fill (dep + f.2.1) f.2.2) x
    let s := s.modCore u fun c => c.modCq q fun e =>
      { e with next := nextOrd e.count e.blk ord, resident := e.resident + 1, fwd := e.fwd.filter fun f => f.1 ≠ ord }
    let s := s.setSlot u i x
    if e.chain then s.modCore u fun c =>
        let w := chainWord e ord
        { c with qchain := w, chainFam := some e.fam,
                 downLink := if w.getLsbD 31 then some (fld w 27 16, e.fam) else c.downLink }
    else s

/-- Start a handler member (R152). -/
def State.startHandler (s : State) (u : UnitId) (i : Nat) (h : HandlerReq) : State :=
  let x := (s.slot u i).begin s.cycle (.handler h.held h.recNo h.stamp) h.body h.h.mode h.h.rkey h.prio 0 0 2 0 25
  let x := { x with defPlace := h.defPlace }
  let x := (x.fill 1 (Machine.memberHandle h.held h.fold)).fill 2 (recordAddr u h.recNo)
  s.setSlot u i x

/-- The slot state of a new evaluator (R269). -/
def evalSlot (x : Slot) (now : Nat) (e : EvalReq) : Slot :=
  let x := x.begin now (.evaluator ⟨e.space, e.cell, e.claim, e.home, e.h, e.defPlace⟩) e.body 0 0 e.prio 0 0 6 0 21
  let x := { x with evc := e.cell, defPlace := e.defPlace }
  (List.range 5).foldl (fun x k => x.fill (2 + k) (e.args.getD k 0)) (x.fill 1 e.cell)

/-- The report of a started evaluator to its cell's home (R269). -/
def State.evalReport (s : State) (u : UnitId) (i : Nat) (e : EvalReq) : State :=
  let at_ := firstStop u e.home
  s.send 2 rankUnit u at_ e.space false 0
    ⟨.evaluatorReport, .notice ⟨e.home, e.space, e.cell, e.claim, some (s.who u i), at_⟩⟩ none

/-- Start an evaluator in a Free slot (R268, R269). -/
def State.startEval (s : State) (u : UnitId) (i : Nat) (e : EvalReq) : State :=
  (s.setSlot u i (evalSlot (s.slot u i) s.cycle e)).evalReport u i e

/-- Fold an evaluator into its claimant's slot (R268 step 3, R463). -/
def State.foldEval (s : State) (u : UnitId) (i : Nat) (e : EvalReq) : State :=
  let c := s.core u
  let x := c.slot i
  let frame := x.ffrm.toNat
  let f : Fold :=
    { frame := frame, eval := true, work := x.work, sgen := x.sgen, ix := x.ix, g := x.g, s := x.s, l := x.l, ord := x.ord,
      prio := x.prio, run := x.run, holds := x.holds, pushed := x.pushed, created := x.created, handler := none, mode := 0,
      rkey := 0, defPlace := x.defPlace, flt := none, killed := false, dead := false, held := [], eos := x.eos, target := x.target,
      branchPc := x.branchPc, replyDest := x.replyDest, trip := x.trip, fence := x.fence, ending := x.ending, told := x.told,
      fetching := x.fetching, jtab := x.jtab, jpop := x.jpop }
  let age := x.evage.toNat
  let c := (List.range 27).foldl (fun c k => c.setFrameWord frame k (x.reg (k + 1))) c
  let c := c.setFrameWord frame 27 (BitVec.ofNat 64
    (x.fullField + x.pred.toNat * 2 ^ 27 + x.frm.toNat * 2 ^ 35 + x.sgen.toNat * 2 ^ 42 + age / 2 ^ 25 % 128 * 2 ^ 57))
  let c := c.setFrameWord frame 28 (BitVec.ofNat 64
    (fld x.pc 52 1 * 2 + (if x.evRaised then 1 else 0) + age % 2 ^ 11 * 2 ^ 53))
  let c := c.setFrameWord frame 29 x.ln
  let c := c.setFrameWord frame 30 x.rkey
  let c := c.setFrameWord frame 31 (BitVec.ofNat 64
    (age / 2 ^ 22 % 8 + fld x.evc 52 3 * 8 + age / 2 ^ 11 % 2 ^ 11 * 2 ^ 53))
  let y := { evalSlot x s.cycle e with
    folds := f :: x.folds, ffrm := BitVec.ofNat 20 (frame + 256), fflim := x.fflim, anchor := x.anchor,
    frameInfo := x.frameInfo, asyncs := x.asyncs, prio := e.prio }
  let c := { c with perf := bumpPerf c.perf 0x10 1 }
  ((s.setCore u c).setSlot u i y).evalReport u i e

/-- A family's anchor slot on a core stands empty: its next member starts there, and in no other slot (R49). -/
def Core.anchorEmpty (c : Core) (q : Nat) : Bool :=
  (List.range c.nslots).any fun i => (c.slot i).anchor = some q && (c.slot i).work = .none

/-- Give a slot that holds no work to its first candidate (R306). While a bound request heads the queue, members of
free families start only in their own anchor slots (R59). A member in an anchor slot lets others of its family start beside it
(R49). -/
def State.assign (s : State) (u : UnitId) (i : Nat) : State :=
  let c := s.core u
  let x := c.slot i
  if x.work ≠ .none ∨ c.halted ∨ c.retired ∨ c.nslots ≤ i then s
  else match x.anchor with
  | some q =>
    match afind c.cq q with
    | some e => if e.ready then (s.startMember u i q).offer u else s
    | none => s
  | none =>
    match c.hq with
    | h :: hs => (s.setCore u { c with hq := hs }).startHandler u i h
    | [] =>
      match c.eq with
      | e :: es => (s.setCore u { c with eq := es }).startEval u i e
      | [] =>
        match c.bq with
        | b :: _ => s.schedule s.cycle rankAssign .boundGrant (.bound b)
        | [] =>
          let cands := c.cq.filter fun p => p.2.ready && !p.2.bound && !c.anchorEmpty p.1
          match cands with
          | [] => s
          | p :: ps =>
            let best := ps.foldl (fun b p =>
              if b.2.prio.toNat < p.2.prio.toNat || (b.2.prio == p.2.prio && p.2.seq < b.2.seq) then p else b) p
            s.startMember u i best.1

end Sys2Proof.Machine
end

