-- ==== Sys2Proof/Machine/Operands.lean ====
section
/-! DEFINITION. Operand forms: the register fields of R74, what reading, waiting and writing them does
(02_families R34 to R37; 03_lines R74 to R76, R83; 04_register R103; 05_integer R125; 19_engine R352, R353). -/

namespace Sys2Proof.Machine

/-- Why an issue ends without its effect: it waits (R307), or it is an exact fault (R392). -/
inductive Stop | wait (w : Wait) | fault (f : FaultInfo)
deriving DecidableEq, Repr

/-- What an issue yields. -/
abbrev Iss (α : Type) := Except Stop α

/-- ILLEGAL with a sub-code (R82). -/
def ill (sub : Nat) : Stop := .fault { code := 1, sub := sub }
def illWin : Stop := ill 5
def illSpr : Stop := ill 6
/-- ALIGN, BOUNDS and PRIV (R392). -/
def alignFault (a : Word) : Stop := .fault { code := 10, addr := a }
def boundsFault (a : Word) : Stop := .fault { code := 11, addr := a }
def privFault : Stop := .fault { code := 12 }
/-- XARG with its cause (R343). -/
def xargFault (cause : Nat) : Stop := .fault { code := 22, sub := cause }
/-- BADFAMILY with its cause (R140). -/
def badFamily (cause : Nat) : Stop := .fault { code := 8, sub := cause }

/-- Stop unless a condition holds. -/
def need (b : Bool) (e : Stop) : Iss Unit := if b then .ok () else .error e

/-! ## The window (R34, R35) -/

/-- What a window number names. -/
inductive Role | glob | shared | dep | loc | undeclared
deriving DecidableEq, Repr

/-- The numbering of R34. -/
def Slot.role (x : Slot) (r : Nat) : Role :=
  let g := x.g.toNat
  let sh := x.s.toNat
  if r < 1 + g then .glob
  else if r < 1 + g + sh then .shared
  else if r < 1 + g + 2 * sh then .dep
  else if r < 1 + g + 2 * sh + x.l.toNat then .loc
  else .undeclared

/-- A field value that names a window register (R74). -/
def isWindow (r : Reg) : Bool := r ≠ 0 && r.toNat < 28

/-- WIN for a source (R35). -/
def Slot.badSrc (x : Slot) (r : Reg) : Bool := isWindow r && x.role r.toNat == .undeclared

/-- WIN for a destination (R35). -/
def Slot.badDst (x : Slot) (r : Reg) : Bool :=
  isWindow r && match x.role r.toNat with
    | .undeclared | .glob | .dep => true
    | .shared => x.isFull r.toNat || x.isPend r.toNat
    | .loc => false

/-- The slot holds the core's chain-family member, running or under folds (R353). -/
def State.holdsChain (s : State) (u : UnitId) (i : Nat) : Bool :=
  let c := s.core u
  let x := c.slot i
  let isChain := fun (w : Work) => match w with
    | .member q => match afind c.cq q with
      | some e => e.chain
      | none => false
    | _ => false
  isChain x.work || x.folds.any fun f => isChain f.work

/-- Step 4 of R83: WIN of every register named, then SPR. `long` marks a destination left pending (R75). -/
def State.checkRegs (s : State) (srcs dsts : List Reg) (long : Bool) : Iss Unit :=
  let x := s.cur
  if srcs.any x.badSrc || dsts.any x.badDst then .error illWin
  else if srcs.any (· == 29) || dsts.any (fun r => r == 28 || r == 30 || (long && r == 29)) then .error illSpr
  else if (srcs.any (· == 28) || dsts.any (· == 29)) && !s.holdsChain s.curUnit s.curSlot then .error illSpr
  else .ok ()

/-! ## Sources (R36, R74, R75) -/

/-- The value a readable source has. -/
def Slot.val (x : Slot) (r : Reg) : Word :=
  if r = 30 then x.ix else if r = 31 then x.ln else if isWindow r then x.reg r.toNat else 0

/-- Why a source cannot be read now (R36). A read of qi is judged by `popQi`. -/
def Slot.blocked (x : Slot) (r : Reg) : Option Stop :=
  if isWindow r && !x.isFull r.toNat then
    if x.isPend r.toNat || x.role r.toNat == .dep then some (.wait (.reg r))
    else some (.fault { code := 6, dest := r })
  else none

/-- The first source, in field order, that cannot be read. -/
def Slot.firstBlocked (x : Slot) : List Reg → Option Stop
  | [] => none
  | r :: rs => match x.blocked r with
    | some e => some e
    | none => x.firstBlocked rs

/-- The matrix format word's LXM (R109). -/
def Core.lxm (c : Core) : Bool := c.mfmt.getLsbD 10

/-- Return pop credits upstream (R352). -/
def State.sendCredits (s : State) (u : UnitId) (n : Nat) : State :=
  let c := s.core u
  match c.chainFam with
  | some fam =>
    let up := fld c.qchain 11 0
    (List.range n).foldl (fun s _ => s.send 3 rankReply u up (s.spaceOf u) false 0 ⟨.chainCredit, .credit up fam⟩ none) s
  | none => s

/-- Replace each occurrence of qi among the sources by the next popped value. -/
def fillQi (x : Slot) : List Reg → List Word → List Word
  | [], _ => []
  | r :: rs, vs =>
    if r = 28 then (vs.headD 0) :: fillQi x rs (vs.drop 1) else x.val r :: fillQi x rs vs

/-- What the sources read when one word of qi is popped for each occurrence of it, in field order, all or none
(R75, R125, R353, R354). -/
def State.peekQi (s : State) (rs : List Reg) : Iss (List Word) :=
  let n := rs.count 28
  let c := s.curCore
  if fld c.qchain 15 15 = 0 then .ok (fillQi s.cur rs [])
  else if c.qi.length < n then .error (.wait .qi)
  else
    let ws := c.qi.take n
    if ws.any (fun w => !w.eos && w.lxm != c.lxm) then .error (.fault { code := 15 })
    else .ok (fillQi s.cur rs (ws.map fun w => if w.eos then 0 else w.v))

/-- The work in a slot takes `n` words of qi: their credits go upstream, and a popped end-of-stream, or no upstream,
sets p7 (R352, R353, R354). -/
def State.takeQi (s : State) (u : UnitId) (i n : Nat) : State :=
  let c := s.core u
  let ended := fun (s : State) => s.modSlot u i fun x => { x.setP 7 true with eos := true }
  if n = 0 then s
  else if fld c.qchain 15 15 = 0 then ended s
  else
    let s' := s.modCore u fun c => { c with qi := c.qi.drop n }
    (if (c.qi.take n).any (·.eos) then ended s' else s').sendCredits u n

/-- Pop the words of qi among the sources. -/
def State.popQi (s : State) (rs : List Reg) : Iss (List Word × State) := do
  let vs ← s.peekQi rs
  .ok (vs, s.takeQi s.curUnit s.curSlot (rs.count 28))

/-- What the sources of the issuing instruction hold, with nothing popped yet (R36, R75). -/
def State.peekSrcs (s : State) (rs : List Reg) : Iss (List Word) :=
  match s.cur.firstBlocked rs with
  | some e => .error e
  | none => if rs.contains 28 then s.peekQi rs else .ok (rs.map s.cur.val)

/-- Read the sources of the issuing instruction (R36, R75). -/
def State.readSrcs (s : State) (rs : List Reg) : Iss (List Word × State) :=
  match s.cur.firstBlocked rs with
  | some e => .error e
  | none => if rs.contains 28 then s.popQi rs else .ok (rs.map s.cur.val, s)

/-- One source. -/
def State.read1 (s : State) (a : Reg) : Iss (Word × State) := do
  let (vs, s) ← s.readSrcs [a]
  .ok (vs.getD 0 0, s)

/-- Two sources. -/
def State.read2 (s : State) (a b : Reg) : Iss (Word × Word × State) := do
  let (vs, s) ← s.readSrcs [a, b]
  .ok (vs.getD 0 0, vs.getD 1 0, s)

/-- Three sources. -/
def State.read3 (s : State) (a b c : Reg) : Iss (Word × Word × Word × State) := do
  let (vs, s) ← s.readSrcs [a, b, c]
  .ok (vs.getD 0 0, vs.getD 1 0, vs.getD 2 0, s)

/-! ## Destinations (R37, R74, R352) -/

/-- The downstream buffer takes a push: a free place, or no downstream link (R352, R353). -/
def Core.qoFree (c : Core) : Bool := fld c.qchain 31 31 = 0 || c.qo.length < 8

/-- Wait for an outstanding write to the destination, or for a place downstream (R37, R75, R352). -/
def State.waitDst (s : State) (r : Reg) : Iss Unit :=
  let x := s.cur
  if isWindow r && x.isPend r.toNat then .error (.wait (.reg r))
  else if r = 31 && x.lnPend then .error (.wait .ln)
  else if r = 29 && !s.curCore.qoFree then .error (.wait .qo)
  else .ok ()

/-- Send buffered chain words while the downstream queue has a free place (R352). -/
def State.drainQo (s : State) (u : UnitId) : State :=
  let c := s.core u
  match c.downLink with
  | none => s
  | some (down, fam) =>
    let n := min c.qo.length (8 - c.qoOut)
    let s := s.modCore u fun c => { c with qo := c.qo.drop n, qoOut := c.qoOut + n }
    (c.qo.take n).foldl (fun s w =>
      s.send 2 rankReply u down (s.spaceOf u) false 0 ⟨.chainWordArrival, .chain down w u fam⟩ none) s

/-- Push a word or an end-of-stream marker downstream; with no downstream link it is discarded (R353, R354). -/
def State.pushQo (s : State) (u : UnitId) (v : Word) (eos : Bool) : State :=
  let c := s.core u
  if fld c.qchain 31 31 = 0 then s
  else (s.modCore u fun c => { c with qo := c.qo ++ [⟨v, c.lxm, eos⟩] }).drainQo u

/-- Write a destination of the work in a slot (R74, R104). -/
def State.writeDstAt (s : State) (u : UnitId) (i : Nat) (r : Reg) (v : Word) : State :=
  if r = 29 then s.pushQo u v false
  else if r = 31 then s.modSlot u i fun x => { x with ln := v }
  else if isWindow r then s.landReg u i r.toNat v
  else s

/-- Write the destination of an instruction that completes in rotation (R74, R104). -/
def State.writeDst (s : State) (r : Reg) (v : Word) : State := s.writeDstAt s.curUnit s.curSlot r v

/-- Leave the destination of a long-latency operation pending (R75, R104). -/
def State.pendDst (s : State) (r : Reg) : State :=
  if r = 31 then s.modCur fun x => { x with lnPend := true }
  else if isWindow r then s.modCur fun x => x.setPend r.toNat
  else s

/-! ## The program counter (R72) -/

/-- The line of a PC. -/
def lineOf (pc : Word) : Word := pc &&& ~~~(63 : Word)
/-- The head index of a PC. -/
def headOf (pc : Word) : Nat := fld pc 5 1

/-- The next head (R72): head j + 1, or head 0 of the next line. A PC whose line the slot does not hold steps by
one half-word (assumption log 7, DESIGN CHOICE). -/
def Slot.nextPc (x : Slot) : Word :=
  match x.line with
  | some (a, line) =>
    if a = lineOf x.pc then
      if headOf x.pc + 1 < lineHeads line then x.pc + 2 else a + 64
    else x.pc + 2
  | none => x.pc + 2

/-- The work in a slot goes on at its next head. -/
def State.advanceAt (s : State) (u : UnitId) (i : Nat) : State :=
  s.modSlot u i fun x => { x with pc := x.nextPc, branchPc := none, target := false, trip := .none }

/-- The issuing member goes on at its next head. -/
def State.advance (s : State) : State := s.advanceAt s.curUnit s.curSlot

/-- A taken branch (R72, R79). -/
def State.jump (s : State) (pc : Word) : State := s.modCur fun x => { x with pc := pc, branchPc := some x.pc, target := true }

/-- The target of an I27 code target relative to a PC (R77). -/
def codeTarget (pc : Word) (i : BitVec 27) : Word :=
  lineOf pc + ((i.extractLsb' 5 22).signExtend 64 <<< 6) + ((i.extractLsb' 0 5).setWidth 64 <<< 1)

end Sys2Proof.Machine
end

