-- ==== Sys2Proof/Machine/Access.lean ====
section
/-! DEFINITION. Accesses as their core sends them: address checks, same-word holds, the journal
(13_global R231 to R233, R246, R251, R252, R254, R255; 15_ordering R287, R289; 19_engine R351). -/

namespace Sys2Proof.Machine

/-! ## Checks at issue (R231 to R233, R246) -/

/-- The ranges of two accesses meet. -/
def overlap (lo hi lo' hi' : Nat) : Bool := lo ≤ hi' && lo' ≤ hi

/-- RANGELOCK of R351: the bytes `a` to `a + n - 1` against the core's ranges. -/
def Core.rangeLocked (c : Core) (a : Word) (n : Nat) (write : Bool) : Bool :=
  let lo := a.toNat
  let hi := lo + n - 1
  c.locks.any fun k =>
    if write then overlap lo hi k.lo.toNat k.hi.toNat
    else
      let ptr := if 2 ≤ k.owner then (aget ({} : Channel) c.chans (k.owner - 2)).wptr.toNat else 0
      k.dst && overlap lo hi (if 2 ≤ k.owner then max k.lo.toNat ptr else k.lo.toNat) k.hi.toNat

/-- The own-pool rules of R199 and R233 for a thread access; one that spans two regions is judged by the stricter. -/
def State.ownCheck (s : State) (a : Word) (off n : Nat) (write : Bool) : Iss Unit :=
  let u := s.curUnit
  let c := s.curCore
  let size := poolSize u
  let sys := s.sysOf u
  let rs := [c.region size off, c.region size (off + n - 1)]
  if rs.any fun r => r == .rf || r == .acc || r == .outside then .error (boundsFault a)
  else if rs.contains .sysArea then need sys privFault
  else if rs.contains .recs then need (!write || sys) privFault
  else .ok ()

/-- The address an own-pool access compares with range locks: the own-pool form (R231, R351). -/
def Target.lockAddr (t : Target) (a : Word) : Word :=
  match t with
  | .own off => ownAddr off
  | _ => a

/-- The checks of R246, steps 1 and 2, for an access of `n` bytes: form, alignment, own-pool rules, remote service
pools only from system mode (R233), range locks. -/
def State.checkAddr (s : State) (a : Word) (n : Nat) (write : Bool) : Iss Target :=
  let u := s.curUnit
  match targetOf u a with
  | none => .error (alignFault a)
  | some t =>
    if a.toNat % n ≠ 0 then .error (alignFault a)
    else do
      match t with
      | .own off => s.ownCheck a off n write
      | .pool v _ => need (!isService v || s.sysOf u) privFault
      | .global _ => .ok ()
      need (!s.curCore.rangeLocked (t.lockAddr a) n write) (.fault { code := 13, addr := a })
      .ok t

/-! ## Words and homes -/

/-- The 8-byte words an access touches, by space and address. -/
def wordsOf (sp : Space) (a : Word) (n : Nat) : List (Space × Nat) :=
  (List.range ((a.toNat % 8 + n + 7) / 8)).map fun k => (sp, a.toNat / 8 + k)

/-- The home of an address (R234, R282). -/
def State.homeUnit (s : State) (u : UnitId) (sp : Space) (a : Word) : UnitId :=
  match targetOf u a with
  | some (.pool v _) => v
  | some (.own _) => u
  | _ => sliceUnit (s.homeOf u sp a)

/-- Load-type requests that a replica may answer, and that fill it (R276, R287). -/
def reqViaReplica : ReqKind → Bool
  | .ld _ _ | .ldp | .fetch | .jtab | .granule _ => true
  | _ => false

/-- The device step of a load-type request (R247, R250, R277). -/
def reqInstr : ReqKind → Instr
  | .amo _ _ | .cas _ => .amoAtHome
  | .ldv => .ldvAtHome
  | _ => .loadAtHome

/-- Bytes of an AMO or CAS (R250). -/
def amoBytes (w : Bool) : Nat := if w then 4 else 8

/-- Bytes a load-type request reads. -/
def reqSize : ReqKind → Nat
  | .ld wd _ => widthBytes wd
  | .ldp => 16
  | .ldv | .ldt => 8
  | .record _ => 16
  | .amo _ w | .cas w => amoBytes w
  | .fetch => 64
  | .jtab => 4
  | .granule n => n

/-- Bytes a posted store writes (R248, R249, R278, R279). -/
def storeSize : StoreKind → Nat
  | .st wd => widthBytes wd
  | .stp => 16
  | .stf | .ssus | .semp => 8

/-- The device step of a posted store (R248, R278, R279). -/
def storeInstr : StoreKind → Instr
  | .st _ | .stp => .postedStoreAtHome
  | .stf => .stfAtHome
  | .ssus => .ssusAtHome
  | .semp => .sempAtHome

/-- The words of a journal entry. -/
def JEntry.words (j : JEntry) : List (Space × Nat) :=
  match j.req with
  | some (.store p) => wordsOf p.space p.addr (storeSize p.kind)
  | some (.amo a) => wordsOf a.space a.addr (reqSize a.kind)
  | none => []

/-- Two lists of words meet. -/
def wordsMeet (xs ys : List (Space × Nat)) : Bool := xs.any fun x => ys.contains x

/-- The entry's store is not answered yet: no acknowledgement and no refusal has come (R254). -/
def JEntry.unanswered (j : JEntry) : Bool :=
  match j.st with
  | .posted | .held => true
  | _ => false

/-- The entry is unacknowledged, and counted in PSCL or PSCR (R254, R386). -/
def JEntry.counted (j : JEntry) : Bool := j.unanswered && !j.early

/-- An access of the core that waits in the core's `held` list itself, issued before `n`, to one of the words. -/
def Core.heldBefore (c : Core) (isStore : Bool) (n : Nat) (ws : List (Space × Nat)) : Bool :=
  c.held.any fun h => h.isStore == isStore && h.tid < n && wordsMeet h.words ws

/-- An LDV that its home has neither answered nor given a record (R266, R277). -/
def Outst.unplaced (o : Outst) : Bool :=
  !o.accepted && !o.failed && match o.kind with
    | .access a => a.kind == .ldv
    | _ => false

/-- A load-type access issued at `n` is held behind an earlier unacknowledged store of its core (R252), and behind an earlier LDV
of its core that may have to be issued again (R266, R285 item 6, R289; assumption log 43, DEDUCED). -/
def Core.loadBlocked (c : Core) (n : Nat) (ws : List (Space × Nat)) : Bool :=
  c.journal.any (fun p => p.2.unanswered && p.2.stamp < n && wordsMeet p.2.words ws) ||
    c.out.any (fun o => o.unplaced && o.tid < n && wordsMeet o.words ws) || c.heldBefore false n ws

/-- A posted store issued at `n` is held behind an earlier load-type access of its core that has not landed; an
accepted LDV holds nothing (R277, R289). -/
def Core.storeBlocked (c : Core) (n : Nat) (ws : List (Space × Nat)) : Bool :=
  c.out.any (fun o => !o.accepted && !o.failed && o.tid < n && wordsMeet o.words ws) || c.heldBefore true n ws

/-! ## Sending -/

/-- The refusal a blocked port sends back (R256, R381): cause 4. -/
def selvRefusal (u : UnitId) (entry stamp : Nat) : Ev := ⟨.storeRefusal, .refusal ⟨u, entry, stamp, 4, false, true, 0⟩⟩

/-- What the issuer of a load-type access, or of a posted AMO or CAS, hears when a port with PASS = 0 stops it: cause 4
(R73, R243, R256, R381). -/
def selvBack (a : Access) : Ev :=
  match a.entry, a.kind with
  | some (e, st), _ => selvRefusal a.who.unit e st
  | none, .fetch => ⟨.lineFetch, .fetch ⟨a.who, a.tid, a.addr, .fail 4⟩⟩
  | none, _ => ⟨.longLatencyLanding, .land ⟨a.who.unit, a.tid, .fail 4⟩⟩

/-- Where a request of a core for a home stops first (R287). -/
def stopFor (u home : UnitId) : UnitId := if unitKind home = 1 then firstStop u home else home

/-- Put a load-type request, or a posted AMO or CAS, on the network (R317). A plain read of a far word passes the issuing die's
replica slice, and so does every other request to a far home, in its order (R287, R289; assumption log 39, DEDUCED). -/
def State.launchAccess (s : State) (a : Access) : State :=
  let u := a.who.unit
  let home := s.homeUnit u a.space a.addr
  let cls := if a.entry.isSome then 2 else 0
  let at_ := stopFor u home
  s.send cls rankUnit u at_ a.space false 0
    ⟨reqInstr a.kind, .access { a with at_ := at_, replica := at_ ≠ home && reqViaReplica a.kind, eta := s.cycle + s.travel u home }⟩
    (some (selvBack a))

/-- Put a posted store on the network; a store whose home lies on another die passes the replica slice (R287). -/
def State.launchStore (s : State) (p : PostedStore) : State :=
  let u := p.who.unit
  let home := s.homeUnit u p.space p.addr
  let at_ := stopFor u home
  s.send 2 rankUnit u at_ p.space false 0 ⟨storeInstr p.kind, .store { p with at_ := at_, eta := s.cycle + s.travel u home }⟩
    (some (selvRefusal u p.entry p.stamp))

/-- Put an end notice on the network: by the way of the stores to its home, in their class (R270). -/
def State.launchNotice (s : State) (n : EvalNotice) : State :=
  let u := n.at_
  let at_ := stopFor u n.home
  s.send 2 rankUnit u at_ n.space false 0 ⟨.endNoticeAtHome, .notice { n with at_ := at_ }⟩ none

/-- Put a request on the network. -/
def State.launchEv (s : State) (e : Ev) : State :=
  match e.arg with
  | .access a => s.launchAccess a
  | .store p => s.launchStore p
  | .notice n => s.launchNotice n
  | _ => s

/-- Send accesses whose hold has ended, in order of issue (R252, R289). -/
def State.releaseHeld (s : State) (u : UnitId) : State :=
  let hs := (s.core u).held
  hs.foldl
    (fun s h =>
      let c := s.core u
      let blocked := if h.isStore then c.storeBlocked h.tid h.words else c.loadBlocked h.tid h.words
      if blocked then s
      else
        let s := s.modCore u fun c => { c with held := c.held.filter fun x => !(x.tid == h.tid && x.isStore == h.isStore && x.req == h.req) }
        s.launchEv h.req) s

/-- Send a request, or hold it at its core (R252, R289). -/
def State.sendOrHold (s : State) (u : UnitId) (h : HeldAcc) : State :=
  let c := s.core u
  let blocked := if h.isStore then c.storeBlocked h.tid h.words else c.loadBlocked h.tid h.words
  if blocked then s.modCore u fun c => { c with held := c.held ++ [h] } else s.launchEv h.req

/-- The words of the stores of a piece of work that its core still holds for a home (R252, R289). -/
def State.heldStores (s : State) (w : Who) (home : UnitId) : List (Space × Nat) :=
  ((s.core w.unit).held.filter fun h => h.isStore && match h.req.arg with
    | .store p => p.who == w && s.homeUnit w.unit p.space p.addr == home
    | .access a => a.who == w && s.homeUnit w.unit a.space a.addr == home
    | _ => false).flatMap (·.words)

/-- An end notice leaves behind every store of its evaluator to the home, those that their core holds too (R270). -/
def State.noticeOrHold (s : State) (n : EvalNotice) : State :=
  match (n.ev.map fun w => s.heldStores w n.home).getD [] with
  | [] => s.launchNotice n
  | ws =>
    let (t, s) := s.fresh
    s.sendOrHold n.at_ ⟨⟨.endNoticeAtHome, .notice n⟩, true, 0, t, ws⟩

/-! ## Load-type accesses -/

/-- What a fault of an outstanding access is delivered with: the issuing core keeps it (R271). -/
def noHandler : HandlerInfo := ⟨none, 0, 0⟩

/-- The handler that a member's family would give (R152). For a claimant that is itself an evaluator it is the handler recorded at
that evaluator's own claim, of which R271 says nothing (assumption log 42, DESIGN CHOICE). -/
def State.handlerInfo (s : State) (u : UnitId) (i : Nat) : HandlerInfo :=
  let c := s.core u
  let x := c.slot i
  match x.work with
  | .member q =>
    match afind c.cq q with
    | some e => ⟨e.handler, e.mode, e.rkey⟩
    | none => noHandler
  | .folded =>
    match x.folds with
    | f :: _ => ⟨f.handler, f.mode, f.rkey⟩
    | [] => noHandler
  | .evaluator e => e.h
  | _ => noHandler

/-- Record an outstanding long-latency write (R404). -/
def State.addOut (s : State) (u : UnitId) (o : Outst) : State := s.modCore u fun c => { c with out := c.out ++ [o] }

/-- The captured request of the issuing slot (R244). -/
def State.mkAccess (s : State) (tid : Nat) (k : ReqKind) (a : Word) (c d : Word) (dest : Reg) : Access :=
  { who := s.curWho, tid := tid, kind := k, addr := a, space := s.spaceOf s.curUnit, sys := s.sysOf s.curUnit, c := c, d := d,
    outer := s.cur.evc, dest := dest, pc := s.cur.pc, entry := none, at_ := 0, replica := false, walk := 0,
    h := s.handlerInfo s.curUnit s.curSlot, defPlace := s.cur.defPlace }

/-- Record and send a load-type access (R247, R249, R250, R277). -/
def State.trackAccess (s : State) (a : Access) (dest2 : Option Reg) : State :=
  let u := a.who.unit
  let ws := wordsOf a.space a.addr (reqSize a.kind)
  let s := s.addOut u
    { tid := a.tid, who := a.who, pc := a.pc, kind := .access a, dest := a.dest, dest2 := dest2,
      load := !(a.kind == .ldv && a.dest == 0), noticed := false, accepted := false, refusals := 0, parked := false,
      failed := false, h := s.handlerInfo u a.who.slot, words := ws }
  s.sendOrHold u ⟨⟨reqInstr a.kind, .access a⟩, false, 0, a.tid, ws⟩

/-- Issue a load-type access from the current slot, its destination pending (R104, R247). -/
def State.issueLoad (s : State) (k : ReqKind) (a : Word) (c d : Word) (dest : Reg) (dest2 : Option Reg) : State :=
  let (tid, s) := s.fresh
  let acc := s.mkAccess tid k a c d dest
  let s := s.pendDst dest
  let s := match dest2 with
    | some r => s.pendDst r
    | none => s
  s.trackAccess acc dest2

/-! ## Posted accesses and the journal (R251, R254, R255, R386) -/

/-- The lowest free journal entry. -/
def Core.freeEntry (c : Core) : Option Nat := (List.range 64).find? fun k => (afind c.journal k).isNone

/-- A free entry, or the wait for one (R251). -/
def State.needEntry (s : State) : Iss Nat :=
  match s.curCore.freeEntry with
  | some k => .ok k
  | none => .error (.wait .journal)

/-- The issuing die's replica slice holds the line of an address (R456). -/
def State.replicaHolds (s : State) (u : UnitId) (sp : Space) (a : Word) : Bool :=
  let home := s.homeUnit u sp a
  unitKind home == 1 && unitDie home ≠ unitDie u &&
    (s.slice (replicaOf (unitDie u) (unitIdent home))).replicas.any fun l =>
      l.svs == sp.svs && l.viid == sp.viid && l.line == a.toNat / 128

/-- Whether an access counts in PSCL: its home lies on the issuing die (R251), or erratum E3 applies (R456). -/
def State.countsLocal (s : State) (u : UnitId) (sp : Space) (a : Word) (plain : Bool) : Bool :=
  unitDie (s.homeUnit u sp a) == unitDie u || (plain && s.replicaHolds u sp a)

/-- Count a posted access (R386). -/
def Core.countPosted (c : Core) (isLocal : Bool) : Core :=
  if isLocal then { c with pscl := c.pscl + 1 } else { c with pscr := c.pscr + 1 }
/-- Count its end. -/
def Core.uncountPosted (c : Core) (isLocal : Bool) : Core :=
  if isLocal then { c with pscl := c.pscl - 1 } else { c with pscr := c.pscr - 1 }

/-- The binary logarithm of an access size (SIZE of R255). -/
def log2Size (n : Nat) : BitVec 4 := if n ≤ 1 then 0 else if n ≤ 2 then 1 else if n ≤ 4 then 2 else if n ≤ 8 then 3 else 4

/-- KIND of R255. -/
def storeKindCode : StoreKind → BitVec 2
  | .st _ => 0 | .stp => 1 | _ => 3

/-- Plain stores, which erratum E3 names (R456). -/
def storePlain : StoreKind → Bool
  | .st _ | .stp => true
  | _ => false

/-- Post a store of the current slot in journal entry `k` (R248, R251). -/
def State.postStore (s : State) (k : Nat) (kind : StoreKind) (a d0 d1 : Word) : State :=
  let u := s.curUnit
  let (stamp, s) := s.fresh
  let sp := s.spaceOf u
  let isLocal := s.countsLocal u sp a (storePlain kind)
  let e3 := storePlain kind && s.replicaHolds u sp a
  let p : PostedStore :=
    { who := s.curWho, entry := k, stamp := stamp, kind := kind, addr := a, space := sp, sys := s.sysOf u, d0 := d0, d1 := d1,
      pc := s.cur.pc, at_ := 0, e3 := e3 }
  let j : JEntry :=
    { st := .posted, slot := s.curSlot, sgen := s.cur.sgen, kind := storeKindCode kind, size := log2Size (storeSize kind),
      cause := 0, addr := a, pc := s.cur.pc, stamp := stamp, pscl := isLocal, req := some (.store p) }
  let s := s.modCore u fun c => { c.countPosted isLocal with journal := aput c.journal k j }
  s.sendOrHold u ⟨⟨storeInstr kind, .store p⟩, true, k, stamp, wordsOf sp a (storeSize kind)⟩

/-- Post an AMO or CAS with A = z in journal entry `k` (R250). -/
def State.postAmo (s : State) (k : Nat) (kind : ReqKind) (a c d : Word) : State :=
  let u := s.curUnit
  let (stamp, s) := s.fresh
  let sp := s.spaceOf u
  let isLocal := s.countsLocal u sp a false
  let acc := { s.mkAccess stamp kind a c d 0 with entry := some (k, stamp) }
  let j : JEntry :=
    { st := .posted, slot := s.curSlot, sgen := s.cur.sgen, kind := 2, size := log2Size (reqSize kind), cause := 0, addr := a,
      pc := s.cur.pc, stamp := stamp, pscl := isLocal, req := some (.amo acc) }
  let s := s.modCore u fun c => { c.countPosted isLocal with journal := aput c.journal k j }
  s.sendOrHold u ⟨⟨reqInstr kind, .access acc⟩, true, k, stamp, wordsOf sp a (reqSize kind)⟩

/-- Repost a Refused entry with its stored address and data (JREPLAY, R254). -/
def State.repost (s : State) (u : UnitId) (k : Nat) : State :=
  match afind (s.core u).journal k with
  | none => s
  | some j =>
    let (stamp, s) := s.fresh
    let plain := match j.req with
      | some (.store p) => storePlain p.kind
      | _ => false
    let sp := s.spaceOf u
    let isLocal := s.countsLocal u sp j.addr plain
    let e3 := plain && s.replicaHolds u sp j.addr
    let req := match j.req with
      | some (.store p) => some (JReq.store { p with stamp := stamp, e3 := e3 })
      | some (.amo a) => some (JReq.amo { a with tid := stamp, entry := some (k, stamp) })
      | none => none
    let s := s.modCore u fun c =>
      { c.countPosted isLocal with
        journal := aput c.journal k { j with st := .posted, cause := 0, stamp := stamp, pscl := isLocal, early := false, req := req } }
    match req with
    | some (.store p) => s.sendOrHold u ⟨⟨storeInstr p.kind, .store p⟩, true, k, stamp, wordsOf p.space p.addr (storeSize p.kind)⟩
    | some (.amo a) => s.sendOrHold u ⟨⟨reqInstr a.kind, .access a⟩, true, k, stamp, wordsOf a.space a.addr (reqSize a.kind)⟩
    | none => s

end Sys2Proof.Machine
end

