-- ==== Sys2Proof/Machine/Ops.lean ====
section
/-! DEFINITION. The shared operations: taking an exception and the return from one, landings and wakes, fences, and
the frame in which every program instruction issues (02_families R45; 03_lines R83; 04_register R104; 06_family R152,
R153; 13_global R241 to R244, R256; 15_ordering R291; 17_rotation R307, R310; 23_traps R392 to R394). -/

namespace Sys2Proof.Machine

/-! ## Fault records (R393) -/

/-- The lowest free fault record (R394). -/
def Core.freeRecordNo (c : Core) : Option Nat := (List.range 16).find? fun k => !c.recUsed.getLsbD k

/-- The PC a record reports: the line address for BADLINE and FETCH (R71, R73), else the head (R393). -/
def FaultInfo.pcOf (f : FaultInfo) (pc : Word) : Word := if f.code = 2 || f.code = 5 then lineOf pc else pc

/-- The eight words of a record (R393). -/
def State.recordWords (s : State) (u : UnitId) (i : Nat) (f : FaultInfo) : List Word :=
  let x := s.slot u i
  let pc := f.pcOf x.pc
  [ BitVec.ofNat 64 (f.code + f.sub * 2 ^ 8 + (if 32 ≤ f.code then 2 ^ 23 else 0) + f.ucode.toNat * 2 ^ 32),
    pc, s.memberHandle u i, f.addr, f.opc.getD pc, f.val,
    BitVec.ofNat 64 (f.dest.toNat + f.jent * 2 ^ 8), s.gcyc ]

/-- Write record `r` of a core. -/
def State.writeRecord (s : State) (u : UnitId) (i r : Nat) (f : FaultInfo) : State :=
  let ws := s.recordWords u i f
  s.modCore u fun c => c.poolWrite (poolSize u - 4096 + 64 * r) (ws.flatMap fun w => bytesOf 8 w.toNat)

/-! ## Taking an exception (R45, R54, R152, R271, R394) -/

/-- A fault without a handler: the work is killed, and its family, its held member, its cell or its fold loop
hears of it (R45, R54, R152, R271). -/
def State.killFaulted (s : State) (u : UnitId) (i : Nat) (f : FaultInfo) : State :=
  let x := s.slot u i
  let s := s.releaseRefused u f
  match x.work with
  | .member q =>
    match afind (s.core u).cq q with
    | some e => (s.discard u i).report u e.fam (.faulted x.ord.toNat (x.ix.setWidth 32) true)
    | none => s.discard u i
  | .handler w _ stamp => (s.discard u i).handlerOver w stamp
  | .evaluator e =>
    let s := (s.leaveFamilies u (s.who u i) x.created).endNotice (s.who u i) e
    match x.folds with
    | fo :: _ => if fo.eval then s.swapBackEval u i else s.freeSlot u i
    | [] => s.freeSlot u i
  | .folded =>
    let s := s.leaveFamilies u (s.who u i) x.created
    let s := s.modSlot u i fun x =>
      { x with folds := x.folds.modify 0 fun fo => { fo with flt := some (fo.flt.getD (x.ix.setWidth 32)) } }
    s.swapBack u i false
  | .none => s

/-- The first Free slot of a core. -/
def Core.firstFree (c : Core) : Option Nat :=
  (List.range c.nslots).find? fun i => (c.slot i).work = .none && (c.slot i).anchor.isNone

/-- TAKING AN EXCEPTION. The core writes the lowest free record, holding who stopped, where and why. With a handler
the member goes off rotation and a handler member waits for a slot (R152); without one it is killed (R45). With no
record free it waits off rotation (R200). -/
def State.takeFault (s : State) (u : UnitId) (i : Nat) (f : FaultInfo) : State :=
  match (s.core u).freeRecordNo with
  | none => s.modSlot u i fun x => { x with holds := x.holds ++ [.noRecord f], aging := 0 }
  | some r =>
    let s := s.writeRecord u i r f
    let h := s.handlerInfo u i
    match h.body with
    | none => s.killFaulted u i f
    | some b =>
      let (stamp, s) := s.fresh
      let x := s.slot u i
      let s := s.setSlot u i { x with holds := x.holds ++ [.fault r { f with stamp := stamp }], aging := 0 }
      let s := s.modCore u fun c =>
        { c with recUsed := setBitN c.recUsed r true, hq := c.hq ++ [⟨s.who u i, r, stamp, h, b, x.prio, x.defPlace, x.work == .folded⟩] }
      match (s.core u).firstFree with
      | some j => s.schedule s.cycle rankAssign .handlerMemberStart (.slot u j)
      | none => s

/-- A fault of the issuing instruction (R394). -/
def State.exactFault (s : State) (f : FaultInfo) : State := s.takeFault s.curUnit s.curSlot f

/-! ## Landings (R104, R272, R308) -/

/-- Forget an outstanding write. -/
def State.dropOut (s : State) (u : UnitId) (tid : Nat) : State :=
  s.modCore u fun c => { c with out := c.out.filter (·.tid ≠ tid) }
/-- Change the record of an outstanding write. -/
def State.modOut (s : State) (u : UnitId) (tid : Nat) (f : Outst → Outst) : State :=
  s.modCore u fun c => { c with out := c.out.map fun o => if o.tid = tid then f o else o }
/-- The outstanding write of a transaction. -/
def Core.outOf (c : Core) (tid : Nat) : Option Outst := c.out.find? (·.tid == tid)

/-- A result lands in a destination of the work in a slot, and wakes it if it waits for that (R104). -/
def State.landDst (s : State) (u : UnitId) (i : Nat) (r : Reg) (v : Word) : State :=
  let wakeIf := fun (s : State) (p : Wait → Bool) => s.modSlot u i fun x =>
    match x.run with
    | .wait w => if p w then x.wake s.cycle else x
    | .ready => x
  if r = 31 then wakeIf (s.modSlot u i fun x => { x with ln := v, lnPend := false }) (· == .ln)
  else if isWindow r then wakeIf (s.landReg u i r.toNat v) (· == .reg r)
  else s

/-! ## Translation notices (R241, R242) -/

/-- The member is off rotation for a translation notice (R241). -/
def Slot.notices (x : Slot) (n : Bool) : Slot :=
  if n then { x with holds := .notice :: x.holds, aging := 0 } else { x with holds := x.holds.erase .notice }

/-- Remove one translation notice from the occupant; with no hold left it returns to rotation (R241, R242). -/
def State.endNoticeHold (s : State) (u : UnitId) (i : Nat) : State :=
  (s.modSlot u i fun x => (x.notices false).back s.cycle).resumeEnding u i

/-- The issuer of a record's reads is off rotation while one of them is held by a notice (R241). -/
def State.recordNotice (s : State) (u : UnitId) (q : RecRead) (on : Bool) : State :=
  match (s.slot u q.who.slot).seat q.who.sgen with
  | .occupant => if on then s.modSlot u q.who.slot fun x => x.notices true else s.endNoticeHold u q.who.slot
  | .folded j =>
    s.modSlot u q.who.slot fun x =>
      { x with folds := x.folds.modify j fun f => { f with holds := if on then .notice :: f.holds else f.holds.erase .notice } }
  | .gone => s

/-! ## Fences (R291 to R293, R151) -/

/-- A load-type access that a fence of slot `i` waits for has neither landed nor failed: one of its work or of work that has run
in a fold over it, and for a folded member one of the folded members before it too (R282, R291). What a fold has swapped out is
not waited for: an evaluator does not wait for its claimant (assumption log 43, DEDUCED). -/
def Core.loadsOut (c : Core) (i : Nat) : Bool :=
  let x := c.slot i
  let first := match x.work, x.folds with
    | .folded, f :: _ => f.sgen + 1
    | _, _ => x.sgen
  c.out.any fun o =>
    o.who.slot == i && o.load && !o.failed && (o.who.sgen - first).toNat ≤ (x.scnt - first).toNat &&
      !x.folds.any fun f => f.sgen == o.who.sgen

/-- J of R291, with the stamps that tell an entry from its next use. FBAR takes the member's own entries (R151). -/
def Core.fenceSet (c : Core) (i : Nat) (sgen : BitVec 15) (f : FenceRun) : List (Nat × Nat) :=
  if f.kind = 1 || f.scope == .core then []
  else (c.journal.filter fun p =>
    p.2.counted && (p.2.pscl || f.scope != .die) && (f.kind ≠ 3 || (p.2.slot == i && p.2.sgen == sgen))).map
      fun p => (p.1, p.2.stamp)

/-- Entries of J still unacknowledged. -/
def Core.stillCounted (c : Core) (j : List (Nat × Nat)) : Bool :=
  j.any fun e => match afind c.journal e.1 with
    | some x => x.counted && x.stamp == e.2
    | none => false

/-- The fence clears replicas (R291). -/
def FenceRun.clears (f : FenceRun) : Bool :=
  (f.kind = 1 || f.kind = 2) && match f.scope with
    | .pkg | .sys => true
    | _ => false

/-- The fence of a slot is over: FBAR goes on to its barrier, RFENCE empties the record cache, reads of
records in flight included (R293), and the member goes on at its next head. -/
def State.fenceDone (s : State) (u : UnitId) (i : Nat) (f : FenceRun) : State :=
  if f.kind = 3 then
    let s := s.modSlot u i fun x => { x with fence := none, run := .wait .bar, trip := .out .bar }
    match (s.slot u i).work with
    | .member q =>
      match afind (s.core u).cq q with
      | some e =>
        let w := s.who u i
        let h := famHandle e.fam.owner e.fam.entry e.fam.gen
        let ord := (s.slot u i).ord.toNat
        let ev : Ev := ⟨.handleReply, .handle (.serve e.fam.owner w (.bar ord) h)⟩
        if e.fam.owner == u then s.schedule s.cycle rankReply ev.ins ev.arg
        else s.send 0 rankReply u e.fam.owner (s.spaceOf u) false 0 ev none
      | none => s
    | _ => s
  else
    let s := if f.rfence then
        let s := (s.core u).recReads.foldl (fun s q => q.noticed.foldl (fun s _ => s.recordNotice u q false) s) s
        (s.modCore u fun c => { c with recs := [], recReads := [] }).wakeWhere u (· == .record)
      else s
    let s := s.advanceAt u i
    s.modSlot u i fun x => { x.wake s.cycle with fence := none }

/-- Take a fence as far as it goes (R291). -/
def State.progressFence (s : State) (u : UnitId) (i : Nat) : State :=
  let c := s.core u
  let x := c.slot i
  match x.fence with
  | none => s
  | some f =>
    if x.run ≠ .wait .fence || x.holds ≠ [] || (f.j.isNone && c.loadsOut i) then s
    else
      let j := f.j.getD (c.fenceSet i x.sgen f)
      let s := s.modSlot u i fun x => { x with fence := some { f with j := some j } }
      if c.stillCounted j then s
      else if f.clears && f.confirms.isNone then
        let d := unitDie u
        let ids := (List.range 64).map (d * 64 + ·)
        let s := s.modSlot u i fun x => { x with fence := some { f with j := some j, confirms := some ids } }
        ids.foldl (fun s r =>
          s.send 6 rankUnit u (sliceUnit r) (s.spaceOf u) false 0 ⟨.replicaClear, .clear r (s.who u i)⟩ none) s
      else if f.clears && f.confirms != some [] then s
      else s.fenceDone u i f

/-- Take every fence of a core as far as it goes. -/
def State.progressFences (s : State) (u : UnitId) : State :=
  (List.range (s.core u).nslots).foldl (fun s i => if (s.slot u i).fence.isSome then s.progressFence u i else s) s

/-- What follows a landing in a slot: waits on the whole window, on pass-through and on fences. -/
def State.afterLanding (s : State) (u : UnitId) (i : Nat) : State :=
  let s := s.modSlot u i fun x =>
    match x.run with
    | .wait .allPend => if x.pend = 0 then x.wake s.cycle else x
    | _ => x.wakePass s.cycle
  ((s.resumeEnding u i).releaseHeld u).progressFences u

/-- The results of a long-latency operation land in the occupant of a slot, with its flags (R104, R107). -/
def State.landIn (s : State) (u : UnitId) (o : Outst) (v0 v1 : Word) (flags : FpFlags) : State :=
  let i := o.who.slot
  let s := (s.dropOut u o.tid).modSlot u i fun x => x.landFlags s.cycle flags
  let s := s.landDst u i o.dest v0
  let s := match o.dest2 with
    | some r => s.landDst u i r v1
    | none => s
  s.afterLanding u i

/-- The next kept fault of the occupant. A refusal waits for the end of a fence that has taken its set J, to be delivered at
the head after it (R292); while the fence still waits for loads, it is delivered at the fence, which issues again. -/
def Slot.nextAsync (x : Slot) : Option (BitVec 15 × FaultInfo) :=
  x.asyncs.find? fun p => p.1 == x.sgen && !((x.fence.bind (·.j)).isSome && p.2.code == 32)

/-- A member in no rotation, whose kept fault can be delivered before it issues again: Suspended, with nothing else off rotation
(R307, R394). -/
def Slot.takesAsync (x : Slot) : Bool := x.work ≠ .none && x.run != .ready && x.holds == [] && x.nextAsync.isSome

/-- Keep a fault for a piece of work until its next issue (R244, R256, R394). To a Suspended member it is delivered at once; what
the member waited for it issues again when it returns (R307, R310; assumption log 21, DESIGN CHOICE). -/
def State.keepFault (s : State) (w : Who) (f : FaultInfo) : State :=
  let s := s.modSlot w.unit w.slot fun x => { x with asyncs := x.asyncs ++ [(w.sgen, f)] }
  if (s.slot w.unit w.slot).takesAsync then s.schedule s.cycle rankAssign .asyncFaultDelivery (.slot w.unit w.slot) else s

/-- What a member that FRSM kill ends was still to write will not land: the end goes on without it (R153). -/
def State.giveUp (s : State) (u : UnitId) (o : Outst) : State :=
  (((s.modOut u o.tid fun o => { o with failed := true }).dropFailed u o.who).releaseHeld u).resumeEnding u o.who.slot

/-- An access of the occupant failed after it left the core (R243, R244, R132). What a member that FRSM kill ends was still to
write will not land (R153). -/
def State.failIn (s : State) (u : UnitId) (o : Outst) (cause : Nat) : State :=
  let i := o.who.slot
  match o.kind with
  | .access a =>
    if a.kind == .jtab then
      let s := ((s.dropOut u o.tid).releaseHeld u).progressFences u
      if (s.slot u i).jtab ≠ some o.tid then s
      else (s.modSlot u i fun x => { x with run := .ready, jtab := none, trip := .none }).takeFault u i { code := 16, sub := cause, addr := a.addr }
    else if (s.slot u i).ending.isSome then s.giveUp u o
    else
      let s := s.modOut u o.tid fun o => { o with failed := true }
      let s := s.keepFault o.who
        { code := 18, sub := cause, addr := a.addr, opc := some a.pc, dest := o.dest, tid := some o.tid }
      (s.releaseHeld u).progressFences u
  | .rdadd _ key _ =>
    if (s.slot u i).ending.isSome then s.giveUp u o
    else
    let s := s.modOut u o.tid fun o => { o with failed := true }
    s.keepFault o.who { code := 18, sub := cause, addr := key, opc := some o.pc, dest := o.dest, tid := some o.tid }
  | _ => s.landIn u o (BitVec.ofNat 64 cause) 0 0

/-- Reissue an access from its captured operands as a new access (R244). -/
def State.reissue (s : State) (u : UnitId) (tid : Nat) : State :=
  match (s.core u).outOf tid with
  | none => s
  | some o =>
    match o.kind with
    | .access a =>
      let (t, s) := s.fresh
      let b := { a with tid := t }
      let s := s.modOut u tid fun o =>
        { o with tid := t, kind := .access b, failed := false, noticed := false, accepted := false, refusals := 0, parked := false }
      s.sendOrHold u ⟨⟨reqInstr b.kind, .access b⟩, false, 0, t, o.words⟩
    | _ => s

/-- Send an LDV that found no record to its home again: the same access, in its place among the accesses of its core
(R266, R289). It is parked no longer. -/
def State.resendLdv (s : State) (u : UnitId) (tid : Nat) : State :=
  match (s.core u).outOf tid with
  | some o => match o.kind with
    | .access a => (s.modOut u tid fun o => { o with parked := false }).sendOrHold u ⟨⟨reqInstr a.kind, .access a⟩, false, 0, tid, o.words⟩
    | _ => s
  | none => s

/-- LDV refused a wait record (R266): reissued after 256 cycles, up to 8 times; after that each refusal parks it. -/
def State.ldvRefused (s : State) (u : UnitId) (o : Outst) : State :=
  let parked := 8 ≤ o.refusals
  let s := s.modOut u o.tid fun o => { o with refusals := o.refusals + 1, parked := parked }
  if parked then s.schedule (s.cycle + 65536) rankUnit .parkedLdvTimeout (.tid u o.tid o.refusals)
  else s.schedule (s.cycle + 256) rankUnit .ldvReissueTimer (.tid u o.tid o.refusals)

/-- The check of a jump table entry: its fault, or its target (R131, R132). -/
def jtabJudge (pc v : Word) : Except FaultInfo Word :=
  let t := codeTarget pc (v.setWidth 27)
  if fld v 31 27 ≠ 0 then .error { code := 1, sub := 4 }
  else if t.toNat ≤ pc.toNat then .error { code := 4, addr := t }
  else .ok t

/-- The jump of a JTAB (R131). -/
def Slot.jtabJump (x : Slot) (t : Word) : Slot :=
  { x.setP 0 true with pc := t, branchPc := some x.pc, target := true, trip := .none, jtab := none, jpop := 0 }

/-- The entry of a JTAB arrives (R131, R132): with a fault nothing of the JTAB takes effect, else the words of qi that it
read are taken now. -/
def State.jtabEntry (s : State) (u : UnitId) (i : Nat) (v : Word) : State :=
  let x := s.slot u i
  match jtabJudge x.pc v with
  | .error f =>
    (s.modSlot u i fun x => { x with run := .ready, readyAt := s.cycle + 1, aging := 0, jtab := none, jpop := 0, trip := .none }).takeFault u i f
  | .ok t =>
    (s.takeQi u i x.jpop).modSlot u i fun x => { x.jtabJump t with run := .ready, readyAt := s.cycle + 1, aging := 0 }

/-- A value arrives for an outstanding access of the occupant. -/
def State.arrive (s : State) (u : UnitId) (o : Outst) (v0 v1 : Word) (flags : FpFlags) : State :=
  match o.kind with
  | .access a =>
    if a.kind == .jtab then
      let s := ((s.dropOut u o.tid).releaseHeld u).progressFences u
      if (s.slot u o.who.slot).jtab = some o.tid then s.jtabEntry u o.who.slot v0 else s
    else s.landIn u o v0 v1 flags
  | _ => s.landIn u o v0 v1 flags

/-- A landing, failure or notice reaches its core (R104, R241, R244, R266, R272, R273). Work under a fold gets it at
the swap back (R268); for work that has ended it is discarded. -/
def State.land (s : State) (l : Landing) : State :=
  let u := l.unit
  match (s.core u).outOf l.tid with
  | none => s
  | some o =>
    let i := o.who.slot
    match (s.slot u i).seat o.who.sgen with
    | .gone => ((s.dropOut u o.tid).releaseHeld u).progressFences u
    | .folded j =>
      match l.res with
      | .noRecord => s.ldvRefused u o
      | .notice | .resumed => s.modSlot u i fun x => x.holdFor j ⟨.longLatencyLanding, .land l⟩
      | _ =>
        let s := s.modOut u o.tid fun o => { o with accepted := true }
        let s := s.modSlot u i fun x => x.holdFor j ⟨.longLatencyLanding, .land l⟩
        (s.releaseHeld u).progressFences u
    | .occupant =>
      let s := match l.res with
        | .notice | .resumed | .noRecord => s
        | _ => if o.noticed then s.endNoticeHold u i else s
      match l.res with
      | .val v0 v1 fl => s.arrive u o v0 v1 fl
      | .data _ => s.landIn u o 0 0 0
      | .fail c => s.failIn u o c
      | .selfdep =>
        let a := match o.kind with
          | .access a => a.addr
          | _ => 0
        if (s.slot u i).ending.isSome then s.giveUp u o
        else
        let s := s.modOut u o.tid fun o => { o with failed := true }
        ((s.keepFault o.who { code := 14, addr := a, dest := o.dest, tid := some o.tid }).releaseHeld u).progressFences u
      | .noRecord => s.ldvRefused u o
      | .notice => (s.modOut u o.tid fun o => { o with noticed := true }).modSlot u i fun x => x.notices true
      | .resumed => (s.modOut u o.tid fun o => { o with noticed := false }).endNoticeHold u i

/-! ## The return from an exception: FRSM retry and skip (R153, R244, R256) -/

/-- The occupant leaves the hold for record `r`: retry reissues what failed, skip passes over it. -/
def State.resumeHeld (s : State) (u : UnitId) (i r : Nat) (f : FaultInfo) (skip : Bool) : State :=
  let s := s.freeRecords u [.fault r f]
  let s := s.modSlot u i fun x => ({ x with holds := x.holds.erase (.fault r f) } : Slot).back s.cycle
  let s :=
    if f.code = 18 || f.code = 14 then
      match f.tid.bind (s.core u).outOf with
      | none => if skip && f.tid.isNone then (s.landDst u i f.dest 0).advanceAt u i else s
      | some o => if skip then s.landIn u o 0 0 0 else s.reissue u o.tid
    else if f.code = 32 then s.releaseRefused u f
    else if f.code = 33 then s
    else if skip then s.advanceAt u i
    else s
  s

/-- The fault a slot's occupant is held for, oldest first (R153). -/
def Slot.heldFault (x : Slot) : Option (Nat × FaultInfo) :=
  x.holds.findSome? fun h => match h with
    | .fault r f => some (r, f)
    | _ => none

/-! ## The kept faults of a slot (R200, R394) -/

/-- Deliver what a slot's occupant waits to have delivered: a fault for which a record has become free, else a kept
asynchronous fault before its next issue. -/
def State.deliverKept (s : State) (u : UnitId) (i : Nat) : State :=
  let x := s.slot u i
  let waiting := x.holds.findSome? fun h => match h with
    | .noRecord f => some f
    | _ => none
  match waiting with
  | some f =>
    if (s.core u).freeRecordNo.isSome then
      (s.setSlot u i { x with holds := x.holds.erase (.noRecord f) }).takeFault u i f
    else s
  | none =>
    match x.nextAsync with
    | some p =>
      if x.holds = [] && !(s.core u).stopped && x.work ≠ .none then
        (s.setSlot u i { x with asyncs := x.asyncs.erase p }).takeFault u i p.2
      else s
    | none => s

/-! ## The issue of a program instruction (R68, R83, R310) -/

/-- The issuing member suspends (R307, R310). -/
def State.suspendCur (s : State) (w : Wait) : State := s.modCur fun x => x.suspend w

/-- Issue: a false guard ends the instruction with no effect; otherwise its effect, a wait to be reissued, or an exact
fault with no effect (R7, R68, R83, R310, R394). -/
def issue (g : Guard) (s : State) (f : State → Iss State) : Out :=
  if s.cur.guard g then
    match f s with
    | .ok t => .next t
    | .error (.wait w) => .next (s.suspendCur w)
    | .error (.fault x) => .next (s.exactFault x)
  else .next s.advance

/-- Register the result of a fixed-latency unit: the destinations pend and a landing is scheduled (R308). -/
def State.landLater (s : State) (due : Nat) (dest : Reg) (dest2 : Option Reg) (v0 v1 : Word) (flags : FpFlags) : State :=
  let u := s.curUnit
  let (tid, s) := s.fresh
  let o : Outst :=
    { tid := tid, who := s.curWho, pc := s.cur.pc, kind := .unit, dest := dest, dest2 := dest2, load := false, noticed := false,
      accepted := false, refusals := 0, parked := false, failed := false, h := noHandler, words := [] }
  let s := (s.addOut u o).pendDst dest
  let s := match dest2 with
    | some r => s.pendDst r
    | none => s
  s.schedule due rankLanding .longLatencyLanding (.land ⟨u, tid, .val v0 v1 flags⟩)

/-- The result of an instruction that does not issue again: its destination, its next head, and back in rotation
(R151, R186, R307). -/
def State.complete (s : State) (u : UnitId) (i : Nat) (r : Reg) (v : Word) : State :=
  let s := (s.writeDstAt u i r v).advanceAt u i
  s.modSlot u i fun x => x.wake s.cycle

/-- The issuing member begins a round trip for a destination (R139, R307). -/
def State.beginTrip (s : State) (w : Wait) (dest : Reg) : State :=
  s.modCur fun x => { x.suspend w with trip := .out w, replyDest := dest }

/-- The issuing member waits in a fence, or in the posted-store wait of an FBAR, which goes as far as it can at once
(R151, R291). -/
def State.beginFence (s : State) (f : FenceRun) : State :=
  ((s.beginTrip .fence 0).modCur fun x => { x with fence := some f }).progressFence s.curUnit s.curSlot

/-- The answer of a round trip: the member takes it when it issues the instruction again (R139, R310). -/
def State.answerTrip (s : State) (u : UnitId) (i : Nat) (t : Trip) : State := s.modSlot u i fun x => x.answered s.cycle t

/-- The member issues again what it has begun (R7, R68, R310): a false guard ends it; without its answer it suspends
again; with it, the instruction takes effect, or is the exact fault. -/
def State.again (s : State) (g : Guard) : State :=
  let x := s.cur
  if !x.guard g then s.advance
  else match x.trip with
  | .none => s
  | .out w => (s.suspendCur w).progressFence s.curUnit s.curSlot
  | .done v p =>
    match s.waitDst x.replyDest with
    | .error (.wait w) => s.suspendCur w
    | .error (.fault f) => s.exactFault f
    | .ok () =>
      let s := match p with
        | some b => s.modCur fun x => x.setP 0 b
        | none => s
      (s.writeDst x.replyDest v).advance
  | .fault f => (s.modCur fun x => { x with trip := .none }).exactFault f

end Sys2Proof.Machine
end

