-- ==== Sys2Proof/Machine/FamilyOps.lean ====
section
/-! DEFINITION. What the family instructions rest on: places, reservations, folds, the owning core's service of
handles, bound grants and family ends (02_families R28 to R31, R45 to R59; 06_family R137 to R153; 17_rotation R303 to
R305). -/

namespace Sys2Proof.Machine

/-! ## Places (R28 to R31) -/

/-- The cores of a place value for work on core `u` with default place `d`: base and count, or none where R29 refuses
the value itself. Without a default place the work's own core serves (assumption log 10, DESIGN CHOICE). -/
def placeOf (u : UnitId) (d v : Word) : Option (UnitId × Nat) :=
  let p := if v = 0 then d else v
  let base := fld p 11 0
  let count := fld p 24 12
  if p = 0 then some (u, 1)
  else if fld p 63 26 ≠ 0 then none
  else if p.getLsbD 25 then (if base = 0 && count = 0 then some (u, 1) else none)
  else if count = 0 || 4096 < count || 4095 < base + count - 1 then none
  else some (base, count)

/-- Every core of a place lies in the partition of a die (R29). -/
def State.placeInside (s : State) (die base count : Nat) : Bool :=
  s.inPart die base && s.inPart die (base + count - 1) &&
    ((List.range 4).all fun d => unitDie base > d || d > unitDie (base + count - 1) || (s.partDies die).contains d)

/-- N of R25 and R26. -/
def specN (x : FamSpec) : Option Nat := if x.args.unb then none else some (memberCount x.start x.limit x.args.step)

/-! ## Reservations (R48 to R50) -/

/-- The create-queue entry of a family on a core (R304). -/
def mkCq (fam : FamRef) (x : FamSpec) (k seq : Nat) : CqEntry :=
  { fam := fam, g := x.args.g, s := x.args.s, l := x.args.l, prio := x.args.prio, blk := x.args.blk.toNat, step := x.args.step,
    start := x.start, n := specN x, base := x.base, count := x.count, chain := x.args.chain, bound := x.cls == 1, started := false,
    body := 0, handler := none, mode := 0, rkey := 0, glob := [], inis := [], next := k * x.args.blk.toNat, resident := 0,
    fwd := [], anchors := [], stop := none, seq := seq, defPlace := x.defPlace, root := x.root }

/-- The lowest free create-queue entry (R304). -/
def Core.freeCq (c : Core) : Option Nat := (List.range 64).find? fun q => (afind c.cq q).isNone

/-- A free family-table entry: the lowest, where R48 asks only for a free one (assumption log 42, DESIGN CHOICE). -/
def Core.freeFam (c : Core) : Option Nat :=
  (List.range 32).find? fun e => (aget ({} : FamEntry) c.fams e).st == .free

/-- The cores of a free family's place that must grant an anchor: those that receive members, and in attempt 2 the creating
core, whatever N is (R48). -/
def anchorCores (x : FamSpec) (alone : Bool) : Nat :=
  if alone then x.count else receiving x.count x.args.blk.toNat (specN x)

/-- A fresh family-table entry, Staged or Queued, owned by core `u` (R142, R370). -/
def FamEntry.fresh (e : FamEntry) (st : FamState) (x : FamSpec) (alone : Bool) (resv : UnitId × Nat) (stamp : Nat) : FamEntry :=
  let cr := x.creator
  { ({} : FamEntry) with
    st := st, gen := e.gen, cls := x.cls, prio := x.args.prio, unb := x.args.unb, chain := x.args.chain, g := x.args.g,
    s := x.args.s, l := x.args.l, blk := x.args.blk, step := x.args.step, limit := x.limit, start := x.start,
    place := BitVec.ofNat 64 (if isService x.base then 2 ^ 25 else x.base + x.count * 2 ^ 12),
    csvc := isService cr.unit, ccore := BitVec.ofNat 12 (unitIdent cr.unit), cslot := BitVec.ofNat 6 cr.slot,
    csgen := cr.sgen, base := x.base, count := x.count,
    cores := if x.cls == 1 then [] else (List.range (anchorCores x alone)).map fun k => (x.base + k, 0),
    defPlace := x.defPlace, root := x.root, resv := resv, stamp := stamp }

/-- A core serves a reservation request (R48, R49): an anchor from a Free slot where the core must grant one, `alone` in
attempt 2, and a family-table entry where one is free. A core holds a chain member from its reservation until its family's
end, and refuses a second chain family even where it receives no member (R57, R109; assumption log 23, DESIGN CHOICE).
Returns whether the core refuses, and the entry. -/
def State.reserveAt (s : State) (u : UnitId) (id : Nat) (sender : UnitId) (alone : Bool) (x : FamSpec) :
    Bool × Option FamRef × State :=
  let c := s.core u
  let k := u - x.base
  let wants := k < anchorCores x alone
  let second := x.args.chain && c.cq.any (·.2.chain)
  let anchor := if c.bq.isEmpty && !second then c.firstFree else none
  let (s, a) :=
    if wants then
      match anchor, c.freeCq with
      | some i, some q =>
        let (seq, s) := s.fresh
        let s := s.modCore u fun c => { c with cq := aput c.cq q (mkCq (pendingFam sender id) x k seq) }
        (s.modSlot u i fun y => { y with anchor := some q }, some q)
      | _, _ => (s, none)
    else (s, none)
  let (s, e) :=
    match (s.core u).freeFam with
    | some e =>
      let gen := (s.fam u e).gen
      (s.modFam u e fun f => f.fresh .staged x alone (sender, id) 0, some (e, gen))
    | none => (s, none)
  let s := s.modCore u fun c => { c with reservations := ⟨id, sender, a, e.map (·.1)⟩ :: c.reservations }
  (wants && a.isNone || second, e.map fun p => ⟨u, p.1, p.2⟩, s)

/-- A family is decided at a core: it names its create-queue entry, and its chain words that came before are its own (R353). -/
def Core.decided (c : Core) (q : Nat) (fam : FamRef) : Core :=
  { c.modCq q fun e => { e with fam := fam } with
    qi := c.qi ++ (c.early.filter (·.1 == fam)).map (·.2), early := c.early.filter (·.1 ≠ fam) }

/-- The decision reaches a core: the family keeps its anchor and, at its owner, its entry; everything else set aside
is given back (R49). -/
def State.settleAt (s : State) (u : UnitId) (id : Nat) (sender : UnitId) (fam : Option FamRef) : State :=
  match (s.core u).reservations.find? fun r => r.id == id && r.sender == sender with
  | none => s
  | some r =>
    let s := s.modCore u fun c => { c with reservations := c.reservations.filter fun r => !(r.id == id && r.sender == sender) }
    let s := match r.entry with
      | some e =>
        if fam.any fun f => f.owner == u && f.entry == e then s
        else if (s.fam u e).st == .staged && (s.fam u e).resv == (sender, id) then
          (s.modFam u e fun f => { ({} : FamEntry) with gen := f.gen }).entryFreed
        else s
      | none => s
    match r.anchor, fam with
    | some q, some f =>
      if (afind (s.core u).cq q).any fun e => e.fam == pendingFam sender id then s.modCore u fun c => c.decided q f else s
    | some q, none =>
      match afind (s.core u).cq q with
      | some e => if e.fam == pendingFam sender id then s.dropCq u q else s
      | none => s
    | none, _ => s

/-- Send or apply a reservation message. -/
def State.tell (s : State) (src dst : UnitId) (m : ReserveMsg) (f : State → State) : State :=
  if src == dst then f s
  else s.send 6 rankReply src dst (s.spaceOf src) false 0 ⟨.reservationReply, .reserve m⟩ none

/-- Tell every core of a place the decision. -/
def State.settleAll (s : State) (u : UnitId) (id base count : Nat) (fam : Option FamRef) : State :=
  (List.range count).foldl (fun s k => s.tell u (base + k) (.settle (base + k) id u fam) (·.settleAt (base + k) id u fam)) s

/-! ## Folds (R51 to R53, R56) -/

/-- Push a frame for a family in the slot of its creator, if the bobbin has room (R51). -/
def State.pushFrame (s : State) (u : UnitId) (i : Nat) (x : FamSpec) : Option (Word × State) :=
  let c := s.core u
  let y := c.slot i
  let frame := y.ffrm.toNat
  if y.fflim.toNat < frame + 256 then none
  else
    let g := x.args.g.toNat
    let sh := x.args.s.toNat
    let full := (List.range g).foldl (fun n k => n + 2 ^ k) 0 + (List.range sh).foldl (fun n k => n + 2 ^ (g + sh + k)) 0
    let n := match specN x with
      | some n => n
      | none => 0
    let w30 := BitVec.ofNat 64 x.start.toNat
    let w31 := BitVec.ofNat 64 (n % 2 ^ 32 + x.args.step.toNat * 2 ^ 33 + g * 2 ^ 41 + sh * 2 ^ 44 + x.args.l.toNat * 2 ^ 47 +
      (if x.args.unb then 2 ^ 52 else 0))
    let c := c.poolWrite frame (List.replicate 256 0)
    let c := ((c.setFrameWord frame 27 (BitVec.ofNat 64 full)).setFrameWord frame 30 w30).setFrameWord frame 31 w31
    let c := { c with perf := bumpPerf c.perf 0x10 1 }
    let y := c.slot i
    let c := c.setSlot i { y with ffrm := BitVec.ofNat 20 (frame + 256), pushed := frame :: y.pushed }
    some (foldHandle u i frame, s.setCore u c)

/-- FALLOC is decided, with a handle or with 0 (R48, R142): A and p0, at once or when the instruction, whose requests have
been answered, issues again (R310). -/
def State.fallocDone (s : State) (u : UnitId) (i : Nat) (a : Reg) (h : Word) (made : Bool) : State :=
  let s := if made then s.modSlot u i fun x => { x with created := h :: x.created } else s
  if (s.slot u i).trip = .none then ((s.modSlot u i fun x => x.setP 0 (h ≠ 0)).writeDstAt u i a h).advanceAt u i
  else s.answerTrip u i (.done h (some (h ≠ 0)))

/-- Attempt 3, or the end of a family that may not fold (R48, R51, R57). -/
def State.fallocFold (s : State) (u : UnitId) (i : Nat) (a : Reg) (x : FamSpec) : State :=
  if x.args.chain then s.fallocDone u i a 0 false
  else match s.pushFrame u i x with
    | some (h, s) => s.fallocDone u i a h false
    | none => s.fallocDone u i a 0 false

/-- An attempt that asks the creating core `u` only, for the family `y`: the family it makes (R48). -/
def State.fallocTry (s : State) (u : UnitId) (i : Nat) (a : Reg) (alone : Bool) (y : FamSpec) : Option State :=
  let (id, s) := s.fresh
  match s.reserveAt u id u alone y with
  | (false, some f, t) => some ((t.settleAt u id u (some f)).fallocDone u i a (famHandle f.owner f.entry f.gen) true)
  | _ => none

/-- Attempts 2 and 3 (R48): the creating core alone, then the fold. A chain family makes neither (R57). -/
def State.fallocHere (s : State) (u : UnitId) (i : Nat) (a : Reg) (x : FamSpec) : State :=
  if x.args.chain then s.fallocDone u i a 0 false
  else (s.fallocTry u i a true { x with base := u, count := 1 }).getD (s.fallocFold u i a x)

/-- Attempt 1 is decided (R48). -/
def State.fallocDecide (s : State) (u : UnitId) (r : Reserving) : State :=
  let x := r.spec
  let i := r.who.slot
  let s := s.modCore u fun c => { c with reserving := c.reserving.filter (·.id ≠ r.id) }
  let owner := r.entries.foldl (fun (b : Option FamRef) f => match b with
    | some g => if f.owner < g.owner then some f else b
    | none => some f) none
  let lives := (s.slot u i).seat r.who.sgen == .occupant
  match r.refused || !lives, owner with
  | false, some f =>
    (s.settleAll u r.id x.base x.count (some f)).fallocDone u i r.dest (famHandle f.owner f.entry f.gen) true
  | _, _ =>
    let s := s.settleAll u r.id x.base x.count none
    if lives then s.fallocHere u i r.dest x else s

/-- FALLOC of a free family: attempt 1 asks every core of the place (R48). -/
def State.fallocAsk (s : State) (a : Reg) (x : FamSpec) : State :=
  let u := s.curUnit
  let i := s.curSlot
  if x.base = u && x.count = 1 then (s.fallocTry u i a false x).getD (s.fallocHere u i a x)
  else
    let (id, s) := s.fresh
    let far := ((List.range x.count).map (x.base + ·)).filter (· ≠ u)
    let mine := x.base ≤ u && u < x.base + x.count && isCompute u
    let (refused, e, s) := if mine then s.reserveAt u id u false x else (false, none, s)
    let r : Reserving := ⟨id, s.who u i, x, a, far, refused, e.toList⟩
    let s := s.modCore u fun c => { c with reserving := r :: c.reserving }
    let s := s.beginTrip .reply a
    far.foldl (fun s d => s.send 6 rankReply u d (s.spaceOf u) false 0 ⟨.reservationReply, .reserve (.ask d id u x)⟩ none) s

/-- A core's answer reaches the creating core (R48, R49). -/
def State.fallocAnswer (s : State) (u : UnitId) (id : Nat) (src : UnitId) (anchor : Bool) (entry : Option FamRef) : State :=
  match (s.core u).reserving.find? (·.id == id) with
  | none => s
  | some r =>
    let m : Ev := ⟨.reservationReply, .reserve (.answer u id src anchor entry)⟩
    match (s.slot u r.who.slot).seat r.who.sgen with
    | .folded j => s.modSlot u r.who.slot fun x => x.holdFor j m
    | _ =>
      let r := { r with waiting := r.waiting.erase src, refused := r.refused || !anchor, entries := r.entries ++ entry.toList }
      if r.waiting.isEmpty then s.fallocDecide u r
      else s.modCore u fun c => { c with reserving := c.reserving.map fun q => if q.id == id then r else q }

/-! ## Bound families (R57 to R59, R305) -/

/-- Members of a bound family on the `k`-th core of its place (R31). -/
def boundShare (n blk k : Nat) : Nat := min blk (n - k * blk)

/-- The order of bound requests (R59). -/
def boundBefore (a b : BoundReq) : Bool := a.stamp < b.stamp || (a.stamp == b.stamp && a.creator < b.creator)

/-- Insert a request in a core's queue. -/
def insertBound (b : BoundReq) : List BoundReq → List BoundReq
  | [] => [b]
  | x :: xs => if boundBefore b x then b :: x :: xs else x :: insertBound b xs

/-- The Free slots of a core. -/
def Core.freeSlots (c : Core) : List Nat :=
  (List.range c.nslots).filter fun i => (c.slot i).work = .none && (c.slot i).anchor.isNone

/-- Everything a bound request needs: it heads the queue of every core of its place, and each core has Free slots for
its share; a chain family needs cores that hold no chain member (R57, R59). -/
def State.boundReady (s : State) (b : BoundReq) (f : FamEntry) : Bool :=
  let n := f.n.getD 0
  (List.range b.count).all fun k =>
    let c := s.core (b.base + k)
    c.bq.head? == some b && boundShare n f.blk.toNat k ≤ c.freeSlots.length &&
      !(f.chain && 0 < boundShare n f.blk.toNat k && c.cq.any (·.2.chain)) && (c.freeCq.isSome || boundShare n f.blk.toNat k == 0)

/-- The FALLOC that an entry keeps. -/
def FamEntry.spec (f : FamEntry) : FamSpec :=
  { start := f.start, limit := f.limit, args := ⟨f.step, f.blk, f.g, f.s, f.l, f.prio, f.chain, f.unb⟩, cls := f.cls, base := f.base,
    count := f.count, creator := ⟨if f.csvc then svcUnit f.ccore.toNat else f.ccore.toNat, f.cslot.toNat, f.csgen⟩, sys := false,
    defPlace := f.defPlace, root := f.root }

/-- Enqueue a bound request on every core of its place as one step, or try again after 1,024 cycles (R305). -/
def State.enqueueBound (s : State) (b : BoundReq) : State :=
  let full := (List.range b.count).any fun k => 64 ≤ (s.core (b.base + k)).bq.length
  if full then s.schedule (s.cycle + 1024) rankUnit .boundEnqueueRetry (.bound b)
  else
    let s := (List.range b.count).foldl (fun s k =>
      s.modCore (b.base + k) fun c => { c with bq := insertBound b c.bq }) s
    s.schedule s.cycle rankAssign .boundGrant (.bound b)

/-! ## Starting and ending (R24, R27, R45, R46, R145) -/

/-- The cores of a family learn of its FGO and start members (R32, R145). -/
def State.startAt (s : State) (u : UnitId) (id : Nat) (sender : UnitId) (fam : FamRef) (x : StartInfo) : State :=
  match (s.core u).cqFor fam sender id with
  | none => s
  | some (q, _) =>
    (s.modCore u fun c => (c.decided q fam).modCq q fun e =>
      { e with started := true, body := x.body, handler := x.handler, mode := x.mode, rkey := x.rkey,
               glob := x.glob, inis := x.inis }).offer u

/-- Move an entry to Running and start its members (R27, R145). -/
def State.runFamily (s : State) (u : UnitId) (e : Nat) (body : Word) (mode : BitVec 2) (rkey : Word) : State :=
  let s := s.modFam u e fun x =>
    let x := { x with st := .running, body := body, mode := mode, rkey := rkey, heldFgo := none }
    if x.n == some 0 then { x with fins := x.inis, finOrd := [] } else x
  let x := s.fam u e
  let fam : FamRef := ⟨u, e, x.gen⟩
  let info : StartInfo := ⟨body, if x.hnd then some x.handler else none, mode, rkey, x.glob, x.inis⟩
  let s := x.coreList.foldl (fun s d =>
    s.tell u d (.start d x.resv.2 x.resv.1 fam info) (·.startAt d x.resv.2 x.resv.1 fam info)) s
  s.checkFam u e

/-- Grant a bound request (R59): its slots are taken, and the entry is Staged, or Running when its FGO is held. A slot so
taken is Anchored until its member has started and ended, and then Free (R307). -/
def State.grantBound (s : State) (b : BoundReq) : State :=
  let u := b.fam.owner
  let f := s.fam u b.fam.entry
  if f.st ≠ .queued ∨ f.gen ≠ b.fam.gen ∨ s.boundReady b f = false then s
  else
    let n := f.n.getD 0
    let x := f.spec
    let s := s.unqueueBound b.fam b.base b.count
    let s := (List.range b.count).foldl (fun s k =>
      let d := b.base + k
      let share := boundShare n f.blk.toNat k
      let c := s.core d
      if share = 0 then s
      else match c.freeCq with
        | none => s
        | some q =>
          let (seq, s) := s.fresh
          let s := s.modCore d fun c => { c with cq := aput c.cq q (mkCq b.fam x k seq) }
          (c.freeSlots.take share).foldl (fun s i => s.modSlot d i fun y => { y with anchor := some q }) s) s
    let cores := ((List.range b.count).filter fun k => 0 < boundShare n f.blk.toNat k).map fun k => (b.base + k, 0)
    let s := s.modFam u b.fam.entry fun f => { f with st := .staged, cores := cores }
    match f.heldFgo with
    | some (w, .fgo body mode rkey) => (s.runFamily u b.fam.entry body mode rkey).answer u w (.ok 0)
    | _ => s

/-- The status word of an ended entry (R45, R354). -/
def FamEntry.statusWord (e : FamEntry) : Word :=
  if e.kld then 2
  else if e.flt ≠ 0xFFFFFFFF then e.fltIx ++ 3#32
  else if e.brk ≠ 0xFFFFFFFF && !e.eosEnd then e.brkIx ++ 1#32
  else 0

/-- The answer to an instruction that waited for an entry's end (R146, R147). -/
def FamEntry.endAnswer (e : FamEntry) (op : HandleOp) : Word :=
  match op with
  | .fsync => e.status
  | .fgets k => if e.status.setWidth 8 == 2#8 || e.status.setWidth 8 == 3#8 then 0 else aget 0 e.fins k
  | _ => 0

/-- The launch of a root family is over: Heald writes its completion word (R65), or completes the request of a service
launch (R437). -/
def State.launchOver (s : State) (x : FamEntry) : State :=
  match x.launch with
  | some l => s.schedule s.cycle rankUnit (if l.svc then .merge else .launchAdmission) (.guest ⟨l.pid, l.viid, l.compl, x.status⟩)
  | none => s

/-- A family ends (R46): status, anchors back, waiting instructions answered, FREL and orphans released. The entry of a
launch, which nothing releases by FREL, is freed at its end (assumption log 23, DESIGN CHOICE). -/
def State.endFamily (s : State) (u : UnitId) (e : Nat) : State :=
  let x := s.fam u e
  if x.over then
    let fam : FamRef := ⟨u, e, x.gen⟩
    let s := s.releaseAnchors u fam x.coreList
    let s := s.modFam u e fun x => { x with st := .ended, status := x.statusWord, waiters := [], bar := [], cores := [] }
    let y := s.fam u e
    let s := x.waiters.foldl (fun s w => s.answer u w.1 (.ok (y.endAnswer w.2))) s
    let s := s.launchOver y
    if x.orphan || x.launch.isSome || x.waiters.any (fun w => w.2 == .frel) then s.freeEntry u e else s
  else s

/-! ## The owning core's service of handles (R139 to R149) -/

/-- A family handle's owning core, entry and generation; none where its form is not a family handle's (R137, R139). -/
def handleParts (h : Word) : Option FamRef :=
  let svc := h.getLsbD 40
  if fld h 63 41 ≠ 0 || h.getLsbD 33 || h.getLsbD 32 || fld h 39 34 ≠ 0 || (svc && fld h 11 5 ≠ 0) then none
  else some ⟨if svc then svcUnit (fld h 4 0) else fld h 11 0, fld h 16 12, BitVec.ofNat 15 (fld h 31 17)⟩

/-- The slot of an issuer still holds the work that created an entry (R139). -/
def State.isCreator (s : State) (x : FamEntry) (w : Who) : Bool :=
  w.unit == (if x.csvc then svcUnit x.ccore.toNat else x.ccore.toNat) && w.slot == x.cslot.toNat &&
    (s.slot w.unit w.slot).seat x.csgen != .gone

/-- Handle instructions that only the creator may issue (R139). -/
def creatorOnly : HandleOp → Bool
  | .fsetg _ _ | .fsets _ _ | .fhand _ | .fgo _ _ _ | .frel => true
  | _ => false

/-- FKILL (R149). -/
def State.serveKill (s : State) (u : UnitId) (e : Nat) : State :=
  let x := s.fam u e
  let fam : FamRef := ⟨u, e, x.gen⟩
  match x.st with
  | .queued =>
    let s := s.unqueueBound fam x.base x.count
    let s := match x.heldFgo with
      | some (w, _) => s.answer u w (.ok 0)
      | none => s
    s.modFam u e fun x => { x with st := .ended, kld := true, status := 2, heldFgo := none }
  | .staged =>
    (s.releaseAnchors u fam x.coreList).modFam u e fun x => { x with st := .ended, kld := true, status := 2, cores := [] }
  | .running => ((s.modFam u e fun x => { x with kld := true, killAll := true }).sendKills u e 0).checkFam u e
  | _ => s

/-- The owning core serves one handle instruction (R139 to R151). No answer yet means that the issuer waits. -/
def State.serve (s : State) (u : UnitId) (e : Nat) (w : Who) (op : HandleOp) : Option HandleRes × State :=
  let x := s.fam u e
  let early := x.st == .staged || x.st == .queued
  match op with
  | .fsetg k v =>
    if x.g.toNat ≤ k then (some (.bad 9), s)
    else if early then (some (.ok 0), s.modFam u e fun x => { x with glob := aput x.glob k v })
    else (some (.bad 10), s)
  | .fsets k v =>
    if x.s.toNat ≤ k then (some (.bad 9), s)
    else if early then (some (.ok 0), s.modFam u e fun x => { x with inis := aput x.inis k v })
    else (some (.bad 10), s)
  | .fhand b =>
    if early then (some (.ok 0), s.modFam u e fun x => { x with hnd := true, handler := b }) else (some (.bad 10), s)
  | .fgo b m r =>
    match x.st with
    | .staged => (some (.ok 0), s.runFamily u e b m r)
    | .queued =>
      if x.heldFgo.isSome then (some (.bad 10), s)
      else (none, s.modFam u e fun x => { x with body := b, heldFgo := some (w, op) })
    | _ => (some (.bad 10), s)
  | .fsync =>
    match x.st with
    | .running => (none, s.modFam u e fun x => { x with waiters := x.waiters ++ [(w, op)] })
    | .ended => (some (.ok (x.endAnswer op)), s)
    | _ => (some (.bad 10), s)
  | .fgets k =>
    if x.s.toNat ≤ k then (some (.bad 9), s)
    else match x.st with
    | .running => (none, s.modFam u e fun x => { x with waiters := x.waiters ++ [(w, op)] })
    | .ended => (some (.ok (x.endAnswer op)), s)
    | _ => (some (.bad 10), s)
  | .fkill => (some (.ok 0), s.serveKill u e)
  | .frel =>
    match x.st with
    | .running => (none, s.modFam u e fun x => { x with waiters := x.waiters ++ [(w, op)] })
    | .ended => (some (.ok 0), s.freeEntry u e)
    | _ => (some (.ok 0), s.withdraw u e)
  | .bar ord => (none, (s.modFam u e fun x => { x with bar := x.bar ++ [⟨w, ord⟩] }).checkFam u e)
  | .orphan => (none, s.orphan u e)
  | .frsm _ => (none, s)

/-- FRSM at the core of the member it names (R139, R153). A member under a fold keeps it until the swap back. -/
def State.serveFrsm (s : State) (u : UnitId) (op : BitVec 2) (h : Word) : Option HandleRes × State :=
  let i := fld h 39 34
  let sgen := BitVec.ofNat 15 (fld h 31 17)
  let x := s.slot u i
  match x.seat sgen with
  | .gone => (some (.stale h), s)
  | .folded j =>
    let held := match x.folds[j]? with
      | some f => !(heldRecords f.holds).isEmpty && !f.resumed
      | none => false
    if held then
      (some (.ok 0), s.modSlot u i fun x =>
        x.holdFor j ⟨.handleReply, .handle (.serve u ⟨u, 64, 0⟩ (.frsm op) h)⟩)
    else (some (.bad 10), s)
  | .occupant =>
    match x.heldFault with
    | none => (some (.bad 10), s)
    | some (r, f) =>
      if op = 2 then (some (.ok 0), s.frsmKill u i)
      else (some (.ok 0), s.resumeHeld u i r f (op = 1))

/-- A member handle's form (R138, R139). -/
def memberForm (h : Word) : Bool :=
  fld h 63 41 = 0 && h.getLsbD 33 && fld h 16 12 = 0 && (!h.getLsbD 40 || fld h 11 5 = 0)

/-- The core a handle names. -/
def handleUnit (h : Word) : UnitId := if h.getLsbD 40 then svcUnit (fld h 4 0) else fld h 11 0

/-- A handle request at its owning core (R139). -/
def State.serveHandle (s : State) (u : UnitId) (w : Who) (op : HandleOp) (h : Word) : Option HandleRes × State :=
  match op with
  | .frsm k => s.serveFrsm u k h
  | _ =>
    match handleParts h with
    | none => (some (.stale h), s)
    | some f =>
      let x := s.fam u f.entry
      if x.st == .free || x.gen ≠ f.gen || (creatorOnly op && !s.isCreator x w) then (some (.stale h), s)
      else s.serve u f.entry w op

/-- The answer of a round trip at the issuer (R139): the member takes it when it issues the instruction again. An FBAR
that has waited in its round goes on at its next head (R151, R310). -/
def State.finishHandle (s : State) (w : Who) (res : HandleRes) : State :=
  let u := w.unit
  let i := w.slot
  let x := s.slot u i
  match x.seat w.sgen with
  | .gone => s
  | .folded j => s.modSlot u i fun x => x.holdFor j ⟨.handleReply, .handle (.answer w res)⟩
  | .occupant =>
    match res with
    | .ok v => if x.trip == .out .bar then s.complete u i 0 0 else s.answerTrip u i (.done v none)
    | .stale h => s.answerTrip u i (.fault { code := 7, addr := h })
    | .bad c => s.answerTrip u i (.fault { code := 8, sub := c })

end Sys2Proof.Machine
end

