-- ==== Sys2Proof/Machine/Memory.lean ====
section
/-! DEFINITION. Loads, stores and atomics as they issue (13_global_memory R245 to R251). -/

namespace Sys2Proof.Machine

/-- The value a load of a width gives from raw bytes (R247). -/
def loadExt (wd : Width) (z : Bool) (raw : Nat) : Word :=
  let n := 8 * widthBytes wd
  let v := BitVec.ofNat 64 raw
  if z then zextN n v else sextN n v

/-- The operation of an AMO on n bits (R250). -/
def amoFn (op : AmoOp) (n : Nat) (old c : BitVec n) : BitVec n :=
  match op with
  | .add => old + c
  | .and => old &&& c
  | .or => old ||| c
  | .xor => old ^^^ c
  | .swap => c
  | .min => if c.slt old then c else old
  | .max => if old.slt c then c else old
  | .minz => if c.ult old then c else old
  | .maxz => if old.ult c then c else old

/-- The new value of an AMO's bytes (R250). -/
def amoNew (op : AmoOp) (w : Bool) (old : Nat) (c : Word) : Nat :=
  let n := 8 * amoBytes w
  (amoFn op n (BitVec.ofNat n old) (c.setWidth n)).toNat

/-- The new value of a CAS's bytes (R250). -/
def casNew (w : Bool) (old : Nat) (c d : Word) : Nat :=
  let n := 8 * amoBytes w
  if old = c.toNat % 2 ^ n then d.toNat % 2 ^ n else old

/-- The old value as A receives it (R250). -/
def amoOld (w : Bool) (old : Nat) : Word := if w then sextN 32 (BitVec.ofNat 64 old) else BitVec.ofNat 64 old

/-- What an AMO or CAS writes (R250). -/
def rmwNew (k : ReqKind) (old : Nat) (c d : Word) : Nat :=
  match k with
  | .amo op w => amoNew op w old c
  | .cas w => casNew w old c d
  | _ => old

/-- a = b + sext(I16) (R246). -/
def baseImm (b : Word) (imm : BitVec 16) : Word := b + imm.signExtend 64
/-- a = b + (c << s) (R246). -/
def baseIndex (b c : Word) (s : BitVec 2) : Word := b + (c <<< s.toNat)

/-- LD and LDX at an address (R246, R247). -/
def loadAt (s : State) (a : Word) (wd : Width) (z : Bool) (dest : Reg) : Iss State := do
  let t ← s.checkAddr a (widthBytes wd) false
  need (dest ≠ 29) illSpr
  s.waitDst dest
  match t with
  | .own off => .ok (s.writeDst dest (loadExt wd z (s.curCore.poolRead off (widthBytes wd)))).advance
  | _ => .ok (s.issueLoad (.ld wd z) a 0 0 dest none).advance

/-- LD (R247). -/
def execLd (g : Guard) (wd : Width) (z : Bool) (a b : Reg) (imm : BitVec 16) (s : State) : Out :=
  issue g s fun s => do
    s.checkRegs [b] [a] false
    let (x, s) ← s.read1 b
    loadAt s (baseImm x imm) wd z a

/-- LDX (R247). -/
def execLdx (g : Guard) (wd : Width) (z : Bool) (a b c : Reg) (sh : BitVec 2) (s : State) : Out :=
  issue g s fun s => do
    s.checkRegs [b, c] [a] false
    let (x, y, s) ← s.read2 b c
    loadAt s (baseIndex x y sh) wd z a

/-- Write own-pool bytes of the issuing core. -/
def State.poolStore (s : State) (off n : Nat) (v : Nat) : State := s.modCurCore fun c => c.poolWrite off (bytesOf n v)

/-- ST and STX at an address (R246, R248). -/
def storeAt (s : State) (a : Word) (wd : Width) (v : Word) : Iss State := do
  let n := widthBytes wd
  let t ← s.checkAddr a n true
  match t with
  | .own off => .ok (s.poolStore off n v.toNat).advance
  | _ => do
    let k ← s.needEntry
    .ok (s.postStore k (.st wd) a v 0).advance

/-- ST (R248). Where A is a source its qi word is popped after those of B, C and D, whose order alone R75 gives; STX, STP, STF,
SSUS, PGSWAP and FMA do the same (assumption log 24, DESIGN CHOICE). -/
def execSt (g : Guard) (wd : Width) (a b : Reg) (imm : BitVec 16) (s : State) : Out :=
  issue g s fun s => do
    s.checkRegs [b, a] [] false
    let (x, v, s) ← s.read2 b a
    storeAt s (baseImm x imm) wd v

/-- STX (R248). -/
def execStx (g : Guard) (wd : Width) (a b c : Reg) (sh : BitVec 2) (s : State) : Out :=
  issue g s fun s => do
    s.checkRegs [b, c, a] [] false
    let (x, y, v, s) ← s.read3 b c a
    storeAt s (baseIndex x y sh) wd v

/-- A of LDP and STP lies in 1 to 26 (R246 step 3). -/
def pairReg (a : Reg) : Bool := a ≠ 0 && a.toNat ≤ 26

/-- LDP (R246, R249). -/
def execLdp (g : Guard) (a b : Reg) (imm : BitVec 16) (s : State) : Out :=
  issue g s fun s => do
    s.checkRegs [b] [a] false
    let (x, s) ← s.read1 b
    let t ← s.checkAddr (baseImm x imm) 16 false
    need (pairReg a) illSpr
    need (!s.cur.badDst (a + 1)) illWin
    s.waitDst a
    s.waitDst (a + 1)
    match t with
    | .own off =>
      let v := s.curCore.poolRead off 16
      .ok ((s.writeDst a (BitVec.ofNat 64 v)).writeDst (a + 1) (BitVec.ofNat 64 (v / 2 ^ 64))).advance
    | _ => .ok (s.issueLoad .ldp (baseImm x imm) 0 0 a (some (a + 1))).advance

/-- STP: one posted store of both words (R246, R249). -/
def execStp (g : Guard) (a b : Reg) (imm : BitVec 16) (s : State) : Out :=
  issue g s fun s => do
    s.checkRegs [b, a] [] false
    let (x, s) ← s.read1 b
    let t ← s.checkAddr (baseImm x imm) 16 true
    need (pairReg a) illSpr
    need (!s.cur.badSrc (a + 1)) illWin
    let (v, w, s) ← s.read2 a (a + 1)
    match t with
    | .own off => .ok (s.poolStore off 16 (v.toNat + w.toNat * 2 ^ 64)).advance
    | _ => do
      let k ← s.needEntry
      .ok (s.postStore k .stp (baseImm x imm) v w).advance

/-- AMO and CAS at an address: in rotation in the own pool, posted when A is z, else pending (R246, R250). -/
def amoAt (s : State) (k : ReqKind) (w : Bool) (a : Word) (c d : Word) (dest : Reg) : Iss State := do
  let t ← s.checkAddr a (amoBytes w) true
  need (dest ≠ 29) illSpr
  s.waitDst dest
  match t with
  | .own off =>
    let n := amoBytes w
    let old := s.curCore.poolRead off n
    .ok ((s.poolStore off n (rmwNew k old c d)).writeDst dest (amoOld w old)).advance
  | _ =>
    if dest = 0 then do
      let e ← s.needEntry
      .ok (s.postAmo e k a c d).advance
    else .ok (s.issueLoad k a c d dest none).advance

/-- An AMO with its operands read (R250). -/
def amoOp (s : State) (op : AmoOp) (w : Bool) (a b c : Reg) : Iss State := do
  s.checkRegs [b, c] [a] false
  let (x, y, s) ← s.read2 b c
  amoAt s (.amo op w) w x y 0 a

/-- AMO.ADD (R250). -/
def execAmoAdd (g : Guard) (w : Bool) (a b c : Reg) (s : State) : Out := issue g s fun s => amoOp s .add w a b c
/-- AMO.AND (R250). -/
def execAmoAnd (g : Guard) (w : Bool) (a b c : Reg) (s : State) : Out := issue g s fun s => amoOp s .and w a b c
/-- AMO.OR (R250). -/
def execAmoOr (g : Guard) (w : Bool) (a b c : Reg) (s : State) : Out := issue g s fun s => amoOp s .or w a b c
/-- AMO.XOR (R250). -/
def execAmoXor (g : Guard) (w : Bool) (a b c : Reg) (s : State) : Out := issue g s fun s => amoOp s .xor w a b c
/-- AMO.SWAP (R250). -/
def execAmoSwap (g : Guard) (w : Bool) (a b c : Reg) (s : State) : Out := issue g s fun s => amoOp s .swap w a b c
/-- AMO.MIN (R250). -/
def execAmoMin (g : Guard) (w : Bool) (a b c : Reg) (s : State) : Out := issue g s fun s => amoOp s .min w a b c
/-- AMO.MAX (R250). -/
def execAmoMax (g : Guard) (w : Bool) (a b c : Reg) (s : State) : Out := issue g s fun s => amoOp s .max w a b c
/-- AMO.MINZ (R250). -/
def execAmoMinz (g : Guard) (w : Bool) (a b c : Reg) (s : State) : Out := issue g s fun s => amoOp s .minz w a b c
/-- AMO.MAXZ (R250). -/
def execAmoMaxz (g : Guard) (w : Bool) (a b c : Reg) (s : State) : Out := issue g s fun s => amoOp s .maxz w a b c

/-- CAS (R250). -/
def execCas (g : Guard) (w : Bool) (a b c d : Reg) (s : State) : Out :=
  issue g s fun s => do
    s.checkRegs [b, c, d] [a] false
    let (x, y, z, s) ← s.read3 b c d
    amoAt s (.cas w) w x y z a

end Sys2Proof.Machine
end

