-- ==== Sys2Proof/Machine/Cells.lean ====
section
/-! DEFINITION. The cell instructions as they issue (14_tagged_cells R275 to R280). -/

namespace Sys2Proof.Machine

/-- The address is a pool form (R231). -/
def Target.isPool : Target → Bool
  | .global _ => false
  | _ => true

/-- LDV: the member runs on and A pends; in a pool it acts as LD.d (R276, R277). -/
def execLdv (g : Guard) (a b : Reg) (imm : BitVec 16) (s : State) : Out :=
  issue g s fun s => do
    s.checkRegs [b] [a] false
    let (x, s) ← s.read1 b
    let p := baseImm x imm
    let t ← s.checkAddr p 8 false
    need (a ≠ 29) illSpr
    s.waitDst a
    match t with
    | .own off => .ok (s.writeDst a (BitVec.ofNat 64 (s.curCore.poolRead off 8))).advance
    | .pool _ _ => .ok (s.issueLoad (.ld .d false) p 0 0 a none).advance
    | .global _ => .ok (s.issueLoad .ldv p 0 0 a none).advance

/-- LDT: the word's tag; 0 in rotation in any pool, another core's too, for which the table of R308 would leave A pending (R276,
R280; assumption log 25, DEDUCED). -/
def execLdt (g : Guard) (a b : Reg) (imm : BitVec 16) (s : State) : Out :=
  issue g s fun s => do
    s.checkRegs [b] [a] false
    let (x, s) ← s.read1 b
    let p := baseImm x imm
    let t ← s.checkAddr p 8 false
    need (a ≠ 29) illSpr
    s.waitDst a
    if t.isPool then .ok (s.writeDst a 0).advance else .ok (s.issueLoad .ldt p 0 0 a none).advance

/-- A cell store at an address: NOTAG in a pool, else posted (R276). -/
def cellStore (s : State) (p : Word) (k : StoreKind) (v : Word) : Iss State := do
  let t ← s.checkAddr p 8 true
  need (!t.isPool) (.fault { code := 21, addr := p })
  let e ← s.needEntry
  .ok (s.postStore e k p v 0).advance

/-- STF (R278). -/
def execStf (g : Guard) (a b : Reg) (imm : BitVec 16) (s : State) : Out :=
  issue g s fun s => do
    s.checkRegs [b, a] [] false
    let (x, v, s) ← s.read2 b a
    cellStore s (baseImm x imm) .stf v

/-- SSUS (R279). -/
def execSsus (g : Guard) (a b : Reg) (imm : BitVec 16) (s : State) : Out :=
  issue g s fun s => do
    s.checkRegs [b, a] [] false
    let (x, v, s) ← s.read2 b a
    cellStore s (baseImm x imm) .ssus v

/-- SEMP (R279). -/
def execSemp (g : Guard) (b : Reg) (imm : BitVec 16) (s : State) : Out :=
  issue g s fun s => do
    s.checkRegs [b] [] false
    let (x, s) ← s.read1 b
    cellStore s (baseImm x imm) .semp 0

end Sys2Proof.Machine
end

