-- ==== Sys2Proof/Machine/Fp.lean ====
section
/-! DEFINITION. Number formats: exact values, rounding and flags (07_number_formats R155 to R164, R170, R171). -/

namespace Sys2Proof.Machine

/-- The mode RNE of R158. -/
abbrev RMode := BitVec 2

/-- An exact value: NaN (signalling or quiet), an infinity, m · 2^e, or 2^(k/4) · 2^e with k 1 to 3 (R160). -/
inductive Num
  | nan (sig : Bool)
  | inf (neg : Bool)
  | fin (neg : Bool) (m : Nat) (e : Int)
  | root (neg : Bool) (k : Nat) (e : Int)
deriving DecidableEq, Repr

/-- Exponent and fraction widths of a binary floating-point format (R156). -/
def fpBits : Fmt → Option (Nat × Nat)
  | .f64 => some (11, 52)
  | .f32 => some (8, 23)
  | .f16 => some (5, 10)
  | .bf16 => some (8, 7)
  | _ => none

/-- The width of a format in bits (R155). -/
def fmtBits : Fmt → Nat
  | .i64 | .z64 | .f64 => 64
  | .i32 | .z32 | .f32 => 32
  | .f16 | .bf16 => 16
  | .lg6 => 6
  | .i8 => 8
  | .q4 => 4

/-- 2^n for an integer exponent, as a shift of `m` to a common exponent: m · 2^(e - lo), for lo ≤ e. -/
def alignTo (m : Nat) (e lo : Int) : Nat := m * 2 ^ (e - lo).toNat

/-- The integer square root, one bit of the result at a time from bit `k - 1` down. -/
def isqrtFrom : Nat → Nat → Nat → Nat
  | 0, r, _ => r
  | k + 1, r, n => if (r + 2 ^ k) * (r + 2 ^ k) ≤ n then isqrtFrom k (r + 2 ^ k) n else isqrtFrom k r n

/-- The integer square root of a number below 2^(2k). -/
def isqrt (k n : Nat) : Nat := isqrtFrom k 0 n

/-- The bits of 2^(k/4) kept below the point. -/
def rootBits : Nat := 192

/-- The integer part of 2^(k/4) · 2^rootBits. -/
def rootScaled (k : Nat) : Nat := isqrt 200 (isqrt 400 (2 ^ (k + 4 * rootBits)))

/-! ## Rounding (R158) -/

/-- Round half and more: `n` is the kept part, `rem` of `den` what is cut off. -/
def roundUp (mode : RMode) (neg : Bool) (n rem den : Nat) : Bool :=
  match mode.toNat with
  | 0 => den < 2 * rem || (2 * rem == den && n % 2 == 1)
  | 1 => false
  | 2 => !neg && rem ≠ 0
  | _ => neg && rem ≠ 0

/-- m · 2^e with a sticky part below the last bit, rounded to a multiple of 2^q: the multiple, and inexact. -/
def roundAt (mode : RMode) (neg : Bool) (m : Nat) (e : Int) (sticky : Bool) (q : Int) : Nat × Bool :=
  let m' := if sticky then 4 * m + 1 else m
  let e' := if sticky then e - 2 else e
  if q ≤ e' then (alignTo m' e' q, false)
  else
    let den := 2 ^ (q - e').toNat
    let n := m' / den
    let rem := m' % den
    (if roundUp mode neg n rem den then n + 1 else n, rem ≠ 0)

/-- The exponent of the leading bit of m · 2^e, m nonzero. -/
def leadExp (m : Nat) (e : Int) : Int := e + m.log2

/-- A result below the normal range after rounding with an unbounded exponent (R158). -/
def isTiny (mode : RMode) (neg : Bool) (m : Nat) (e : Int) (sticky : Bool) (fb : Nat) (emin : Int) : Bool :=
  let x := leadExp m e
  if emin ≤ x then false
  else if x + 1 < emin then true
  else (roundAt mode neg m e sticky (x - fb)).1 < 2 ^ (fb + 1)

/-- The bits of a finite value in a format of `eb` exponent and `fb` fraction bits, and its flags (R158). -/
def packFin (eb fb : Nat) (mode : RMode) (neg : Bool) (m : Nat) (e : Int) (sticky : Bool) : Nat × FpFlags :=
  let sign := if neg then 2 ^ (eb + fb) else 0
  if m = 0 && !sticky then (sign, 0)
  else
    let bias : Int := 2 ^ (eb - 1) - 1
    let emin : Int := 1 - bias
    let x := max (leadExp (max m 1) e) emin
    let (n, inexact) := roundAt mode neg m e sticky (x - fb)
    let mag := (x - emin).toNat * 2 ^ fb + n
    let top := (2 ^ eb - 1) * 2 ^ fb
    if top ≤ mag then
      let toInf := match mode.toNat with
        | 0 => true
        | 1 => false
        | 2 => !neg
        | _ => neg
      (sign + (if toInf then top else top - 1), flagOF ||| flagNX)
    else
      let uf := if inexact && isTiny mode neg (max m 1) e sticky fb emin then flagUF else 0
      (sign + mag, (if inexact then flagNX else 0) ||| uf)

/-- The canonical quiet NaN (R156). -/
def canonNaN (eb fb : Nat) : Nat := (2 ^ eb - 1) * 2 ^ fb + 2 ^ (fb - 1)

/-- The bits of an exact value in a binary floating-point format (R158, R171). A NaN raises nothing here. -/
def packFp (eb fb : Nat) (mode : RMode) : Num → Nat × FpFlags
  | .nan _ => (canonNaN eb fb, 0)
  | .inf neg => ((if neg then 2 ^ (eb + fb) else 0) + (2 ^ eb - 1) * 2 ^ fb, 0)
  | .fin neg m e => packFin eb fb mode neg m e false
  | .root neg k e => packFin eb fb mode neg (rootScaled k) (e - rootBits) true

/-- The exact value of the bits of a binary floating-point format (R156). -/
def unpackFp (eb fb : Nat) (b : Nat) : Num :=
  let neg := b.testBit (eb + fb)
  let x := b / 2 ^ fb % 2 ^ eb
  let f := b % 2 ^ fb
  let bias : Int := 2 ^ (eb - 1) - 1
  if x = 2 ^ eb - 1 then (if f = 0 then .inf neg else .nan (!f.testBit (fb - 1)))
  else if x = 0 then .fin neg f (1 - bias - fb)
  else .fin neg (f + 2 ^ fb) (x - bias - fb)

/-! ## LG6 (R160 to R162) -/

/-- The value of an LG6 code (R160). -/
def lg6Num (lxm : Bool) (code : Nat) : Num :=
  let neg := code.testBit 5
  let q := code % 32
  if q = 0 then (if lxm && neg then .nan false else .fin neg 0 0)
  else if lxm && q = 31 then .inf neg
  else
    let e : Int := (q / 4 : Nat) - 4
    if q % 4 = 0 then .fin neg 1 e else .root neg (q % 4) e

/-- The fractions of θ_1 to θ_4 with their hidden bit, as integers of 24 bits; θ_(q+4) = 2 · θ_q (R161). -/
def thetaMant (q : Nat) : Nat := [0x8B95C2, 0xA5FED7, 0xC5672A, 0xEAC0C7].getD ((q - 1) % 4) 0
/-- θ_q = thetaMant q · 2^(thetaExp q): θ_1 = 0x3D8B95C2 has the biased exponent 123 (R161). -/
def thetaExp (q : Nat) : Int := (123 : Int) + ((q - 1) / 4 : Nat) - 127 - 23

/-- m · 2^e ≥ θ_q for a magnitude whose part below its last bit is cut off (R162). -/
def geTheta (m : Nat) (e : Int) (q : Nat) : Bool :=
  let lo := min e (thetaExp q)
  alignTo (thetaMant q) (thetaExp q) lo ≤ alignTo m e lo

/-- The magnitude of a code q equals the value (R162). -/
def lg6Equals (q : Nat) (v : Num) : Bool :=
  match v with
  | .fin _ m e =>
    if q = 0 then m == 0
    else q % 4 == 0 && (let c : Int := (q / 4 : Nat) - 4
                        alignTo m e (min e c) == alignTo 1 c (min e c))
  | .root _ k e => q % 4 == k && decide (((q / 4 : Nat) : Int) - 4 = e)
  | _ => false

/-- A finite value encoded to LG6 from its sign, magnitude and exact value (R162). -/
def lg6Fin (lxm neg : Bool) (m : Nat) (e : Int) (v : Num) : Nat × FpFlags :=
  let n := ((List.range 32).filter fun i => geTheta m e (i + 1)).length
  let q := if lxm then (if n ≤ 30 then n else if n = 31 then 30 else 31) else min n 31
  let code := if q = 0 then 0 else (if neg then 32 else 0) + q
  let exactQ := lg6Equals q v && !(lxm && q == 31)
  let excess := n == 32 || (n == 31 && lxm)
  (code, (if exactQ then 0 else flagNX) ||| (if excess then flagOF ||| flagNX else 0) |||
    (if m ≠ 0 && n = 0 then flagUF ||| flagNX else 0))

/-- Encode to LG6 (R162). -/
def packLg6 (lxm : Bool) (v : Num) : Nat × FpFlags :=
  match v with
  | .nan _ => if lxm then (0x20, 0) else (0, flagNV)
  | .inf neg => ((if neg then 0x3F else 0x1F), if lxm then 0 else flagNV)
  | .fin neg m e => lg6Fin lxm neg m e v
  | .root neg k e => lg6Fin lxm neg (rootScaled k) (e - rootBits) v

/-! ## Integers and codebooks (R164, R170, R171) -/

/-- The least and greatest values of an integer format (R155). -/
def intRange : Fmt → Option (Int × Int)
  | .i64 => some (-(2 ^ 63), 2 ^ 63 - 1)
  | .i32 => some (-(2 ^ 31), 2 ^ 31 - 1)
  | .z64 => some (0, 2 ^ 64 - 1)
  | .z32 => some (0, 2 ^ 32 - 1)
  | .i8 => some (-128, 127)
  | _ => none

/-- An integer as an exact value. -/
def intNum (x : Int) : Num := .fin (decide (x < 0)) x.natAbs 0

/-- A value rounded to an integer, and inexact. -/
def roundInt (mode : RMode) (neg : Bool) (m : Nat) (e : Int) (sticky : Bool) : Int × Bool :=
  let (n, x) := roundAt mode neg m e sticky 0
  (if neg then -(n : Int) else n, x)

/-- A value encoded to a range of integers (R171). -/
def packInt (lo hi : Int) (mode : RMode) (v : Num) : Int × FpFlags :=
  let fit := fun (p : Int × Bool) =>
    if p.1 < lo then (lo, flagNV) else if hi < p.1 then (hi, flagNV) else (p.1, if p.2 then flagNX else 0)
  match v with
  | .nan _ => (0, flagNV)
  | .inf neg => (if neg then lo else hi, flagNV)
  | .fin neg m e => fit (roundInt mode neg m e false)
  | .root neg k e => fit (roundInt mode neg (rootScaled k) (e - rootBits) true)

/-- The codebook byte of a Q4 code (R164). -/
def codeByte (cbk0 cbk1 : Word) (c : Nat) : Int :=
  (if c < 8 then byteOf cbk0 c else byteOf cbk1 (c - 8)).toInt

/-- The lowest code whose codebook byte is nearest (R171). -/
def nearestCode (cbk0 cbk1 : Word) (x : Int) : Nat :=
  (List.range 16).foldl
    (fun b c => if (codeByte cbk0 cbk1 c - x).natAbs < (codeByte cbk0 cbk1 b - x).natAbs then c else b) 0

/-- A value equals an integer. -/
def numEqInt (v : Num) (x : Int) : Bool :=
  match v with
  | .fin neg m e =>
    let lo := min e 0
    let a : Int := alignTo m e lo
    (if neg then -a else a) == x * (alignTo 1 0 lo : Int)
  | _ => false

/-- A value encoded to Q4 (R171). -/
def packQ4 (cbk0 cbk1 : Word) (mode : RMode) (v : Num) : Nat × FpFlags :=
  let (x, f) := packInt (-128) 127 mode v
  let c := nearestCode cbk0 cbk1 x
  if f &&& flagNV ≠ 0 then (c, flagNV)
  else (c, if numEqInt v (codeByte cbk0 cbk1 c) then 0 else flagNX)

/-! ## Any format (R155) -/

/-- The state of a core that decoding and encoding depend on: LXM and the codebook (R109). -/
structure FmtCtx where
  lxm : Bool
  cbk0 : Word
  cbk1 : Word
deriving DecidableEq, Repr

/-- The exact value of the low bits of a word (R155, R170). -/
def decodeNum (x : FmtCtx) (f : Fmt) (b : Word) : Num :=
  match f with
  | .i64 => intNum b.toInt
  | .i32 => intNum (b.setWidth 32).toInt
  | .z64 => intNum b.toNat
  | .z32 => intNum (b.toNat % 2 ^ 32 : Nat)
  | .f64 => unpackFp 11 52 b.toNat
  | .f32 => unpackFp 8 23 (b.toNat % 2 ^ 32)
  | .f16 => unpackFp 5 10 (b.toNat % 2 ^ 16)
  | .bf16 => unpackFp 8 7 (b.toNat % 2 ^ 16)
  | .lg6 => lg6Num x.lxm (b.toNat % 64)
  | .i8 => intNum (b.setWidth 8).toInt
  | .q4 => intNum (codeByte x.cbk0 x.cbk1 (b.toNat % 16))

/-- A signalling NaN raises NV when it is converted (R158, R170). -/
def sigFlag : Num → FpFlags
  | .nan true => flagNV
  | _ => 0

/-- A value encoded in a format, as a register image, with its flags (R155, R171). -/
def encodeNum (x : FmtCtx) (f : Fmt) (mode : RMode) (v : Num) : Word × FpFlags :=
  match f with
  | .i64 | .i32 | .z64 | .z32 | .i8 =>
    let (lo, hi) := (intRange f).getD (0, 0)
    let (n, fl) := packInt lo hi mode v
    (BitVec.ofInt 64 n, fl)
  | .f64 | .f32 | .f16 | .bf16 =>
    let (eb, fb) := (fpBits f).getD (11, 52)
    let (n, fl) := packFp eb fb mode v
    (BitVec.ofNat 64 n, fl)
  | .lg6 =>
    let (n, fl) := packLg6 x.lxm v
    (BitVec.ofNat 64 n, fl)
  | .q4 =>
    let (n, fl) := packQ4 x.cbk0 x.cbk1 mode v
    (BitVec.ofNat 64 n, fl)

/-- v · 2^s (R170). -/
def Num.scale (v : Num) (s : Int) : Num :=
  match v with
  | .fin neg m e => .fin neg m (e + s)
  | .root neg k e => .root neg k (e + s)
  | v => v

/-- An infinity converted to a floating-point format stands in the column of R171 that raises OF and NX (assumption log 37,
DEDUCED). -/
def infFlags (dst : Fmt) : Num → FpFlags
  | .inf _ => if (fpBits dst).isSome then flagOF ||| flagNX else 0
  | _ => 0

/-- The conversion of CVT (R170, R171). -/
def convert (x : FmtCtx) (dst src : Fmt) (mode : RMode) (s : Int) (b : Word) : Word × FpFlags :=
  let v := decodeNum x src b
  let (w, f) := encodeNum x dst mode (v.scale s)
  (w, f ||| sigFlag v ||| infFlags dst v)

/-! ## Arithmetic (R158, R165, R166) -/

/-- A NaN. -/
def Num.isNaN : Num → Bool
  | .nan _ => true
  | _ => false

/-- The sign of an exact zero sum (R158). -/
def zeroSum (mode : RMode) (n1 n2 : Bool) : Num := .fin (if n1 == n2 then n1 else mode == 3) 0 0

/-- The exact sum of two values that are not NaN; none for ∞ - ∞ (R158). -/
def addNum (mode : RMode) (a b : Num) : Option Num :=
  match a, b with
  | .inf n1, .inf n2 => if n1 == n2 then some (.inf n1) else none
  | .inf n, _ => some (.inf n)
  | _, .inf n => some (.inf n)
  | .fin n1 m1 e1, .fin n2 m2 e2 =>
    let lo := min e1 e2
    let x : Int := alignTo m1 e1 lo
    let y : Int := alignTo m2 e2 lo
    let t := (if n1 then -x else x) + (if n2 then -y else y)
    if t = 0 then some (if m1 = 0 && m2 = 0 then zeroSum mode n1 n2 else .fin (mode == 3) 0 0)
    else some (.fin (decide (t < 0)) t.natAbs lo)
  | a, _ => some a

/-- The exact product of two values that are not NaN; none for 0 × ∞ (R158). -/
def mulNum (a b : Num) : Option Num :=
  match a, b with
  | .inf n1, .inf n2 => some (.inf (n1 != n2))
  | .inf n1, .fin n2 m _ => if m = 0 then none else some (.inf (n1 != n2))
  | .fin n1 m _, .inf n2 => if m = 0 then none else some (.inf (n1 != n2))
  | .fin n1 m1 e1, .fin n2 m2 e2 => some (.fin (n1 != n2) (m1 * m2) (e1 + e2))
  | a, _ => some a

/-- -v. -/
def Num.neg : Num → Num
  | .inf n => .inf (!n)
  | .fin n m e => .fin (!n) m e
  | v => v

/-- A binary floating-point format. -/
structure FpFmt where
  eb : Nat
  fb : Nat
deriving DecidableEq, Repr

/-- The format of a scalar instruction (R165). -/
def fpOf (d : Bool) : FpFmt := if d then ⟨11, 52⟩ else ⟨8, 23⟩

/-- The canonical NaN as a register image. -/
def FpFmt.qnan (f : FpFmt) : Word := BitVec.ofNat 64 (canonNaN f.eb f.fb)
/-- The exact value of a register image. -/
def FpFmt.num (f : FpFmt) (b : Word) : Num := unpackFp f.eb f.fb (b.toNat % 2 ^ (f.eb + f.fb + 1))
/-- The register image of a rounded value. -/
def FpFmt.pack (f : FpFmt) (mode : RMode) (v : Num) : Word × FpFlags :=
  let (n, fl) := packFp f.eb f.fb mode v
  (BitVec.ofNat 64 n, fl)

/-- NV of signalling operands (R158). -/
def sigs (vs : List Num) : FpFlags := if vs.any (· == .nan true) then flagNV else 0

/-- An arithmetic result: the canonical NaN for any NaN operand, NV for an invalid operation (R157, R158, R166). -/
def FpFmt.finish (f : FpFmt) (mode : RMode) (vs : List Num) (r : Option Num) : Word × FpFlags :=
  if vs.any Num.isNaN then (f.qnan, sigs vs)
  else match r with
    | none => (f.qnan, flagNV)
    | some v => f.pack mode v

/-- b + c (R165). -/
def FpFmt.add (f : FpFmt) (mode : RMode) (b c : Word) : Word × FpFlags :=
  f.finish mode [f.num b, f.num c] (addNum mode (f.num b) (f.num c))
/-- b - c (R165). -/
def FpFmt.sub (f : FpFmt) (mode : RMode) (b c : Word) : Word × FpFlags :=
  f.finish mode [f.num b, f.num c] (addNum mode (f.num b) (f.num c).neg)
/-- b × c (R165). -/
def FpFmt.mul (f : FpFmt) (mode : RMode) (b c : Word) : Word × FpFlags :=
  f.finish mode [f.num b, f.num c] (mulNum (f.num b) (f.num c))

/-- b × c + a, rounded once; 0 × ∞ raises NV even beside a quiet NaN (R158, R165). -/
def FpFmt.fma (f : FpFmt) (mode : RMode) (b c a : Word) : Word × FpFlags :=
  let x := f.num b
  let y := f.num c
  let z := f.num a
  if x.isNaN || y.isNaN then (f.qnan, sigs [x, y, z])
  else match mulNum x y with
    | none => (f.qnan, flagNV)
    | some p => f.finish mode [z] (addNum mode p z)

/-- The quotient bits kept before rounding. -/
def divBits : Nat := 140

/-- b ÷ c (R158, R165). -/
def FpFmt.div (f : FpFmt) (mode : RMode) (b c : Word) : Word × FpFlags :=
  match f.num b, f.num c with
  | .nan s1, y => (f.qnan, sigs [.nan s1, y])
  | x, .nan s2 => (f.qnan, sigs [x, .nan s2])
  | .inf _, .inf _ => (f.qnan, flagNV)
  | .inf n1, .fin n2 _ _ => f.pack mode (.inf (n1 != n2))
  | .fin n1 _ _, .inf n2 => f.pack mode (.fin (n1 != n2) 0 0)
  | .fin n1 m1 e1, .fin n2 m2 e2 =>
    if m2 = 0 then (if m1 = 0 then (f.qnan, flagNV) else ((f.pack mode (.inf (n1 != n2))).1, flagDZ))
    else
      let t := m1 * 2 ^ divBits
      let (n, fl) := packFin f.eb f.fb mode (n1 != n2) (t / m2) (e1 - e2 - divBits) (t % m2 ≠ 0)
      (BitVec.ofNat 64 n, fl)
  | _, _ => (f.qnan, 0)

/-- The square root of m · 2^e, m nonzero (R158): more than 100 bits of it, with a sticky part. -/
def sqrtFin (m : Nat) (e : Int) : Nat × Int × Bool :=
  let odd := e % 2 ≠ 0
  let m := (if odd then 2 * m else m) * 2 ^ 200
  let e := (if odd then e - 1 else e) - 200
  let r := isqrt 140 m
  (r, e / 2, r * r ≠ m)

/-- √b (R158, R165). -/
def FpFmt.sqrt (f : FpFmt) (mode : RMode) (b : Word) : Word × FpFlags :=
  match f.num b with
  | .nan s => (f.qnan, sigs [.nan s])
  | .inf neg => if neg then (f.qnan, flagNV) else f.pack mode (.inf false)
  | .fin neg m e =>
    if m = 0 then f.pack mode (.fin neg 0 0)
    else if neg then (f.qnan, flagNV)
    else
      let (r, x, sticky) := sqrtFin m e
      let (n, fl) := packFin f.eb f.fb mode false r x sticky
      (BitVec.ofNat 64 n, fl)
  | _ => (f.qnan, 0)

/-- The order of two values that are not NaN, -0 below +0 when `zeros` says so: a < b. -/
def numLt (zeros : Bool) (a b : Num) : Bool :=
  match a, b with
  | .inf n1, .inf n2 => n1 && !n2
  | .inf n, _ => n
  | _, .inf n => !n
  | .fin n1 m1 e1, .fin n2 m2 e2 =>
    let lo := min e1 e2
    let x : Int := alignTo m1 e1 lo
    let y : Int := alignTo m2 e2 lo
    let x := if n1 then -x else x
    let y := if n2 then -y else y
    if zeros && x = 0 && y = 0 then n1 && !n2 else decide (x < y)
  | _, _ => false

/-- The image of a value of the format, high bits cleared (R155). -/
def FpFmt.image (f : FpFmt) (b : Word) : Word := zextN (f.eb + f.fb + 1) b

/-- FMIN and FMAX (R166). -/
def FpFmt.minMax (f : FpFmt) (mx : Bool) (b c : Word) : Word × FpFlags :=
  let x := f.num b
  let y := f.num c
  let fl := sigs [x, y]
  if x.isNaN && y.isNaN then (f.qnan, fl)
  else if x.isNaN then (f.image c, fl)
  else if y.isNaN then (f.image b, fl)
  else
    let takeC := if mx then numLt true x y else numLt true y x
    (if takeC then f.image c else f.image b, fl)

/-- FABS and FNEG (R166). -/
def FpFmt.signOp (f : FpFmt) (neg : Bool) (b : Word) : Word :=
  if (f.num b).isNaN then f.qnan
  else
    let i := f.eb + f.fb
    setBitN (f.image b) i (if neg then !b.getLsbD i else false)

/-- The class bit of FCLASS (R167). -/
def FpFmt.classOf (f : FpFmt) (b : Word) : Nat :=
  match f.num b with
  | .nan s => if s then 8 else 9
  | .inf n => if n then 0 else 7
  | .fin n m _ =>
    if m = 0 then (if n then 3 else 4)
    else if m < 2 ^ f.fb then (if n then 2 else 5)
    else if n then 1 else 6
  | .root _ _ _ => 9

/-- The comparisons of FCMP: result and flags (R168). -/
def FpFmt.cmp (f : FpFmt) (k : FCond) (b c : Word) : Bool × FpFlags :=
  let x := f.num b
  let y := f.num c
  let un := x.isNaN || y.isNaN
  let nv : FpFlags := match k with
    | .lt | .le => if un then flagNV else 0
    | _ => sigs [x, y]
  let r := match k with
    | .eq => !un && !numLt false x y && !numLt false y x
    | .lt => !un && numLt false x y
    | .le => !un && !numLt false y x
    | .un => un
    | .ne => un || numLt false x y || numLt false y x
  (r, nv)

/-- FRND (R172). -/
def FpFmt.toIntegral (f : FpFmt) (mode : RMode) (b : Word) : Word × FpFlags :=
  match f.num b with
  | .nan s => (f.qnan, sigs [.nan s])
  | .inf _ => (f.image b, 0)
  | .fin neg m e =>
    let (n, x) := roundAt mode neg m e false 0
    if x then ((f.pack mode (.fin neg n 0)).1, flagNX) else (f.image b, 0)
  | .root _ _ _ => (f.image b, 0)

/-! ## Random numbers (R173, R174) -/

/-- One round of Philox-4×32 (R173). -/
def philoxRound (k0 k1 : BitVec 32) (x : BitVec 32 × BitVec 32 × BitVec 32 × BitVec 32) :
    BitVec 32 × BitVec 32 × BitVec 32 × BitVec 32 :=
  let (x0, x1, x2, x3) := x
  let p : Word := 0xD2511F53#64 * x0.setWidth 64
  let q : Word := 0xCD9E8D57#64 * x2.setWidth 64
  (q.extractLsb' 32 32 ^^^ x1 ^^^ k0, q.extractLsb' 0 32, p.extractLsb' 32 32 ^^^ x3 ^^^ k1, p.extractLsb' 0 32)

/-- Rounds of Philox, the key stepping after each (R173). -/
def philoxRounds : Nat → BitVec 32 → BitVec 32 → BitVec 32 × BitVec 32 × BitVec 32 × BitVec 32 →
    BitVec 32 × BitVec 32 × BitVec 32 × BitVec 32
  | 0, _, _, x => x
  | n + 1, k0, k1, x => philoxRounds n (k0 + 0x9E3779B9#32) (k1 + 0xBB67AE85#32) (philoxRound k0 k1 x)

/-- RNGP: lanes 0 and 1, lanes 2 and 3 (R173). -/
def philox (key c d : Word) : Word × Word :=
  let (x0, x1, x2, x3) := philoxRounds 10 (key.extractLsb' 0 32) (key.extractLsb' 32 32)
    (c.extractLsb' 0 32, c.extractLsb' 32 32, d.extractLsb' 0 32, d.extractLsb' 32 32)
  (x1 ++ x0, x3 ++ x2)

/-- f32(n · 2^-24) for 24 bits (R174). -/
def unit24 (n : Nat) : BitVec 32 := BitVec.ofNat 32 (packFin 8 23 0 false n (-24) false).1

/-- RNGF (R174). -/
def uniforms (b : Word) : Word := unit24 (fld b 63 40) ++ unit24 (fld b 31 8)

end Sys2Proof.Machine
end

