-- ==== Sys2Proof/Machine/Curve.lean ====
section
/-! DEFINITION. Curve codes (08_curve_codes R176 to R186; 28_errata R454). -/

namespace Sys2Proof.Machine

/-- The number of axes (R178). -/
def axesOf (n1 : BitVec 3) : Nat := n1.toNat + 1
/-- The axis width w (R176). -/
def axisWidth (n : Nat) : Nat := 64 / n
/-- The code bits of a word (R176). -/
def codeOf (n : Nat) (b : Word) : Nat := b.toNat % 2 ^ (n * axisWidth n)
/-- maxcode (R176). -/
def maxCode (n : Nat) : Nat := 2 ^ (n * axisWidth n) - 1

/-- axis(x, a) (R177). -/
def axisVal (n a x : Nat) : Nat :=
  ((List.range (axisWidth n)).map fun k => if x.testBit (k * n + a) then 2 ^ k else 0).sum

/-- The code bits of one axis with value v mod 2^w. -/
def spread (n a v : Nat) : Nat :=
  ((List.range (axisWidth n)).map fun k => if v.testBit k then 2 ^ (k * n + a) else 0).sum

/-- interleave (R177). -/
def interleave (n : Nat) (f : Nat → Nat) : Nat := ((List.range n).map fun a => spread n a (f a)).sum

/-- The mask of an axis's bits: M_a of R181. -/
def axisMask (n a : Nat) : Nat := spread n a (2 ^ axisWidth n - 1)

/-! ## COP (R179 to R181) -/

/-- CENC (R179). -/
def curveEnc (n : Nat) (b : Word) : Word :=
  let w := axisWidth n
  BitVec.ofNat 64 (interleave n fun a => b.toNat / 2 ^ (a * w) % 2 ^ w)
/-- CDEC (R179). -/
def curveDec (n : Nat) (b : Word) : Word :=
  BitVec.ofNat 64 (((List.range n).map fun a => axisVal n a b.toNat * 2 ^ (a * axisWidth n)).sum)
/-- CINS (R179). -/
def curveIns (n ax : Nat) (b c : Word) : Word :=
  BitVec.ofNat 64 (interleave n fun a => if a = ax then c.toNat else axisVal n a b.toNat)
/-- CEXT (R179). -/
def curveExt (n ax : Nat) (b : Word) : Word := BitVec.ofNat 64 (axisVal n ax b.toNat)
/-- CLVL (R180). -/
def curveLvl (n lv : Nat) (b : Word) : Word :=
  let x := codeOf n b
  BitVec.ofNat 64 (x / 2 ^ (lv * n) * 2 ^ (lv * n))
/-- CPAR (R180). -/
def curvePar (n : Nat) (b : Word) : Word := BitVec.ofNat 64 (codeOf n b / 2 ^ n)

/-- The exact sum or difference of one axis (R181). -/
def axisSum (n : Nat) (sgn sub : Bool) (b c : Word) (a : Nat) : Int :=
  let w := axisWidth n
  let x : Int := axisVal n a b.toNat
  let y : Int := axisVal n a c.toNat
  let y := if sgn && 2 ^ (w - 1) ≤ y then y - 2 ^ w else y
  if sub then x - y else x + y

/-- CADD and CSUB: the code, and the carry of each axis (R181). -/
def curveAdd (n : Nat) (sgn sub : Bool) (b c : Word) : Word × List Bool :=
  let w := axisWidth n
  let t := axisSum n sgn sub b c
  (BitVec.ofNat 64 (interleave n fun a => (t a % 2 ^ w).toNat),
   (List.range n).map fun a => decide (t a < 0) || decide (2 ^ w ≤ t a))

/-- Predicates p0 on from a list (R181). -/
def Slot.setPs (x : Slot) (ps : List Bool) : Slot :=
  (ps.foldl (fun (q : Slot × Nat) p => (q.1.setP (BitVec.ofNat 3 q.2) p, q.2 + 1)) (x, 0)).1

/-- CADD and CSUB (R181). -/
def copAdd (s : State) (n1 : BitVec 3) (sgn sub : Bool) (a b c : Reg) : Iss State := do
  s.checkRegs [b, c] [a] false
  let (x, y, s) ← s.read2 b c
  s.waitDst a
  let (v, ps) := curveAdd (axesOf n1) sgn sub x y
  .ok ((s.modCur fun z => z.setPs ps).writeDst a v).advance

/-- A COP form of one source. -/
def copOp1 (s : State) (a b : Reg) (f : Word → Word) : Iss State := do
  s.checkRegs [b] [a] false
  let (x, s) ← s.read1 b
  s.waitDst a
  .ok (s.writeDst a (f x)).advance

/-- CADD (R181). -/
def execCadd (g : Guard) (n1 : BitVec 3) (sgn : Bool) (a b c : Reg) (s : State) : Out :=
  issue g s fun s => copAdd s n1 sgn false a b c
/-- CSUB (R181). -/
def execCsub (g : Guard) (n1 : BitVec 3) (sgn : Bool) (a b c : Reg) (s : State) : Out :=
  issue g s fun s => copAdd s n1 sgn true a b c
/-- CINS (R179). -/
def execCins (g : Guard) (n1 : BitVec 3) (a b c : Reg) (axis : BitVec 3) (s : State) : Out :=
  issue g s fun s => do
    s.checkRegs [b, c] [a] false
    let (x, y, s) ← s.read2 b c
    s.waitDst a
    .ok (s.writeDst a (curveIns (axesOf n1) axis.toNat x y)).advance
/-- CEXT (R179). -/
def execCext (g : Guard) (n1 : BitVec 3) (a b : Reg) (axis : BitVec 3) (s : State) : Out :=
  issue g s fun s => copOp1 s a b (curveExt (axesOf n1) axis.toNat)
/-- CLVL (R180). -/
def execClvl (g : Guard) (n1 : BitVec 3) (a b : Reg) (level : BitVec 6) (s : State) : Out :=
  issue g s fun s => copOp1 s a b (curveLvl (axesOf n1) level.toNat)
/-- CENC (R179). -/
def execCenc (g : Guard) (n1 : BitVec 3) (a b : Reg) (s : State) : Out :=
  issue g s fun s => copOp1 s a b (curveEnc (axesOf n1))
/-- CDEC (R179). -/
def execCdec (g : Guard) (n1 : BitVec 3) (a b : Reg) (s : State) : Out :=
  issue g s fun s => copOp1 s a b (curveDec (axesOf n1))
/-- CPAR (R180). -/
def execCpar (g : Guard) (n1 : BitVec 3) (a b : Reg) (s : State) : Out :=
  issue g s fun s => copOp1 s a b (curvePar (axesOf n1))

/-! ## Boxes (R182) -/

/-- Axis a of x is at most that of y: codes masked to one axis order as the axis values do. -/
def axisLe (n a x y : Nat) : Bool := (x &&& axisMask n a) ≤ (y &&& axisMask n a)

/-- The box of lo and hi holds x (R182). -/
def inBox (n lo hi x : Nat) : Bool := (List.range n).all fun a => axisLe n a lo x && axisLe n a x hi

/-- A box that holds no code (R182). -/
def boxEmpty (n lo hi : Nat) : Bool := (List.range n).any fun a => !axisLe n a lo hi

/-- The aligned block of 2^j codes from `base` lies wholly inside the box. -/
def blockInside (n lo hi base j : Nat) : Bool := inBox n lo hi base && inBox n lo hi (base + (2 ^ j - 1))

/-- No code of the block lies inside the box, which is not empty. -/
def blockOutside (n lo hi base j : Nat) : Bool :=
  (List.range n).any fun a => !axisLe n a lo (base + (2 ^ j - 1)) || !axisLe n a base hi

/-- The smallest code of a block that lies inside the box and is at least x (R185). -/
def nextIn (n lo hi x : Nat) : Nat → Nat → Option Nat
  | 0, base => if x ≤ base && inBox n lo hi base then some base else none
  | j + 1, base =>
    if base + (2 ^ (j + 1) - 1) < x || blockOutside n lo hi base (j + 1) then none
    else if blockInside n lo hi base (j + 1) then some (max base x)
    else match nextIn n lo hi x j base with
      | some y => some y
      | none => nextIn n lo hi x j (base + 2 ^ j)

/-- CNEXT: the next code, and p0 (R185). -/
def curveNext (n : Nat) (b c d : Word) : Word × Bool :=
  let lo := codeOf n c
  let hi := codeOf n d
  if boxEmpty n lo hi then (BitVec.allOnes 64, false)
  else match nextIn n lo hi (codeOf n b) (n * axisWidth n) 0 with
    | some y => (BitVec.ofNat 64 y, true)
    | none => (BitVec.allOnes 64, false)

/-- A run added to a list kept last first: it joins the run that ends just before it. -/
def addRun (rs : List (Nat × Nat)) (a b : Nat) : List (Nat × Nat) :=
  match rs with
  | (s, e) :: t => if e + 1 = a then (s, b) :: t else (a, b) :: rs
  | [] => [(a, b)]

/-- The runs of the box within a block, from x on, added to a list kept last first, until it holds `most` (R186). -/
def runsIn (n lo hi x most : Nat) : Nat → Nat → List (Nat × Nat) → List (Nat × Nat)
  | 0, base, rs => if x ≤ base && inBox n lo hi base && rs.length < most then addRun rs base base else rs
  | j + 1, base, rs =>
    let top := base + (2 ^ (j + 1) - 1)
    if most ≤ rs.length || top < x || blockOutside n lo hi base (j + 1) then rs
    else if blockInside n lo hi base (j + 1) then addRun rs (max base x) top
    else runsIn n lo hi x most j (base + 2 ^ j) (runsIn n lo hi x most j base rs)

/-- The runs of the box from x on, ascending, up to one more than M of them (R186). -/
def runsOf (n lo hi x m : Nat) : List (Nat × Nat) :=
  if boxEmpty n lo hi then [] else (runsIn n lo hi x (m + 1) (n * axisWidth n) 0 []).reverse

/-- The entries that CSPLIT writes, its count and p0 (R186), with the extra entry of erratum E1 (R454). -/
def splitOf (n lo hi x m : Nat) : List (Word × Word) × Bool :=
  let rs := runsOf n lo hi x m
  let w := fun (r : Nat × Nat) => (BitVec.ofNat 64 r.1, BitVec.ofNat 64 r.2)
  let es := (rs.take m).map w
  let full := axisVal 7 6 lo = 0 && axisVal 7 6 hi = 511
  if n = 7 && full && rs.length < m then
    let last := match es.getLast? with
      | some (_, e) => e
      | none => BitVec.ofNat 64 x - 1
    (es ++ [(last + 1, last)], true)
  else (es, rs.length ≤ m)

/-! ## CBOX, CNEXT, CSPLIT (R184 to R186) -/

/-- CBOX (R184). -/
def execCbox (g : Guard) (n1 : BitVec 3) (p : Pred) (b c d : Reg) (s : State) : Out :=
  issue g s fun s => do
    s.checkRegs [b, c, d] [] false
    let (x, lo, hi, s) ← s.read3 b c d
    let n := axesOf n1
    .ok (s.modCur fun z => z.setP p (inBox n (codeOf n lo) (codeOf n hi) (codeOf n x))).advance

/-- CNEXT (R185). -/
def execCnext (g : Guard) (n1 : BitVec 3) (a b c d : Reg) (s : State) : Out :=
  issue g s fun s => do
    s.checkRegs [b, c, d] [a] false
    let (x, lo, hi, s) ← s.read3 b c d
    s.waitDst a
    let (v, p) := curveNext (axesOf n1) x lo hi
    .ok ((s.modCur fun z => z.setP 0 p).writeDst a v).advance

/-- The entries of a running CSPLIT. -/
def CurveCmd.split (x : CurveCmd) : List (Word × Word) × Bool :=
  let n := axesOf x.n1
  splitOf n (codeOf n x.lo) (codeOf n x.hi) (codeOf n x.start) x.m

/-- The curve-list unit takes up the first CSPLIT that waits, if it is free and its member has not been killed (R186). -/
def State.nextCurve (s : State) (u : UnitId) : State :=
  let c := s.core u
  match c.curve, c.curves.dropWhile c.curveDead with
  | some _, _ => s
  | none, [] => s.modCore u fun c => { c with curves := [] }
  | none, k :: ks =>
    let len := k.split.1.length
    let til := s.cycle + 4 + len
    let s := s.modCore u fun c => { c with curve := some { k with til := til }, curves := ks }
    let s := (List.range len).foldl (fun s j => s.schedule (s.cycle + 4 + j) rankUnit .csplitCompletion (.tid u k.tid j)) s
    s.schedule til rankUnit .csplitCompletion (.tid u k.tid len)

/-- The curve-list unit is free: the next CSPLIT is taken up. -/
def State.freeCurve (s : State) (u : UnitId) : State := (s.modCore u fun c => { c with curve := none }).nextCurve u

/-- CSPLIT: the checks of R186, then the member is suspended until the unit has finished. -/
def execCsplit (g : Guard) (n1 : BitVec 3) (a b c d : Reg) (off : BitVec 17) (m1 : BitVec 8) (s : State) : Out :=
  issue g s fun s => do
    s.checkRegs [b, c, d] [a] false
    let (x, lo, hi, s) ← s.read3 b c d
    let u := s.curUnit
    let o := off.toNat
    let m := m1.toNat + 1
    let at_ := ownAddr o
    need (o % 16 = 0) (alignFault at_)
    need (s.curCore.inScratch (poolSize u) o (16 * m)) (boundsFault at_)
    need (!s.curCore.rangeLocked at_ (16 * m) true) (.fault { code := 13, addr := at_ })
    s.waitDst a
    let (tid, s) := s.fresh
    let k : CurveCmd := { who := s.curWho, tid := tid, dest := a, n1 := n1, start := x, lo := lo, hi := hi, off := o, m := m, til := 0 }
    .ok (((s.beginTrip .reply a).modCurCore fun c => { c with curves := c.curves ++ [k] }).nextCurve u)

/-- The result of a CSPLIT for the work in a slot: the slot, the count and p0. -/
def splitResult (i n : Nat) (p : Bool) : Word := BitVec.ofNat 64 (n + 2 ^ 16 * i + if p then 2 ^ 32 else 0)

/-- A and p0 are written together and the member goes on at the next head (R186). -/
def State.splitDone (s : State) (u : UnitId) (r : Word) : State :=
  let i := fld r 23 16
  let s := s.modSlot u i fun x => x.setP 0 (r.getLsbD 32)
  s.complete u i (s.slot u i).replyDest (BitVec.ofNat 64 (fld r 15 0))

/-- CSPLIT_COMPLETION (R186): entry `j` is written whole in its cycle; after the last one A and p0 are written together. For a
killed member the entry of the cycle of its kill is the last. The entry is written before the issues of its cycle, so the bytes
of another slot's store of that cycle stay, where R186 does not say which do (assumption log 19, DESIGN CHOICE). -/
def execCsplitCompletion (s : State) : Out :=
  match s.arg with
  | .unit u => .next (if (s.core u).curve.any fun k => k.killed.isSome then s.freeCurve u else s)
  | .tid u tid j =>
    match (s.core u).curve with
    | none => .next s
    | some k =>
      if k.tid ≠ tid ∨ k.killed.any (· ≠ s.cycle) then .next s
      else
        let i := k.who.slot
        let (es, p) := k.split
        match es[j]? with
        | some (a, b) => .next (s.modCore u fun c => (c.setPoolWord (k.off + 16 * j) a).setPoolWord (k.off + 16 * j + 8) b)
        | none =>
          let s := s.freeCurve u
          let r := splitResult i es.length p
          match (s.slot u i).seat k.who.sgen with
          | .gone => .next s
          | .folded f => .next (s.modSlot u i fun x => x.holdFor f ⟨.csplitCompletion, .unitWord u r⟩)
          | .occupant => .next (s.splitDone u r)
  | .unitWord u r => .next (s.splitDone u r)
  | _ => .next s

end Sys2Proof.Machine
end

