-- ==== Sys2Proof/Machine/Engine.lean ====
section
/-! DEFINITION. What the engines share: range locks, tokens, and writes to the pool
(11_pool R202; 19_engine R340, R351; 21_tables R373). -/

namespace Sys2Proof.Machine

/-- Owners of range locks (R373). -/
def ownerVec : Nat := 0
def ownerMat : Nat := 1
def ownerChan (ch : Nat) : Nat := 2 + ch

/-- A range of own-pool bytes as a lock (R351). -/
def poolLock (dst : Bool) (owner tid off n : Nat) : RangeLock :=
  { dst := dst, owner := owner, tid := tid, lo := ownAddr off, hi := ownAddr (off + n - 1) }

/-- Room for more range locks, or the wait for it (R340). -/
def Core.needLocks (c : Core) (n : Nat) : Iss Unit := need (c.locks.length + n ≤ 16) (.wait .locks)

/-- Register a command's ranges. -/
def State.addLocks (s : State) (u : UnitId) (ls : List RangeLock) : State :=
  s.modCore u fun c => { c with locks := c.locks ++ ls }

/-- A command's ranges and shields are freed; those that wait for a queue or for ranges try again (R307, R340). -/
def State.freeLocks (s : State) (u : UnitId) (tid : Nat) (q : Wait) : State :=
  (s.modCore u fun c =>
    { c with locks := c.locks.filter (·.tid ≠ tid), shields := c.shields.filter (·.1 ≠ tid) }).wakeWhere u
      fun w => w == .locks || w == q

/-- A command's token: A pends until it lands (R206, R221, R344). -/
def State.addToken (s : State) (tid : Nat) (a : Reg) : State :=
  let o : Outst :=
    { tid := tid, who := s.curWho, pc := s.cur.pc, kind := .token, dest := a, dest2 := none, load := false, noticed := false, accepted := false,
      refusals := 0, parked := false, failed := false, h := noHandler, words := [] }
  (s.addOut s.curUnit o).pendDst a

/-- Land a token with its flags (R206). -/
def State.landToken (s : State) (u : UnitId) (tid : Nat) (v : Word) (f : FpFlags) : State := s.land ⟨u, tid, .val v 0 f⟩

/-- The bytes that another engine's running or queued command also writes: for each, it is left open whose value
stays (R202). Those that stay with this command are shielded from the other. A command that has already completed, observed or
not, loses to the later one, where R202 leaves it open when nobody observed the completion (assumption log 1, DESIGN CHOICE). -/
def State.raceShields (s : State) (u : UnitId) (owner off n : Nat) : State :=
  let c := s.core u
  let others := c.locks.filter fun k =>
    k.dst && k.owner ≠ owner && overlap (ownAddr off).toNat (ownAddr (off + n - 1)).toNat k.lo.toNat k.hi.toNat
  others.foldl
    (fun s k =>
      let meet := (List.range n).filter fun i => k.lo.toNat ≤ (ownAddr (off + i)).toNat && (ownAddr (off + i)).toNat ≤ k.hi.toNat
      let won := meet.filter fun i => Config.poolRace (s.freeCtr + i)
      { s.modCore u fun c => { c with shields := c.shields ++ won.map fun i => (k.tid, off + i) } with
        freeCtr := s.freeCtr + n }) s

/-- An engine command writes pool bytes (R202). -/
def State.enginePut (s : State) (u : UnitId) (owner tid off : Nat) (bs : List Byte) : State :=
  if bs = [] then s
  else
    let s := s.raceShields u owner off bs.length
    let c := s.core u
    if c.shields.any (·.1 == tid) then
      let go := (bs.zipIdx.filter fun b => !c.shields.contains (tid, off + b.2))
      s.modCore u fun c => go.foldl (fun c b => c.setPoolByte (off + b.2) b.1) c
    else s.modCore u fun c => c.poolWrite off bs

/-- The offset an operand register gives: bits above [16:0] are the pool-bounds fault (R205, R218). -/
def offsetOf (v : Word) : Iss Nat := do
  need (v.toNat < 2 ^ 17) (boundsFault v)
  .ok v.toNat

end Sys2Proof.Machine
end

