-- ==== Sys2Proof/Machine/Copy.lean ====
section
/-! DEFINITION. The copy channels as they issue, and a channel's turns, reads and completion
(19_engine_queues R340 to R350; 15_ordering R295). -/

namespace Sys2Proof.Machine

/-! ## Channels -/

def Core.chan (c : Core) (ch : Nat) : Channel := aget {} c.chans ch
def State.modChan (s : State) (u : UnitId) (ch : Nat) (f : Channel → Channel) : State :=
  s.modCore u fun c => { c with chans := aput c.chans ch (f (c.chan ch)) }

/-- The command a channel runs or will run next: the first of its own in the queue (R344). -/
def Core.chanHead (c : Core) (ch : Nat) : Option XCmd := c.xq.find? (·.ch == ch)

/-! ## Shape records (R346, R348) -/

/-- A validated shape: curve axes, log2 of the element size, and extent, source stride and destination stride of each
dimension. -/
structure Shape where
  curve : Nat
  esz : Nat
  dims : List (Nat × Int × Int)
deriving DecidableEq, Repr

/-- The dimensions that element order takes one by one. -/
def Shape.flat (x : Shape) : List (Nat × Int × Int) := x.dims.drop x.curve

/-- The box of the curve's dimensions: the code of its last element. -/
def Shape.curveEnd (x : Shape) : Nat := interleave x.curve fun a => (x.dims.getD a (1, 0, 0)).1 - 1

/-- Elements of the shape. -/
def Shape.count (x : Shape) : Nat := (x.dims.map (·.1)).foldl (· * ·) 1

/-- The extremes of a sum of extents times strides. -/
def extremes (ds : List (Nat × Int)) : Int × Int :=
  ds.foldl (fun p d => let t : Int := ((d.1 : Int) - 1) * d.2; (p.1 + min t 0, p.2 + max t 0)) (0, 0)

/-- The footprints of R348: source and destination, first and last byte. -/
def Shape.footprints (x : Shape) (dst src : Word) : (Int × Int) × (Int × Int) :=
  let e : Int := 2 ^ x.esz
  let (sl, sh) := extremes (x.dims.map fun d => (d.1, d.2.1))
  let (dl, dh) := extremes (x.flat.map fun d => (d.1, d.2.2))
  let curve : Int := if x.curve = 0 then 0 else (x.curveEnd : Int) * e
  ((src.toNat + sl, src.toNat + sh + e - 1), (dst.toNat + dl, dst.toNat + dh + curve + e - 1))

/-- The shape of a record, if it is valid (R346). -/
def shapeOf (ws : List Word) : Option Shape :=
  let w0 := ws.getD 0 0
  let n := fld w0 3 0
  let esz := fld w0 6 4
  let curve := fld w0 10 8
  let dims := (List.range n).map fun d =>
    (fld (ws.getD (2 + 3 * d) 0) 31 0, (ws.getD (3 + 3 * d) 0).toInt, (ws.getD (4 + 3 * d) 0).toInt)
  if fld w0 63 11 ≠ 0 || 3 < esz || n = 0 || 7 < n || curve = 1 || n < curve then none
  else if (dims.take curve).any fun d => decide (2 ^ (64 / curve) < d.1) then none
  else some ⟨curve, esz, dims⟩

/-- The first index vector: the curve's code, if any, then the other dimensions. -/
def Shape.first (x : Shape) : List Nat := (if x.curve = 0 then [] else [0]) ++ x.flat.map fun _ => 0

/-- The next vector of the flat dimensions. -/
def bumpIdx : List Nat → List Nat → List Nat
  | i :: is, e :: es => if i + 1 < e then (i + 1) :: is else 0 :: bumpIdx is es
  | _, _ => []

/-- The next index vector (R348). -/
def Shape.next (x : Shape) (idx : List Nat) : List Nat :=
  let es := x.flat.map (·.1)
  if x.curve = 0 then bumpIdx idx es
  else match idx with
    | c :: is =>
      match nextIn x.curve 0 x.curveEnd (c + 1) (x.curve * axisWidth x.curve) 0 with
      | some y => y :: is
      | none => 0 :: bumpIdx is es
    | [] => []

/-- Source and destination of an element (R348). -/
def Shape.addrs (x : Shape) (dst src : Word) (idx : List Nat) : Word × Word :=
  let flatIdx := if x.curve = 0 then idx else idx.drop 1
  let code := if x.curve = 0 then 0 else idx.headD 0
  let cur := (List.range x.curve).map fun a => axisVal x.curve a code
  let sum := fun (is : List Nat) (ts : List Int) => ((is.zip ts).map fun p => (p.1 : Int) * p.2).sum
  (dst + BitVec.ofNat 64 (code * 2 ^ x.esz) + BitVec.ofInt 64 (sum flatIdx (x.flat.map (·.2.2))),
   src + BitVec.ofInt 64 (sum (cur ++ flatIdx) (x.dims.map (·.2.1))))

/-- The shape of a queued command. -/
def XCmd.shape (x : XCmd) : Option Shape :=
  match x.kind with
  | .shape ws => shapeOf ws
  | _ => none

/-- Granules, or elements, of a command (R345, R348). -/
def XCmd.pieces (x : XCmd) : Nat :=
  match x.kind with
  | .shape _ => x.n
  | _ => (x.n + 63) / 64

/-- The next piece: destination, source, bytes (R345, R348). -/
def XCmd.piece (x : XCmd) (k : Channel) : Word × Word × Nat :=
  match x.shape with
  | some sh =>
    let (d, c) := sh.addrs x.dst x.src k.idx
    (d, c, 2 ^ sh.esz)
  | none =>
    let o := BitVec.ofNat 64 (64 * k.pos)
    (x.dst + o, x.src + o, min 64 (x.n - 64 * k.pos))

/-- The write pointer a command starts with, and ends with (R350). -/
def XCmd.ptrStart (x : XCmd) : Word :=
  match x.shape with
  | some sh => BitVec.ofInt 64 (sh.footprints x.dst x.src).2.1
  | none => x.dst
def XCmd.ptrAt (x : XCmd) (pos : Nat) : Word :=
  match x.shape with
  | some sh => if pos < x.n then x.ptrStart else BitVec.ofInt 64 ((sh.footprints x.dst x.src).2.2 + 1)
  | none => x.dst + BitVec.ofNat 64 (min x.n (64 * pos))

/-! ## The checks at issue (R343) -/

/-- An address in own-pool form when it names the core's own pool (R231). -/
def ownForm (u : UnitId) (a : Word) : Word :=
  match targetOf u a with
  | some (.own off) => ownAddr off
  | _ => a

/-- Step 2: the bytes from `lo` to `hi` lie within one address form, and in a pool within it. The lowest address breaking its
form is the alignment fault. -/
def State.copyForm (s : State) (lo hi : Int) : Iss Unit := do
  let a := BitVec.ofInt 64 lo
  let last := hi - lo
  match targetOf s.curUnit a with
  | none => .error (alignFault a)
  | some (.global v) => need (v.toNat + last < 2 ^ 53) (xargFault 2)
  | some (.pool v off) => need (off + last < poolSize v) (xargFault 2)
  | some (.own off) => need (off + last < poolSize s.curUnit) (xargFault 2)

/-- Step 3: the own pool's range lies in the scratchpad (R199); a service core's pool is out of reach of user mode (R233). -/
def State.copyRegion (s : State) (lo hi : Int) : Iss Unit :=
  let u := s.curUnit
  let a := BitVec.ofInt 64 lo
  match targetOf u a with
  | some (.pool v _) => need (!isService v || s.sysOf u) privFault
  | some (.own off) => need (s.curCore.inScratch (poolSize u) off (hi - lo + 1).toNat) (boundsFault a)
  | _ => .ok ()

/-- Steps 2 and 3 for the ranges of a command, the destination first. -/
def State.copyRanges (s : State) (rs : List (Int × Int)) : Iss Unit := do
  rs.forM fun r => s.copyForm r.1 r.2
  rs.forM fun r => s.copyRegion r.1 r.2

/-- Step 6: the completion word's address; a service core's pool is out of reach of user mode (R233). -/
def State.checkXcw (s : State) (w : Word) : Iss Unit :=
  if w = 0 then .ok ()
  else
    let u := s.curUnit
    match targetOf u w with
    | none => .error (alignFault w)
    | some (.own off) => need (s.curCore.inScratch (poolSize u) off 4) (boundsFault w)
    | some (.pool v _) => need (!isService v || s.sysOf u) privFault
    | some (.global _) => .ok ()

/-- A channel's next turn. -/
def State.chanTurnAt (s : State) (u : UnitId) (ch due : Nat) : State :=
  s.schedule due rankUnit .copyGranule (.chan u ch)

/-- Steps 6 and 7, the queueing of a checked command, and its token (R343, R344). -/
def State.queueCopy (s : State) (kind : XKind) (scope : Scope) (ch : Nat) (a : Reg) (dst src : Word) (n : Nat)
    (ranges : List (Bool × Int × Int)) : Iss State := do
  let u := s.curUnit
  let c := s.curCore
  let xcw := aget 0 c.xcw ch
  s.checkXcw xcw
  s.waitDst a
  need (c.xq.length < 16) (.wait .copyQueue)
  c.needLocks ranges.length
  let (tid, s) := s.fresh
  let seq := (c.chan ch).seq + 1
  let x : XCmd :=
    { tid := tid, kind := kind, ch := ch, dst := dst, src := src, n := n, scope := scope, seq := seq, xcw := xcw,
      space := s.spaceOf u, sys := s.sysOf u }
  let s := s.addLocks u (ranges.map fun r =>
    { dst := r.1, owner := ownerChan ch, tid := tid, lo := BitVec.ofInt 64 r.2.1, hi := BitVec.ofInt 64 r.2.2 })
  let first := (c.chanHead ch).isNone
  let s := s.modCore u fun c => { c with xq := c.xq ++ [x] }
  let s := s.modChan u ch fun k => { k with seq := seq }
  let s := if first then s.chanTurnAt u ch (s.cycle + 1) else s
  .ok (s.addToken tid a).advance

/-- Ranges that meet as address values (step 4). -/
def meet (a b : Int × Int) : Bool := a.1 ≤ b.2 && b.1 ≤ a.2

/-- XCOPY (R343 to R345). -/
def execXcopy (g : Guard) (scope : Scope) (ch : BitVec 2) (a b c d : Reg) (s : State) : Out :=
  issue g s fun s => do
    s.checkRegs [b, c, d] [a] true
    let (x, y, n, s) ← s.read3 b c d
    need (n.toNat < 2 ^ 32) (xargFault 1)
    let u := s.curUnit
    let dst := ownForm u x
    let src := ownForm u y
    let rd : Int × Int := (dst.toNat, dst.toNat + (n.toNat : Int) - 1)
    let rs : Int × Int := (src.toNat, src.toNat + (n.toNat : Int) - 1)
    s.copyRanges [rd, rs]
    need (n = 0 || !meet rd rs) (xargFault 3)
    s.queueCopy .copy scope ch.toNat a dst src n.toNat (if n = 0 then [] else [(true, rd), (false, rs)])

/-- XFILL (R343 to R345). -/
def execXfill (g : Guard) (scope : Scope) (ch : BitVec 2) (a b c d : Reg) (s : State) : Out :=
  issue g s fun s => do
    s.checkRegs [b, c, d] [a] true
    let (x, y, n, s) ← s.read3 b c d
    need (n.toNat < 2 ^ 32) (xargFault 1)
    let dst := ownForm s.curUnit x
    let rd : Int × Int := (dst.toNat, dst.toNat + (n.toNat : Int) - 1)
    s.copyRanges [rd]
    s.queueCopy .fill scope ch.toNat a dst y n.toNat (if n = 0 then [] else [(true, rd)])

/-- XWPTR (R350). -/
def execXwptr (g : Guard) (a : Reg) (ch : BitVec 2) (s : State) : Out :=
  issue g s fun s => do
    s.checkRegs [] [a] false
    s.waitDst a
    .ok (s.writeDst a (s.curCore.chan ch.toNat).wptr).advance

/-! ## The record cache (R349) -/

/-- Cache a record, with its shadow in the system area (R200). -/
def State.cacheRecord (s : State) (u : UnitId) (sp : Space) (a : Word) (ws : List Word) : State :=
  let c := s.core u
  let k := match (List.range 8).find? fun k => (afind c.recs k).isNone with
    | some k => k
    | none => Config.recordVictim s.freeCtr % 8
  let s := { s with freeCtr := s.freeCtr + 1 }
  s.modCore u fun c =>
    { c with recs := aput c.recs k ⟨sp, a, ws⟩ }.poolWrite (poolSize u - 4096 + 0x800 + 192 * k)
      (ws.flatMap fun (w : Word) => bytesOf 8 w.toNat)

/-- Send the twelve loads of a record; the issuer waits (R349). R343 has no range lock refuse them (assumption log 42,
DESIGN CHOICE). -/
def State.readRecord (s : State) (a : Word) : State :=
  let u := s.curUnit
  let sp := s.spaceOf u
  let base := s.nextSeq
  let s := { s with nextSeq := base + 12 }
  let tids := (List.range 12).map fun k => (base + k, k)
  let s := s.modCore u fun c => { c with recReads := c.recReads ++ [⟨s.curWho, sp, a, tids, [], []⟩] }
  let s := (List.range 12).foldl
    (fun s k =>
      let acc := s.mkAccess (base + k) (.record k) (a + BitVec.ofNat 64 (16 * k)) 0 0 0
      s.sendOrHold u ⟨⟨.loadAtHome, .access acc⟩, false, 0, base + k, wordsOf sp acc.addr 16⟩) s
  s.suspendCur .record

/-- XSHAPE (R343, R346, R348, R349). Steps 2 and 3 need the record's footprints, so the record is judged before the ranges
(assumption log 42, DESIGN CHOICE). -/
def execXshape (g : Guard) (scope : Scope) (ch : BitVec 2) (a b c d : Reg) (s : State) : Out :=
  issue g s fun s0 => do
    s0.checkRegs [b, c, d] [a] true
    let (x, y, r, s) ← s0.read3 b c d
    let u := s.curUnit
    let sp := s.spaceOf u
    let ra := ownForm u r
    need (r.toNat % 64 = 0) (alignFault r)
    let own ← match targetOf u r with
      | some (.own off) => .ok (some off)
      | some (.global _) => .ok none
      | _ => .error (alignFault r)
    let go := fun (s : State) (ws : List Word) => (do
      let dst := ownForm u x
      let src := ownForm u y
      match shapeOf ws with
      | none => .error (xargFault 4)
      | some sh =>
        if sh.count = 0 then do
          s.copyRanges [(dst.toNat, (dst.toNat : Int) - 1), (src.toNat, (src.toNat : Int) - 1)]
          s.queueCopy (.shape ws) scope ch.toNat a dst src 0 []
        else do
          let (fs, fd) := sh.footprints dst src
          need (0 ≤ fs.1 && fs.2 < 2 ^ 64 && 0 ≤ fd.1 && fd.2 < 2 ^ 64) (xargFault 4)
          s.copyRanges [fd, fs]
          s.queueCopy (.shape ws) scope ch.toNat a dst src sh.count [(true, fd), (false, fs)] : Iss State)
    match s.curCore.recs.find? fun p => p.2.space == sp && p.2.addr == ra with
    | some p => go s p.2.data
    | none =>
      match own with
      | some off => do
        s.ownCheck ra off 192 false
        let ws := (List.range 24).map fun k => s.curCore.poolWord (off + 8 * k)
        go (s.cacheRecord u sp ra ws) ws
      | none =>
        if s.curCore.recReads.any fun q => q.space == sp && q.addr == ra then .error (.wait .record)
        else .ok (s0.readRecord ra)

/-- A load of a record lands, fails, or meets a notice (R241, R349): with all twelve the record is cached and those that wait
try again; a failure is DATAFAULT of that load, at the head that waits (R244). -/
def State.recordLand (s : State) (u : UnitId) (l : Landing) : State :=
  match (s.core u).recReads.find? fun q => q.tids.any (·.1 == l.tid) with
  | none => s
  | some q =>
    let others := (s.core u).recReads.filter (· ≠ q)
    let set := fun (s : State) (qs : List RecRead) => s.modCore u fun c => { c with recReads := qs }
    let k := ((q.tids.find? (·.1 == l.tid)).map (·.2)).getD 0
    let told := q.noticed.contains l.tid
    let q' : RecRead := { q with noticed := q.noticed.filter (· ≠ l.tid) }
    let unheld := fun (s : State) => if told then s.recordNotice u q false else s
    match l.res with
    | .val v0 v1 _ =>
      let q' : RecRead := { q' with tids := q.tids.filter (·.1 ≠ l.tid), words := aput (aput q.words (2 * k) v0) (2 * k + 1) v1 }
      if q'.tids = [] then
        (((unheld (set s others)).cacheRecord u q.space q.addr ((List.range 24).map fun k => aget 0 q'.words k)).wakeWhere u
          fun w => w == Wait.record)
      else unheld (set s (q' :: others))
    | .fail cause =>
      let waits := (s.slot u q.who.slot).run == Run.wait .record
      let s := q.noticed.foldl (fun s _ => s.recordNotice u q false) (set s others)
      let i := q.who.slot
      let f : FaultInfo := { code := 18, sub := cause, addr := q.addr + BitVec.ofNat 64 (16 * k) }
      let s := match (s.slot u i).seat q.who.sgen with
        | .occupant =>
          if waits then (s.modSlot u i fun x => { x with run := .ready }).takeFault u i f else s
        | _ => s
      s.wakeWhere u fun w => w == Wait.record
    | .notice => if told then s else (set s ({ q with noticed := l.tid :: q.noticed } :: others)).recordNotice u q true
    | .resumed => unheld (set s (q' :: others))
    | _ => s

/-! ## A channel's turns (R344, R345, R350) -/

/-- A piece of at most 64 bytes in parts, each within one 64-byte block of global memory: offset and bytes. -/
def blockParts (u : UnitId) (a : Word) (n : Nat) : List (Nat × Nat) :=
  let head := 64 - a.toNat % 64
  match targetOf u a with
  | some (.global _) => if n ≤ head then [(0, n)] else [(0, head), (head, n - head)]
  | _ => [(0, n)]

/-- Bytes of a 64-byte buffer. -/
def bufBytes (b : BitVec 512) (n : Nat) : List Byte := (List.range n).map fun k => b.extractLsb' (8 * k) 8

/-- A buffer with `n` bytes of `v` at an offset. -/
def bufPut (b : BitVec 512) (o n : Nat) (v : BitVec 512) : BitVec 512 :=
  let m : BitVec 512 := BitVec.ofNat 512 ((2 ^ (8 * n) - 1) * 2 ^ (8 * o))
  (b &&& ~~~m) ||| ((v <<< (8 * o)) &&& m)

/-- The command of a channel is over: its completion follows (R347). -/
def State.chanEnd (s : State) (u : UnitId) (x : XCmd) : State :=
  s.schedule s.cycle rankUnit .copyCompletion (.chan u x.ch)

/-- A piece has been written or acknowledged: the pointer moves, and the next piece follows, or the end (R345, R350). -/
def State.pieceDone (s : State) (u : UnitId) (x : XCmd) : State :=
  let k := (s.core u).chan x.ch
  if k.failed ≠ 0 then s.chanEnd u x
  else
    let pos := k.pos + 1
    let s := s.modChan u x.ch fun k =>
      { k with pos := pos, wptr := x.ptrAt pos, idx := match x.shape with | some sh => sh.next k.idx | none => [] }
    if x.pieces ≤ pos then s.chanEnd u x
    else { s.chanTurnAt u x.ch (s.cycle + 1 + Config.granuleDelay s.freeCtr) with freeCtr := s.freeCtr + 1 }

/-- Send part of an engine's write to its target (R345). -/
def State.sendWrite (s : State) (u : UnitId) (x : XCmd) (a : Word) (n : Nat) (data : BitVec 512) (last : Bool) : State :=
  let home := s.homeUnit u x.space a
  let w : EngWrite :=
    { unit := u, ch := x.ch, tid := x.tid, addr := a, n := n, data := data, space := x.space, sys := x.sys, last := last, at_ := home }
  s.send 2 rankUnit u home x.space false 0 ⟨.copyGranule, .engine w⟩ (some ⟨.copyGranule, .engAck ⟨u, x.ch, x.tid, 4, last⟩⟩)

/-- The piece's bytes are in the buffer: write them (R345). -/
def State.pieceWrite (s : State) (u : UnitId) (x : XCmd) : State :=
  let k := (s.core u).chan x.ch
  let (dst, _, n) := x.piece k
  match targetOf u dst with
  | some (.own off) => (s.enginePut u (ownerChan x.ch) x.tid off (bufBytes k.buf n)).pieceDone u x
  | _ =>
    let parts := blockParts u dst n
    let s := s.modChan u x.ch fun k => { k with writes := parts.length }
    parts.foldl (fun s p => s.sendWrite u x (dst + BitVec.ofNat 64 p.1) p.2 (k.buf >>> (8 * p.1)) false) s

/-- The pattern of XFILL at an address (R345). -/
def fillBuf (pat dst : Word) : BitVec 512 :=
  BitVec.ofNat 512 (ofBytes ((List.range 64).map fun k => byteOf pat ((dst.toNat + k) % 8)))

/-- A channel's turn (R344, R345): start the command, or take up the next piece. The channel of a core that a STOPAT has stopped
waits for the go (R404, R405); a core's own write of GSTOP stops no engine (R464). -/
def State.chanTurn (s : State) (u : UnitId) (ch : Nat) : State :=
  let c := s.core u
  match c.chanHead ch with
  | none => s
  | some x =>
    if c.stopped && c.swept then s.chanTurnAt u ch (s.cycle + 1)
    else
      let s := if (c.chan ch).running then s
        else s.modChan u ch fun k =>
          { k with
            pos := 0, running := true, failed := 0, reads := [], writes := 0, stored := false,
            wptr := if x.n = 0 then k.wptr else x.ptrStart
            idx := match x.shape with | some sh => sh.first | none => [] }
      if x.n = 0 then s.chanEnd u x
      else
        let (dst, src, n) := x.piece ((s.core u).chan ch)
        match x.kind with
        | .fill => (s.modChan u ch fun k => { k with buf := fillBuf x.src dst }).pieceWrite u x
        | _ =>
          match targetOf u src with
          | some (.own off) =>
            (s.modChan u ch fun k => { k with buf := BitVec.ofNat 512 ((s.core u).poolRead off n) }).pieceWrite u x
          | _ =>
            (blockParts u src n).foldl
              (fun s p =>
                let (t, s) := s.fresh
                let a := src + BitVec.ofNat 64 p.1
                let acc : Access :=
                  { who := ⟨u, 64, 0⟩, tid := t, kind := .granule p.2, addr := a, space := x.space, sys := x.sys, c := 0, d := 0,
                    outer := 0, dest := 0, pc := 0, entry := none, at_ := 0, replica := false, walk := 0 }
                let s := s.modChan u ch fun k => { k with reads := k.reads ++ [(t, p.1, p.2)] }
                s.sendOrHold u ⟨⟨.loadAtHome, .access acc⟩, false, 0, x.tid, wordsOf x.space a p.2⟩) s

/-- The channel that waits for a read. -/
def Core.chanOfRead (c : Core) (tid : Nat) : Option (Nat × Nat × Nat) :=
  c.chans.findSome? fun p => (p.2.reads.find? (·.1 == tid)).map fun r => (p.1, r.2.1, r.2.2)

/-- A read of a channel lands or fails (R345): with every part in the buffer the piece is written; after a failure the
command stops. -/
def State.chanRead (s : State) (u : UnitId) (ch o n : Nat) (l : Landing) : State :=
  let fin := fun (s : State) =>
    let k := (s.core u).chan ch
    match (s.core u).chanHead ch with
    | some x => if k.reads ≠ [] then s else if k.failed ≠ 0 then s.chanEnd u x else s.pieceWrite u x
    | none => s
  let drop := fun (k : Channel) => { k with reads := k.reads.filter (·.1 ≠ l.tid) }
  match l.res with
  | .data b => fin (s.modChan u ch fun k => { drop k with buf := bufPut k.buf o n b })
  | .fail cause => fin (s.modChan u ch fun k => { drop k with failed := if k.failed = 0 then cause else k.failed })
  | _ => s

/-- The answer to an engine's write (R345, R347). -/
def State.chanAck (s : State) (x : EngAck) : State :=
  match (s.core x.unit).chanHead x.ch with
  | none => s
  | some cmd =>
    if cmd.tid ≠ x.tid then s
    else if x.last then
      (s.modChan x.unit x.ch fun k => if x.cause = 0 then k else { k with failed := x.cause }).chanEnd x.unit cmd
    else
      let s := s.modChan x.unit x.ch fun k =>
        { k with writes := k.writes - 1, failed := if k.failed = 0 then x.cause else k.failed }
      if ((s.core x.unit).chan x.ch).writes = 0 then s.pieceDone x.unit cmd else s

/-- SEQ of a completion with its failure bit (R347). -/
def seqWord (seq : BitVec 31) (failed : Bool) : BitVec 32 := BitVec.ofBool failed ++ seq

/-- COPY_COMPLETION (R347): the completion store, then the token, the freed entries and the next command. -/
def execCopyCompletion (s : State) : Out :=
  match s.arg with
  | .chan u ch =>
    match (s.core u).chanHead ch with
    | none => .next s
    | some x =>
      let k := (s.core u).chan ch
      let v := seqWord x.seq (k.failed ≠ 0)
      if x.xcw ≠ 0 && !k.stored then
        let s := s.modChan u ch fun k => { k with stored := true }
        match targetOf u x.xcw with
        | some (.own off) => .next ((s.modCore u fun c => c.poolWrite off (bytesOf 4 v.toNat)).chanEnd u x)
        | _ => .next (s.sendWrite u x x.xcw 4 (v.setWidth 512) true)
      else
        let s := s.modChan u ch fun k => { k with running := false }
        let s := s.modCore u fun c => { c with xq := c.xq.filter (·.tid ≠ x.tid) }
        let s := s.landToken u x.tid (BitVec.ofNat 64 (v.toNat + k.failed * 2 ^ 40)) 0
        let s := s.freeLocks u x.tid .copyQueue
        .next (if ((s.core u).chanHead ch).isSome then s.chanTurnAt u ch (s.cycle + 1) else s)
  | _ => .next s

end Sys2Proof.Machine
end

