-- ==== Sys2Proof/Machine/CoreEvents.lean ====
section
/-! DEFINITION. Core events and EVWAIT's take of them (04_register R110; 19_engine R362; 23_traps R396, R410). -/

namespace Sys2Proof.Machine

/-- KIND of an event word above its data (R362). -/
def eventWord (kind : Nat) (data : Word) : Word := setFld data 60 4 kind

/-- The event EVWAIT takes for a mask, and the core after it: TIMER, then POST, then QIN (R362). A post is read from its
place in the event area (R200). -/
def Core.takeEvent (c : Core) (size : Nat) (mask : BitVec 3) : Option (Word × Core) :=
  match c.timerEv with
  | some w => if mask.getLsbD 0 then some (eventWord 1 w, { c with timerEv := none }) else rest
  | none => rest
where
  rest : Option (Word × Core) :=
    match c.posts with
    | p :: ps => if mask.getLsbD 2 then some (c.poolWord (eventPlace size p), { c with posts := ps }) else qin
    | [] => qin
  qin : Option (Word × Core) := if mask.getLsbD 1 && !c.qi.isEmpty then some (eventWord 2 0, c) else none

/-- The slots that wait in EVWAIT, earliest issue first: order, slot, mask. -/
def Core.eventWaiters (c : Core) : List (Nat × Nat × BitVec 3) :=
  sortOn (·.1) (c.slots.filterMap fun p =>
    match p.2.run with
    | .wait (.event m o) => if p.2.holds.isEmpty then some (o, p.1, m) else none
    | _ => none)

/-- Give held events to waiting EVWAITs in the order of their issue (R362). The member takes its event when it issues the
EVWAIT again (R310). One off rotation is passed over: it looks for an event when it issues again (R307). -/
def State.giveEvents (s : State) (u : UnitId) : State :=
  (s.core u).eventWaiters.foldl
    (fun s w =>
      match (s.core u).takeEvent (poolSize u) w.2.2 with
      | some (v, c) => (s.setCore u c).modSlot u w.2.1 fun x => { x.wake s.cycle with trip := .done v none }
      | none => s) s

/-- Raise the timer event, merged into one that is held (R110, R362). -/
def State.raiseTimer (s : State) (u : UnitId) : State :=
  (s.modCore u fun c => { c with timer := 0, timerEv := some ((c.timerEv).getD s.gcyc) }).giveEvents u

/-- Put a post in the lowest free place of a core's event area; false when its 64 places are taken (R200, R362, R410). -/
def State.postEvent (s : State) (u : UnitId) (data : Word) : Bool × State :=
  match (List.range 64).find? fun k => !(s.core u).posts.contains k with
  | none => (false, s)
  | some k =>
    (true, (s.modCore u fun c =>
      { c.setPoolWord (eventPlace (poolSize u) k) (eventWord 3 data) with posts := c.posts ++ [k] }).giveEvents u)

/-- TIMER is due: in the next cycle when it has matured, else in its cycle, after a stop of that cycle (R110). -/
def State.armTimer (s : State) (u : UnitId) : State :=
  let t := (s.core u).timer
  if t = 0 then s else s.schedule (max (s.cycle + 1) t.toNat) rankAssign .timerEvent (.unitWord u t)

/-- TIMER written (R110). -/
def State.setTimer (s : State) (u : UnitId) (v : Word) : State :=
  (s.modCore u fun c => { c with timer := v }).armTimer u

/-- GSTOP written (R405, R464): the core stops at that cycle, or in the next one. -/
def State.setGstop (s : State) (u : UnitId) (v : Word) : State :=
  let s := s.modCore u fun c => { c with gstop := v }
  if v = 0 then s else s.schedule (max (s.cycle + 1) v.toNat) rankUnit .syncStop (.unitWord u v)

/-- VIID written (R464). -/
def State.setViid (s : State) (u : UnitId) (v : Word) : State := s.modCore u fun c => { c with viid := v.setWidth 6 }

/-- TIMER_WRITE (R110). -/
def execTimerWrite (s : State) : Out :=
  match s.arg with
  | .unitWord u v => .next (s.setTimer u v)
  | _ => .next s

/-- GSTOP_WRITE (R405, R464). -/
def execGstopWrite (s : State) : Out :=
  match s.arg with
  | .unitWord u v => .next (s.setGstop u v)
  | _ => .next s

/-- VIID_WRITE (R464). -/
def execViidWrite (s : State) : Out :=
  match s.arg with
  | .unitWord u v => .next (s.setViid u v)
  | _ => .next s

/-- TIMER_EVENT (R110): for the value still in TIMER. A stopped core keeps it for the go. -/
def execTimerEvent (s : State) : Out :=
  match s.arg with
  | .unitWord u v =>
    let c := s.core u
    .next (if c.timer = v && v ≠ 0 && !c.stopped then s.raiseTimer u else s)
  | _ => .next s

end Sys2Proof.Machine
end

