-- ==== Sys2Proof/Machine/Ctrl.lean ====
section
/-! DEFINITION. What the control and counter spaces read as (18_rings R326, R331; 21_tables R376, R377; 22_counters R390,
R391). -/

namespace Sys2Proof.Machine

/-- The base of the control and counter spaces (R376, R390). -/
def ctrlBase : Nat := 0xFF0000000000

/-- The eight words of a context (R331). -/
def RedContext.words (x : RedContext) : List Word :=
  let b := fun (v : Bool) (k : Nat) => if v then 2 ^ k else 0
  [ BitVec.ofNat 64 (2 ^ 63 + x.viid.toNat * 2 ^ 57 + x.op.toNat * 2 ^ 54 + x.fmt.toNat * 2 ^ 52 + fld x.key 52 6),
    BitVec.ofNat 64 (x.peers.toNat * 2 ^ 48 + x.expect.toNat * 2 ^ 32 + x.count.toNat * 2 ^ 16 + x.round.toNat),
    BitVec.ofNat 64 (b x.xdev 42 + x.group.toNat * 2 ^ 38 + x.place.toNat * 2 ^ 13 + b x.sig 3 + b x.nan 2 + b x.pinf 1 + b x.ninf 0),
    x.acc.extractLsb' 0 64, x.acc.extractLsb' 64 64, x.acc.extractLsb' 128 64, x.acc.extractLsb' 192 64,
    x.acc.extractLsb' 256 64 ]

/-- A directory entry's four words (R377). -/
def DirEntry.words (x : DirEntry) : List Word :=
  [ BitVec.ofNat 64 (2 ^ 63 + x.viid.toNat * 2 ^ 57 + fld x.key 52 6 * 64), x.handle, x.desc, 0 ]

/-- A counter with its own unit's name: the words of a core's counter space. -/
def State.coreCounter (s : State) (u : UnitId) (off : Nat) : Word :=
  let c := s.core u
  if off < 0x100 then aget 0 c.perf off
  else if 0x100 ≤ off && off < 0x300 then (c.slot ((off - 0x100) / 8)).aging.setWidth 64
  else if 0x300 ≤ off && off < 0x500 then (c.slot ((off - 0x300) / 8)).evage.setWidth 64
  else if off = 0x500 then c.pscl.setWidth 64
  else if off = 0x508 then c.pscr.setWidth 64
  else if 0x510 ≤ off && off < 0x530 then (c.chan ((off - 0x510) / 8)).seq.setWidth 64
  else 0

/-- Records in use in a slice (R389). -/
def Slice.occupancy (x : Slice) : Nat := x.waits.length

/-- The word at a control or counter address; an offset that no table lists reads 0 (R376, R390), none where no
table assigns the address (assumption log 11, DESIGN CHOICE). -/
def State.ctrlWord (s : State) (pa : Nat) : Option Word :=
  let kind := (pa - ctrlBase) / 2 ^ 24
  let id := pa / 2 ^ 16 % 256
  let off := pa % 2 ^ 16 / 8 * 8
  if pa < ctrlBase then none
  else if 0xFF0100000000 ≤ pa && pa < 0xFF0101000000 then some (s.coreCounter (pa / 4096 % 4096) (pa % 4096 / 8 * 8))
  else if 0xFF0200000000 ≤ pa && pa < 0xFF0200020000 then some (s.coreCounter (svcUnit (pa / 4096 % 32)) (pa % 4096 / 8 * 8))
  else match kind with
  | 0 =>
    let x := s.slice id
    some (if off = 0 then x.w.setWidth 64 else if off = 8 then x.vtb else if off = 0x10 then x.hroot
      else if 0x1000 ≤ off && off < 0x3000 then
        match afind x.dir ((off - 0x1000) / 32) with
        | some e => e.words.getD (off % 32 / 8) 0
        | none => 0
      else 0)
  | 1 =>
    if 64 ≤ id then none
    else some (if off < 0x200 then
        match afind (s.station id).ctx (off / 64) with
        | some c => c.words.getD (off % 64 / 8) 0
        | none => 0
      else 0)
  | 2 =>
    let x := s.slice id
    some (if off = 0x28 then BitVec.ofNat 64 (x.occupancy + x.high * 2 ^ 16) else if off < 0x100 then aget 0 x.perf off else 0)
  | 3 => if 64 ≤ id then none else some (if off < 0x100 then aget 0 (s.station id).perf off else 0)
  | 4 => if 8 ≤ id then none
    else some (if off = 0 then (s.port id).drop.setWidth 64 else if off < 0x100 then aget 0 (s.port id).perf off else 0)
  | 5 => if 4 ≤ id then none
    else some (if off = 0 then (s.engine id).drop.setWidth 64 else if off < 0x100 then aget 0 (s.engine id).perf off else 0)
  | _ => none

end Sys2Proof.Machine
end

