-- ==== Sys2Proof/Machine/Phys.lean ====
section
/-! DEFINITION. Physical memory, the VI table, event logs, translation and slice lines
(13_global R235 to R241, R257 to R260; 21_tables R374, R375, R378, R379; 23_traps R396 to R399; 27_package R449). -/

namespace Sys2Proof.Machine

/-! ## Physical memory (R449): an unlisted byte reads 0 and an unlisted word's tag VAL (assumption log 2, DESIGN CHOICE). -/

/-- The size of the module's HBM (R449): 16 stacks of 64 GiB. -/
def hbmSize : Nat := 2 ^ 40

/-- The canonical form of a memory: addresses strictly rising, no entry 0. -/
def Memory.wf (m : List Host.Cell) : Bool := awf 0 m

def State.physByte (s : State) (pa : Nat) : Byte := aget 0 s.mem pa
def State.setPhysByte (s : State) (pa : Nat) (b : Byte) : State := { s with mem := aset 0 s.mem pa b }
/-- `n` bytes as a number. -/
def State.physRead (s : State) (pa n : Nat) : Nat := ofBytes ((List.range n).map fun k => s.physByte (pa + k))
def State.physWrite (s : State) (pa : Nat) (bs : List Byte) : State :=
  (bs.foldl (fun (p : State × Nat) b => (p.1.setPhysByte p.2 b, p.2 + 1)) (s, pa)).1
def State.physWord (s : State) (pa : Nat) : Word := BitVec.ofNat 64 (s.physRead pa 8)
def State.setPhysWord (s : State) (pa : Nat) (v : Word) : State := s.physWrite pa (bytesOf 8 v.toNat)
/-- The tag of a physical word (R262). -/
def State.physTag (s : State) (pa : Nat) : BitVec 2 := aget 0 s.tags (pa / 8)
def State.setPhysTag (s : State) (pa : Nat) (t : BitVec 2) : State := { s with tags := aset 0 s.tags (pa / 8) t }

/-- The die whose stack holds a physical address (R449). -/
def dieOfPa (pa : Nat) : Nat := pa / 2 ^ 38

/-! ## Page versions (R260, R375) -/

/-- Where the version of a chunk lies. -/
def versionAt (pa : Nat) : Nat :=
  let stack := pa / 2 ^ 36
  stack * 2 ^ 36 + (2 ^ 36 - 2 ^ 26) + 8 * (pa % 2 ^ 36 / 8192)
/-- The version of a chunk. -/
def State.version (s : State) (pa : Nat) : Word := s.physWord (versionAt pa)
/-- One applied write (R260). -/
def State.bumpVersion (s : State) (pa : Nat) : State :=
  s.setPhysWord (versionAt pa) (BitVec.ofNat 64 ((s.version pa).toNat + 1) &&& 0xFFFFFFFFFFFF#64)

/-! ## Slice lines (R235) -/

/-- The line of a space at an address in a slice. -/
def Slice.lineAt (x : Slice) (sp : Space) (line : Nat) : Option CLine :=
  x.lines.find? fun l => l.svs == sp.svs && l.viid == sp.viid && l.line == line

/-- A line read from memory. -/
def State.readLine (s : State) (sp : Space) (line pa : Nat) : CLine :=
  { svs := sp.svs, viid := sp.viid, line := line, data := BitVec.ofNat 1024 (s.physRead pa 128),
    tags := (List.range 16).foldl (fun m k => m ||| ((s.physTag (pa + 8 * k)).setWidth 32 <<< (2 * k))) 0,
    dirty := false, pa := pa,
    marked := (List.range 16).foldl (fun m k => setBitN m k (aget false s.marks (pa / 8 + k))) 0 }

/-- Put a line into a slice. -/
def State.putLine (s : State) (id : Nat) (l : CLine) : State :=
  s.modSlice id fun x =>
    { x with lines := l :: x.lines.filter fun k => !(k.svs == l.svs && k.viid == l.viid && k.line == l.line) }

/-- Bytes of a line. -/
def CLine.bytes (l : CLine) (off n : Nat) : Nat := (l.data.extractLsb' (8 * off) (8 * n)).toNat
/-- The tag of word `k` of a line. -/
def CLine.tag (l : CLine) (k : Nat) : BitVec 2 := l.tags.extractLsb' (2 * k) 2
def CLine.setTag (l : CLine) (k : Nat) (t : BitVec 2) : CLine :=
  { l with tags := (l.tags &&& ~~~((3 : BitVec 32) <<< (2 * k))) ||| (t.setWidth 32 <<< (2 * k)) }
/-- Word `k` of a line. -/
def CLine.word (l : CLine) (k : Nat) : Word := l.data.extractLsb' (64 * k) 64
/-- A line with bytes written; the words written are no longer marked. -/
def CLine.put (l : CLine) (off n v : Nat) : CLine :=
  let m : BitVec 1024 := BitVec.ofNat 1024 ((2 ^ (8 * n) - 1) * 2 ^ (8 * off))
  let ws := (List.range 16).filter fun k => off < 8 * k + 8 && 8 * k < off + n
  { l with
    data := (l.data &&& ~~~m) ||| (BitVec.ofNat 1024 (v * 2 ^ (8 * off)) &&& m)
    marked := ws.foldl (fun m k => setBitN m k false) l.marked }
/-- The words of a line that an access of `n` bytes at `off` touches. -/
def lineWords (off n : Nat) : List Nat := (List.range 16).filter fun k => off < 8 * k + 8 && 8 * k < off + n

/-- Write a line back to memory with its tags (R235, R425). -/
def State.writeBack (s : State) (l : CLine) : State :=
  let s := s.physWrite l.pa (bytesOf 128 l.data.toNat)
  (List.range 16).foldl
    (fun s k => { s.setPhysTag (l.pa + 8 * k) (l.tag k) with marks := aset false s.marks (l.pa / 8 + k) (l.marked.getLsbD k) }) s

/-- Keep a changed line; its write-back comes at a time that is not specified (R238). -/
def State.dirtyLine (s : State) (id : Nat) (l : CLine) : State :=
  let s' := s.putLine id { l with dirty := true }
  if l.dirty then s'
  else { s'.schedule (s.cycle + 1 + Config.writeBackDelay s.freeCtr) rankUnit .lineWriteBack (.line id ⟨l.svs, l.viid⟩ l.line) with
         freeCtr := s.freeCtr + 1 }

/-! ## The VI table (R378) -/

/-- The slice line that holds a physical address, if any. -/
def State.lineByPa (s : State) (pa : Nat) : Option (Nat × CLine) :=
  s.slices.findSome? fun p => (p.2.lines.find? fun l => l.pa = pa / 128 * 128).map fun l => (p.1, l)

/-- A word of a table that the slices serve: as its line stands at its home slice, else as memory does (R379). -/
def State.tableWord (s : State) (pa : Nat) : Word :=
  match s.lineByPa pa with
  | some (_, l) => l.word (pa % 128 / 8)
  | none => s.physWord pa
/-- Write a word of such a table where it is read. -/
def State.setTableWord (s : State) (pa : Nat) (v : Word) : State :=
  match s.lineByPa pa with
  | some (id, l) => s.dirtyLine id ((l.put (pa % 128) 8 v.toNat).setTag (pa % 128 / 8) 0)
  | none => s.setPhysWord pa v


/-- The partition's VI table, as a slice's VTB gives it (R376). -/
def State.viEntryAt (s : State) (slice : Nat) (viid : BitVec 6) : Nat := (s.slice slice).vtb.toNat + 128 * viid.toNat
/-- A word of a VI-table entry, as any slice of a partition reads it. -/
def State.viWord (s : State) (slice : Nat) (viid : BitVec 6) (w : Nat) : Word := s.tableWord (s.viEntryAt slice viid + 8 * w)
def State.setViWord (s : State) (slice : Nat) (viid : BitVec 6) (w : Nat) (v : Word) : State :=
  s.setTableWord (s.viEntryAt slice viid + 8 * w) v
/-- The first slice of a die, whose VTB stands for its partition's. -/
def sliceOfDie (die : Nat) : Nat := 64 * die
/-- GEN of a VI. -/
def State.viGen (s : State) (slice : Nat) (viid : BitVec 6) : Nat := fld (s.viWord slice viid 0) 15 0

/-- DROP adds 1, saturating (R389). -/
def State.viDrop (s : State) (slice : Nat) (viid : BitVec 6) : State :=
  let w := s.viWord slice viid 8
  (s.setViWord slice viid 8 (setFld w 0 32 (satInc (w.setWidth 32)).toNat)).noteDrop (s.viEntryAt slice viid + 64)

/-- Append to a VI's event log (R398, R399): a full log discards the entry and DROP adds 1. -/
def State.viEvent (s : State) (slice : Nat) (viid : BitVec 6) (kind cause : Nat) (unit : UnitId) (data : Word) : State :=
  let w6 := s.viWord slice viid 6
  let w7 := s.viWord slice viid 7
  let size := 2 ^ fld w6 63 59
  let wr := fld w7 63 32
  if (wr + 2 ^ 32 - fld w7 31 0) % 2 ^ 32 = size then s.viDrop slice viid
  else
    let at_ := fld w6 47 6 * 64 + 16 * (wr % size)
    let w0 := BitVec.ofNat 64 (s.viGen slice viid * 2 ^ 48 + kind * 2 ^ 44 + cause * 2 ^ 40 + unit * 2 ^ 20)
    ((s.setTableWord at_ w0).setTableWord (at_ + 8) data).setViWord slice viid 7 (setFld w7 32 32 (wr + 1))

/-! ## Heald's events (R396, R397) -/

/-- The row that serves a merge message (R439, R440). -/
def mergeInstr (mkind : Nat) : Instr :=
  match mkind with
  | 8 => .quiesce
  | 9 => .answer
  | 10 => .proceed
  | 11 => .ready
  | 12 => .abort
  | _ => .done

/-- An ANSWER has reached the service core of a merge routine (R437). -/
def State.noteAnswer (s : State) (u : UnitId) : State :=
  { s with
    parts := s.parts.map fun p =>
      match p.2.merge with
      | .routine r svc e n q _ => if svcUnit svc = u then (p.1, { p.2 with merge := .routine r svc e n q true }) else p
      | _ => p }

/-- Heald's agent reads what its core's event area holds, as EVWAIT does, while no program runs on that core to read it
(assumption log 6, DESIGN CHOICE). -/
def State.healdReads (s : State) (u : UnitId) : State :=
  if unitIdent u % 8 = 0 && (s.core u).slots.all fun p => p.2.work = .none then s.modCore u fun c => { c with posts := [] } else s

/-- Heald's answer to an overflow wake: a WAKE of the cell to every compute core of the partition (R266, R402). -/
def State.wakeCores (s : State) (u : UnitId) (data : Word) : State :=
  let va := BitVec.ofNat 64 (8 * fld data 49 0)
  let ts := (s.cores.map (·.1)).filter fun t => isCompute t && s.inPart (unitDie u) t
  ts.foldl (fun s t =>
    let m : SysMsg := { who := ⟨u, 64, 0⟩, tid := 0, unit := t, b := BitVec.ofNat 64 t, c := va, d := 0, v := 0, ans := none }
    s.send 6 rankUnit u t ⟨true, 0⟩ true 0 ⟨.wakeCell .always 0 0 0 (data.extractLsb' 50 6) 0, .sys m⟩ none) s

/-- Heald hears that the stop it waits for is complete (R405, R440). -/
def State.stopHeard (s : State) (u : UnitId) (data : Word) : State :=
  s.modPart (s.pidOf (unitDie u)) fun p =>
    if p.stopC.any fun c => c % 2 ^ 48 = fld data 47 0 then { p with stopC := none } else p

/-- An event offered to a service core: while its area is full the source holds it and offers it again every 256 cycles
(R396, R410). Heald reads an event of its core by HKIND or MKIND: merge messages are served, 0, 14 and 15 discarded (R397,
R439). -/
def State.offerEvent (s : State) (u : UnitId) (data : Word) : State :=
  let (ok, s) := (s.healdReads u).postEvent u data
  if !ok then s.schedule (s.cycle + 256) rankUnit .healdEventRetry (.unitWord u data)
  else
    let k := fld data 59 56
    let s := s.healdReads u
    if unitIdent u % 8 ≠ 0 then (if k = 9 then s.noteAnswer u else s)
    else if k = 2 then s.wakeCores u data
    else if k = 3 then s.schedule s.cycle rankUnit .timeSliceEnd (.vi (s.pidOf (unitDie u)) (data.extractLsb' 0 6))
    else if k = 4 then s.stopHeard u data
    else if 8 ≤ k && k < 14 then s.schedule s.cycle rankUnit (mergeInstr k) (.merge ⟨unitDie u, data⟩)
    else s

/-- An event travels to Heald from a unit of its die (R396), a translation notice in class ACK (R317). -/
def State.healdEvent (s : State) (src : UnitId) (data : Word) : State :=
  s.send (if fld data 59 56 = 1 then 3 else 0) rankUnit src (healdUnit (unitDie src)) ⟨true, 0⟩ true 0 ⟨.healdEventRetry, .unitWord (healdUnit (unitDie src)) data⟩ none

/-- HKIND above its fields (R397). -/
def hkind (k : Nat) (v : Nat) : Word := BitVec.ofNat 64 (k * 2 ^ 56 + v)

/-! ## Translation (R235 to R239, R374) -/

/-- What an access wants of its page. -/
inductive Want | read | write | fetch
deriving DecidableEq, Repr

/-- The end of a translation. -/
inductive TRes
  | ok (pa : Nat) (e : TEntry)
  | miss
  | prot
  | badpte
  | absent (pa : Nat)
deriving DecidableEq, Repr

/-- Bits of the offset in a page of a size (R236). -/
def pageBits (psize : Nat) : Nat := 13 + 10 * psize

/-- Reserved bits of an entry are zero, and a frame is aligned to its page (R237). -/
def pteOk (pte : Word) (level : Nat) : Bool :=
  fld pte 63 48 = 0 && fld pte 12 8 = 0 && fld pte 6 5 = 0 &&
    (if pte.getLsbD 7 then level < 3 && fld pte (pageBits level - 1) 13 = 0 else 0 < level)

/-- An entry of a page table: a plain physical read, of the control and counter spaces too (R237, R376, R390). -/
def State.entryWord (s : State) (pa : Nat) : Option Word := if pa < hbmSize then some (s.physWord pa) else s.ctrlWord pa

/-- The walk from a table at a level down to level 0 (R236, R237). -/
def State.walkFrom (s : State) (sp : Space) (va : Word) : Nat → Nat → TRes
  | level, table =>
    let at_ := table + 8 * fld va (22 + 10 * level) (13 + 10 * level)
    match s.entryWord at_ with
    | none => .absent at_
    | some pte =>
      if !pte.getLsbD 0 then .miss
      else if !pteOk pte level then .badpte
      else if pte.getLsbD 7 then
        let n := pageBits level
        .ok (fld pte 47 13 * 8192 + fld va (n - 1) 0)
          { svs := sp.svs, viid := sp.viid, psize := BitVec.ofNat 2 level, vpage := fld va 52 n, pa := fld pte 47 13 * 8192,
            d := pte.getLsbD 4, sysp := pte.getLsbD 3, x := pte.getLsbD 2, w := pte.getLsbD 1, leafAt := at_ }
      else match level with
        | 0 => .badpte
        | l + 1 => State.walkFrom s sp va l (fld pte 47 13 * 8192)

/-- The leaf's permissions allow the access (R237). -/
def TEntry.allows (e : TEntry) (want : Want) (sys : Bool) : Bool :=
  (sys || !e.sysp) && match want with
    | .read => true
    | .write => e.w
    | .fetch => e.x

/-- A cached translation of an address. -/
def Slice.cached (x : Slice) (sp : Space) (va : Word) : Option TEntry :=
  x.tcache.find? fun e => e.svs == sp.svs && e.viid == sp.viid && e.vpage == fld va 52 (pageBits e.psize.toNat)

/-- The root of a space's page table, as a slice holds it (R239, R376, R378). -/
def State.rootOf (s : State) (id : Nat) (sp : Space) : Nat :=
  if sp.svs then fld (s.slice id).hroot 47 13 * 8192 else fld (s.viWord id sp.viid 1) 47 13 * 8192

/-- Translate an address at a slice, caching what a walk finds (R235, R374). -/
def State.translate (s : State) (id : Nat) (sp : Space) (va : Word) (want : Want) (sys : Bool) : TRes × State :=
  match (s.slice id).cached sp va with
  | some e =>
    (if e.allows want sys then .ok (e.pa + fld va (pageBits e.psize.toNat - 1) 0) e else .prot, s)
  | none =>
    let s := s.modSlice id fun x => { x with perf := bumpPerf x.perf 0x10 1 }
    match s.walkFrom sp va 3 (s.rootOf id sp) with
    | .ok pa e =>
      let s := s.modSlice id fun x => { x with tcache := (e :: x.tcache).take 1024 }
      (if e.allows want sys then .ok pa e else .prot, s)
    | r => (r, s)

/-- The dirty-log ring of a VI is full (R259, R378). -/
def State.dirtyFull (s : State) (id : Nat) (viid : BitVec 6) : Bool :=
  let w5 := s.viWord id viid 5
  decide ((fld w5 63 32 + 2 ^ 32 - fld w5 31 0) % 2 ^ 32 = 2 ^ fld (s.viWord id viid 4) 63 59)

/-- The outcome of marking a page dirty. -/
inductive Dirty | done | full
deriving DecidableEq, Repr

/-- A write is accepted on a page: D is set, in memory and in cached translations, and the dirty log takes one entry at
the change (R257 to R259). A full ring holds the write. -/
def State.markDirty (s : State) (id : Nat) (sp : Space) (va : Word) (e : TEntry) : Dirty × State :=
  let leaf := (s.entryWord e.leafAt).getD 0
  let setD := fun (s : State) =>
    { (if e.leafAt < hbmSize then s.setPhysWord e.leafAt (leaf ||| 16) else s) with
      slices := s.slices.map fun p => (p.1, { p.2 with tcache := p.2.tcache.map fun t => if t.leafAt = e.leafAt then { t with d := true } else t }) }
  if leaf.getLsbD 4 then (.done, s)
  else if sp.svs then (.done, setD s)
  else
    let w4 := s.viWord id sp.viid 4
    let w5 := s.viWord id sp.viid 5
    let size := 2 ^ fld w4 63 59
    let wr := fld w5 63 32
    if s.dirtyFull id sp.viid then (.full, s)
    else
      let n := pageBits e.psize.toNat
      let entry := BitVec.ofNat 64 (fld va 52 n * 2 ^ n + e.psize.toNat)
      let s := (setD s).setTableWord (fld w4 47 3 * 8 + 8 * (wr % size)) entry
      (.done, s.setViWord id sp.viid 5 (setFld w5 32 32 (wr + 1)))

/-! ## Lines at their homes (R13, R235) -/

/-- The lines that 3 MiB of a slice hold (R13). -/
def sliceCapacity : Nat := 24576

/-- Make room for one more line: a line that the spec does not choose leaves, written back when dirty (R13, R235; assumption
log 1, DESIGN CHOICE). -/
def State.makeRoom (s : State) (id : Nat) : State :=
  let ls := (s.slice id).lines
  if ls.length < sliceCapacity then s
  else
    let k := Config.sliceVictim s.freeCtr % ls.length
    let s := { s with freeCtr := s.freeCtr + 1 }
    let s := match ls[k]? with
      | some l => if l.dirty then s.writeBack l else s
      | none => s
    s.modSlice id fun x => { x with lines := x.lines.eraseIdx k }

/-- The line of an address at its home, brought in when it is not there, and the cycles of service (R329). -/
def State.getLine (s : State) (id : Nat) (sp : Space) (va : Word) (pa : Nat) : CLine × Nat × State :=
  let line := va.toNat / 128
  match (s.slice id).lineAt sp line with
  | some l => (l, 36, s.modSlice id fun x => { x with perf := bumpPerf x.perf 0 1 })
  | none =>
    let l := s.readLine sp line (pa / 128 * 128)
    let t := 36 + (if dieOfPa pa = id / 64 then 110 else 190)
    (l, t, ((s.modSlice id fun x => { x with perf := bumpPerf x.perf 8 1 }).makeRoom id).putLine id l)

/-- LINE_WRITE_BACK (R235, R238). -/
def execLineWriteBack (s : State) : Out :=
  match s.arg with
  | .line id sp line =>
    match (s.slice id).lineAt sp line with
    | some l =>
      if !l.dirty then .next s
      else if hbmSize < l.pa + 128 then .fault (.physAbsent l.pa)
      else .next ((s.writeBack l).putLine id { l with dirty := false })
    | none => .next s
  | _ => .next s

/-- Write back and drop every line of a slice that satisfies `p` (R407, R411, R425). -/
def State.flushLines (s : State) (id : Nat) (p : CLine → Bool) : State :=
  let ls := (s.slice id).lines.filter p
  let s := (ls.filter (·.dirty)).foldl (fun s l => s.writeBack l) s
  s.modSlice id fun x => { x with lines := x.lines.filter fun l => !p l }

end Sys2Proof.Machine
end

