-- ==== Sys2Proof/Machine/Reduce.lean ====
section
/-! DEFINITION. Reduction contexts: their layout, what a contribution does, and the result of a round
(18_rings R330 to R334; 21_tables R377). -/

namespace Sys2Proof.Machine

/-- FP32 as a format. -/
def redF32 : FpFmt := ⟨8, 23⟩

/-- The identity of an operation and format (R331). -/
def redIdentity (op fmt : Nat) : BitVec 320 :=
  match op with
  | 1 => if fmt = 2 then 0x7F800000 else if fmt = 0 then 0x7FFFFFFFFFFFFFFF else 0xFFFFFFFFFFFFFFFF
  | 2 => if fmt = 2 then 0xFF800000 else if fmt = 0 then 0x8000000000000000 else 0
  | 3 => 0xFFFFFFFFFFFFFFFF
  | _ => 0

/-- The context that eight words at K hold (R331). -/
def contextOf (ws : List Word) : RedContext :=
  let w := fun k => ws.getD k 0
  let acc : BitVec 320 := w 7 ++ w 6 ++ w 5 ++ w 4 ++ w 3
  { viid := BitVec.ofNat 6 (fld (w 0) 62 57), op := BitVec.ofNat 3 (fld (w 0) 56 54), fmt := BitVec.ofNat 2 (fld (w 0) 53 52),
    key := BitVec.ofNat 64 (fld (w 0) 46 0 * 64), peers := BitVec.ofNat 16 (fld (w 1) 63 48),
    expect := BitVec.ofNat 16 (fld (w 1) 47 32), count := BitVec.ofNat 16 (fld (w 1) 31 16), round := BitVec.ofNat 16 (fld (w 1) 15 0),
    xdev := (w 2).getLsbD 42, group := BitVec.ofNat 4 (fld (w 2) 41 38), place := BitVec.ofNat 25 (fld (w 2) 37 13),
    sig := (w 2).getLsbD 3, nan := (w 2).getLsbD 2, pinf := (w 2).getLsbD 1, ninf := (w 2).getLsbD 0, acc := acc,
    late := [], states := [], full := false, alloc := 0 }

/-- The context a descriptor asks for (R331, R357). -/
def newContext (viid : BitVec 6) (key desc : Word) (alloc : Nat) : RedContext :=
  let op := fld desc 43 41
  let fmt := fld desc 45 44
  { viid := viid, op := BitVec.ofNat 3 op, fmt := BitVec.ofNat 2 fmt, key := key, peers := 0, expect := BitVec.ofNat 16 (fld desc 40 25),
    count := 0, round := 0, xdev := desc.getLsbD 46, group := BitVec.ofNat 4 (fld desc 50 47),
    place := BitVec.ofNat 25 (fld desc 24 0), sig := false, nan := false, pinf := false, ninf := false, acc := redIdentity op fmt,
    late := [], states := [], full := false, alloc := alloc }

/-- Two accumulators combined by the context's operation (R332, R334). -/
def RedContext.combine (x : RedContext) (a b : BitVec 320) : BitVec 320 :=
  let p : Word := a.setWidth 64
  let q : Word := b.setWidth 64
  let up := fun (w : Word) => (w.setWidth 320 : BitVec 320)
  match x.op.toNat with
  | 0 => if x.fmt = 2 then a + b else up (p + q)
  | 1 => if x.fmt = 2 then up (redF32.minMax false p q).1 else if x.fmt = 0 then (if p.slt q then a else b) else if p.ult q then a else b
  | 2 => if x.fmt = 2 then up (redF32.minMax true p q).1 else if x.fmt = 0 then (if p.slt q then b else a) else if p.ult q then b else a
  | 3 => up (p &&& q)
  | 4 => up (p ||| q)
  | _ => up (p ^^^ q)

/-- One contribution (R332). -/
def RedContext.apply (x : RedContext) (v : Word) : RedContext :=
  let x := { x with count := x.count + 1 }
  if x.fmt ≠ 2 then { x with acc := x.combine x.acc (v.setWidth 320) }
  else
    match redF32.num (zextN 32 v), x.op.toNat with
    | .nan s, _ => { x with nan := true, sig := x.sig || s }
    | .inf neg, 0 => if neg then { x with ninf := true } else { x with pinf := true }
    | .fin neg m e, 0 =>
      let k : Nat := m * 2 ^ (e + 149).toNat
      { x with acc := x.acc + (if neg then -(BitVec.ofNat 320 k) else BitVec.ofNat 320 k) }
    | _, _ => { x with acc := x.combine x.acc ((zextN 32 v).setWidth 320), pinf := true }

/-- The round is full (R332; an EXPECT of 0 is 65,536). -/
def RedContext.roundFull (x : RedContext) : Bool := x.count = x.expect

/-- The result of a round and its flags (R332). -/
def RedContext.result (x : RedContext) : Word × FpFlags :=
  if x.fmt ≠ 2 then (x.acc.setWidth 64, 0)
  else
    let nv : FpFlags := if x.sig then flagNV else 0
    if x.op = 0 then
      if x.nan || (x.pinf && x.ninf) then (redF32.qnan, nv ||| (if x.pinf && x.ninf then flagNV else 0))
      else if x.pinf then ((redF32.pack 0 (.inf false)).1, nv)
      else if x.ninf then ((redF32.pack 0 (.inf true)).1, nv)
      else
        let t := x.acc.toInt
        redF32.pack 0 (.fin (t < 0) t.natAbs (-149))
    else if x.nan && !x.pinf then (redF32.qnan, nv)
    else (zextN 32 (x.acc.setWidth 64), nv)

/-- The context reset for its next round (R332, R334). -/
def RedContext.nextRound (x : RedContext) : RedContext :=
  let states := x.states.filter fun p => p.round ≠ x.round
  { x with
    count := 0, acc := redIdentity x.op.toNat x.fmt.toNat, sig := false, nan := false, pinf := false, ninf := false,
    round := x.round + 1, late := [], full := false, states := states,
    peers := (states.filter fun p => p.round = x.round + 1).foldl (fun m p => setBitN m p.peer true) 0 }

/-- The cores of a context's place (R28, R332). -/
def RedContext.cores (x : RedContext) : List UnitId :=
  let p : Word := x.place.setWidth 64
  (List.range (fld p 24 12)).map (fld p 11 0 + ·)

/-- The handle of a context (R358). -/
def redHandle (c : RedCtx) (key : Word) : Word :=
  let k := fld key 52 6 * 64
  match c with
  | .station id _ => BitVec.ofNat 64 (2 ^ 63 + id * 2 ^ 56 + k)
  | .port die _ => BitVec.ofNat 64 (2 ^ 63 + 2 ^ 62 + die * 2 ^ 60 + k)
  | .endpoint _ => BitVec.ofNat 64 k

/-! ## Control and counter spaces (R376, R390, R391) -/

/-- A core's performance word. -/
def clearPerf (m : List (Nat × Word)) (off : Nat) : List (Nat × Word) := aset 0 m off 0

/-- An 8-byte store to a control address (R326, R376, R390): VTB, HROOT and W are written; a counter is cleared by 0. -/
def State.ctrlStore (s : State) (pa : Nat) (v : Word) : State :=
  let kind := (pa - ctrlBase) / 2 ^ 24
  let id := pa / 2 ^ 16 % 256
  let off := pa % 2 ^ 16
  if kind = 0 then
    if off = 0 then s.schedule s.cycle rankUnit .combiningRegisterWrite (.unitWord (sliceUnit id) v)
    else if off = 8 then s.modSlice id fun x => { x with vtb := v &&& 0x0000FFFFFFFFFF80#64 }
    else if off = 0x10 then s.modSlice id fun x => { x with hroot := v &&& 0x0000FFFFFFFFE000#64 }
    else s
  else if 2 ≤ kind then s.schedule s.cycle rankUnit .counterClearStore (.physWord pa v)
  else s

/-- COMBINING_REGISTER_WRITE (R326, R327): for windows opened from now on. -/
def execCombiningRegisterWrite (s : State) : Out :=
  match s.arg with
  | .unitWord u v => .next (s.modSlice (unitIdent u) fun x => { x with w := v.setWidth 8 })
  | _ => .next s

/-- The counters cleared by a store of 0; a drop counter keeps the counts of this cycle, which come after the clear (R389,
R390). -/
def State.clearCounter (s : State) (pa : Nat) : State :=
  let id := pa / 2 ^ 16 % 256
  let off := pa % 2 ^ 16
  let core := fun (u : UnitId) => s.modCore u fun c => { c with perf := clearPerf c.perf (pa % 4096) }
  if 0xFF0100000000 ≤ pa && pa < 0xFF0101000000 then core (pa / 4096 % 4096)
  else if 0xFF0200000000 ≤ pa && pa < 0xFF0200020000 then core (svcUnit (pa / 4096 % 32))
  else match (pa - ctrlBase) / 2 ^ 24 with
  | 2 => s.modSlice id fun x => if off = 0x28 then { x with high := x.occupancy } else { x with perf := clearPerf x.perf off }
  | 3 => s.modStation id fun x => { x with perf := clearPerf x.perf off }
  | 4 => s.modPort id fun x => if off = 0 then { x with drop := BitVec.ofNat 32 (s.dropsNow id) } else { x with perf := clearPerf x.perf off }
  | 5 => s.modEngine id fun x => if off = 0 then { x with drop := BitVec.ofNat 32 (s.dropsNow (8 + id)) } else { x with perf := clearPerf x.perf off }
  | _ => s

/-- COUNTER_CLEAR_STORE (R389, R390): a store of any other value is ignored. -/
def execCounterClearStore (s : State) : Out :=
  match s.arg with
  | .physWord pa v => .next (if v = 0 then s.clearCounter pa else s)
  | _ => .next s

end Sys2Proof.Machine
end

