-- ==== Sys2Proof/Machine/Mcast.lean ====
section
/-! DEFINITION. Multicasts and their tokens (18_rings R323 to R325). -/

namespace Sys2Proof.Machine

/-- The tokens of a multicast, ascending: of every ring pair it enters, its source's own one too, and of every spine on its
route (R320, R324). -/
def State.mcTokens (s : State) (src : UnitId) (dsts : List UnitId) : List Nat :=
  sortOn id (s.ownPair src ++ dsts.map s.tokenOf ++ dsts.flatMap (s.spinesTo src)).eraseDups

/-! ## The packet (R323) -/

/-- The receivers of a multicast on a ring pair: bit c for cluster stop c (R323). -/
def State.mcBitmap (s : State) (dsts : List UnitId) (pair : Nat) : BitVec 32 :=
  (dsts.filter fun u => unitKind u = 0 && s.tokenOf u = pair).foldl
    (fun m u => match s.locOf u with
      | .ring _ _ _ pos =>
        match (List.range 32).find? fun c => clusterPos c = pos with
        | some c => setBitN m c true
        | none => m
      | _ => m) 0

/-- SVCM: bit 2·die + cluster of each service cluster that receives (R318, R323). -/
def mcSvcm (dsts : List UnitId) : BitVec 8 :=
  (dsts.filter isService).foldl (fun m u => setBitN m (2 * unitDie u + unitIdent u / 4 % 2) true) 0

/-- The arbiter of a token (R324). -/
def arbiter (tok : Nat) : UnitId :=
  if tok < 32 then stationUnit (16 * (tok / 8) + 4 * (tok / 2 % 4)) else engineUnit (tok - 32)

/-- Ask the arbiter for a token. -/
def State.askToken (s : State) (src : UnitId) (tok id : Nat) : State :=
  s.send 6 rankUnit src (arbiter tok) ⟨true, 0⟩ true 0 ⟨.multicastTokenGrant, .token tok id⟩ none

/-- Everything a multicast hands to its receivers. -/
def mcParts (m : Multicast) : List (UnitId × Ev) :=
  m.wakes.map (fun w => (w.unit, ⟨.wakeMulticastDelivery, .wake w⟩)) ++
  m.reads.map (fun l => (l.unit, ⟨.longLatencyLanding, .land l⟩)) ++
  m.fetches.map (fun f => (f.who.unit, ⟨.lineFetch, .fetch f⟩)) ++
  m.deliveries.map (fun d => (d.1, ⟨.deliveryLanding, .delivery d.1 d.2⟩)) ++
  m.fills.map fun f => (sliceUnit f.slice, ⟨.replicaFill, .replica f⟩)

/-- The station of a quadrant from which a multicast goes onto its pairs: the source's own, or in another quadrant station 0,
which no rule names (R324; assumption log 40, DESIGN CHOICE). -/
def State.mcStation (s : State) (src : UnitId) (d q : Nat) : Nat :=
  match s.locOf src with
  | .ring d' q' _ pos => if d' = d && q' = q then nearStation pos else 0
  | .station d' q' k => if d' = d && q' = q then k else 0
  | .spine _ _ => 0

/-- The space of what a receiver takes. -/
def State.partSpace (s : State) (p : UnitId × Ev) : Space :=
  match p.2.arg with
  | .replica f => f.space
  | _ => s.spaceOf p.1

/-- The space of a multicast. -/
def State.mcSpace (s : State) (m : Multicast) : Space :=
  match mcParts m with
  | p :: _ => s.partSpace p
  | [] => ⟨true, 0⟩

/-- Its receivers. -/
def mcUnits (m : Multicast) : List UnitId := ((mcParts m).map (·.1)).eraseDups

/-- A multicast with the receivers that `f` keeps. -/
def mcOnly (m : Multicast) (f : UnitId → Bool) : Multicast :=
  { m with
    wakes := m.wakes.filter fun w => f w.unit
    reads := m.reads.filter fun l => f l.unit
    fetches := m.fetches.filter fun r => f r.who.unit
    deliveries := m.deliveries.filter fun d => f d.1
    fills := m.fills.filter fun r => f (sliceUnit r.slice) }

/-- A token goes back to its arbiter, in class CTL, from a station or port when the last flit has passed there (R317, R324). -/
def State.giveToken (s : State) (at_ : UnitId) (id t due : Nat) : State :=
  s.send 6 rankUnit at_ (arbiter t) ⟨true, 0⟩ true (due - s.cycle) ⟨.multicastTokenRelease, .token t id⟩ none

/-- A copy goes on to a unit: a station, a port or a service cluster, `leg` cycles away. -/
def State.sendCopy (s : State) (id : Nat) (m : Multicast) (src dst : UnitId) (side leg : Nat) : State :=
  s.inject 4 rankLanding src dst (s.mcSpace m) (s.cycle + leg + Config.netDelay s.nextSeq) s.cycle false
    ⟨.wakeMulticastDelivery, .copy id m dst side⟩ none

/-- Cycles of the route between two units. -/
def State.pathCost (s : State) (src dst : UnitId) : Nat := ((s.path src dst).map Leg.cost).sum

/-- The dies beyond a die to which a multicast goes on: the port it comes in by there, and whether it goes that way (R321). -/
def mcNext (src here : Nat) (dies : List Nat) : List (UnitId × Bool) :=
  let at_ := fun (k : Nat) => dies.contains ((src + k) % 4)
  if here = src then
    [(portUnit ((src + 1) % 4) true, at_ 1 || at_ 2), (portUnit ((src + 3) % 4) false, at_ 3)]
  else if here = (src + 1) % 4 then [(portUnit ((src + 2) % 4) true, at_ 2)]
  else []

/-- The dies that a multicast reaches by way of a die. -/
def mcBeyond (src here : Nat) : List Nat := if here = (src + 1) % 4 then [here, (src + 2) % 4] else [here]

/-- Where a multicast goes from a unit on a die's spine: a station of every other quadrant with receivers, a unit of every service
cluster with receivers, and the ports by which it comes into other dies. -/
def State.spineTargets (s : State) (m : Multicast) (src : UnitId) : List UnitId × List UnitId × List UnitId :=
  let d := unitDie src
  let us := mcUnits m
  let here := us.filter fun u => unitDie u = d
  let own := (s.locOf m.src).quad
  let quads := ((here.filterMap fun u => (s.locOf u).quad).eraseDups).filter fun q => own ≠ some q
  let stops := here.filter fun u => (s.locOf u).quad.isNone
  (quads.map fun q => stationUnit (16 * q.1 + 4 * q.2 + s.mcStation m.src q.1 q.2),
   stops.filter fun u => (stops.find? fun v => s.locOf v = s.locOf u) == some u,
   ((mcNext (unitDie m.src) d (us.map unitDie)).filter (·.2)).map (·.1))

/-- The spine position of a stop or station. -/
def Loc.spinePos : Loc → Nat
  | .station _ q k => 1 + 5 * q + k
  | .spine _ x => x
  | .ring _ _ _ _ => 0

/-- The side of the spine on which a copy leaves a unit for another, which may be a port of the next die (R321). -/
def State.outSide (s : State) (src dst : UnitId) : Nat :=
  let p := (s.locOf src).spinePos
  if unitDie src = unitDie dst then spineSide p (s.locOf dst).spinePos else spineSide p (if unitIdent dst % 2 = 1 then 5 else 15)

/-- A multicast goes along a die's spine from a unit on it, `start` cycles after its arrival there: to a station of every other
quadrant with receivers, to its service clusters, and to the ports on the way to other dies. The spine's token goes back when the
last flit has left it (R321, R324). -/
def State.spineOut (s : State) (id : Nat) (m : Multicast) (src : UnitId) (start : Nat) : State :=
  let d := unitDie src
  let (stations, clusters, outer) := s.spineTargets m src
  let side := fun (dst : UnitId) => if unitKind dst = 3 then s.outSide src dst else 6
  let s := (stations ++ clusters ++ outer).foldl
    (fun s dst => s.sendCopy id m src dst (side dst) (start + s.pathCost src dst + if clusters.contains dst then 7 else 0)) s
  let last := ((stations ++ clusters).map fun u => s.lastDue 4 src u) ++ outer.map fun u => s.lastDue 4 src u - 40
  if m.tokens.contains (32 + d) then s.giveToken src id (32 + d) (last.foldl max s.cycle + mcFlits m) else s

/-- A station replicates a multicast onto each pair of its quadrant with receivers: the copy goes round ring + from the station
and back, every marked stop takes it, and the pair's token goes back as the last flit returns. On its source's side it goes on
along the spine (R324). -/
def State.replicate (s : State) (id : Nat) (m : Multicast) (st side : Nat) : State :=
  let d := st / 16
  let q := st / 4 % 4
  let k := st % 4
  let start := if side = 6 then 0 else 10
  let base := s.cycle + start
  let s := s.countStation st 4 (mcFlits m)
  let s := [0, 1].foldl
    (fun s pair =>
      let t := 8 * d + 2 * q + pair
      let twice := if aget 0 s.degraded t = 0 then 1 else 2
      let on := (mcParts m).filterMap fun p => match s.locOf p.1 with
        | .ring d' q' pair' pos => if d' = d && q' = q && pair' = pair then some (pos, p.2) else none
        | _ => none
      if on = [] then s
      else
        let s := on.foldl (fun s p => s.schedule (base + (p.1 + 40 - 10 * k) % 40 * twice + 7) rankLanding p.2.ins p.2.arg) s
        s.giveToken (stationUnit st) id t (base + 40 * twice + mcFlits m)) s
  if side < 4 || side = 6 then
    if (mcUnits m).all fun u => (s.locOf u).quad == some (d, q) then s else s.spineOut id m (stationUnit st) start
  else s

/-- The sides by which a station sends a multicast on (R336). -/
def State.mcSides (s : State) (m : Multicast) (st side : Nat) : List Nat :=
  let pairs := ([0, 1].filter fun pair => (mcUnits m).any fun u => s.tokenOf u = st / 4 * 2 + pair).map (2 * ·)
  let (a, b, c) := s.spineTargets m (stationUnit st)
  pairs ++ if side < 4 || side = 6 then ((a ++ b ++ c).map fun u => s.outSide (stationUnit st) u).eraseDups else []

/-- A station keeps the packets of a VI: through its stop, and while it still reads what it has spilled of it (R335, R337). -/
def State.keeps (s : State) (st : Nat) (sp : Space) : Bool :=
  s.stoppedAt (st / 16) sp.svs sp.viid s.cycle || (!sp.svs && (s.station st).reading.contains sp.viid)

/-- A multicast with all its tokens leaves its source (R324). -/
def State.sendMulticast (s : State) (id : Nat) (m : Multicast) : State :=
  let s := { s with mcasts := s.mcasts.filter (·.id ≠ id) }
  let (dst, side, cost) := match s.locOf m.src with
    | .ring d q pair pos =>
      let k := nearStation pos
      (stationUnit (16 * d + 4 * q + k), ringSide pair pos (10 * k), s.ringHops d q pair pos (10 * k))
    | _ => (m.src, 6, 0)
  s.sendLeg 4 rankLanding m.src dst (s.mcSpace m) true 0 (7 + cost) ⟨.wakeMulticastDelivery, .copy id m dst side⟩ none

/-- A multicast goes no further than a port: the tokens of the dies beyond go back (R324, R381). -/
def State.dropCopy (s : State) (id : Nat) (m : Multicast) (at_ : UnitId) : State :=
  let ds := mcBeyond (unitDie m.src) (unitDie at_)
  (m.tokens.filter fun t => ds.contains (if t < 32 then t / 8 else t - 32)).foldl (fun s t => s.giveToken at_ id t s.cycle) s

/-- A source holds a token: it asks for the next one, or sends (R324). -/
def State.tokenGranted (s : State) (id : Nat) : State :=
  match s.mcasts.find? (·.id == id) with
  | none => s
  | some r =>
    match r.left.drop 1 with
    | t :: ts => ({ s with mcasts := s.mcasts.map fun (x : McRun) => if x.id = id then { x with left := t :: ts } else x } : State).askToken r.mc.src t id
    | [] => s.sendMulticast id r.mc

/-- Start a multicast (R323, R324). A port engine delivers to no die outside its DIES, and counts the packet once (R381). -/
def State.startMulticast (s : State) (m : Multicast) : State :=
  let far := fun (u : UnitId) => unitKind m.src = 4 && !(s.engine (unitIdent m.src)).dies.getLsbD (unitDie u)
  let s := if (mcUnits m).any far then s.dropAtEngine (unitIdent m.src) else s
  let m := mcOnly m fun u => !far u
  let m : Multicast := { m with tokens := s.mcTokens m.src (mcUnits m) }
  match if mcParts m = [] then [] else m.tokens with
  | [] => s
  | t :: _ =>
    let (id, s) := s.fresh
    ({ s with mcasts := s.mcasts ++ [⟨id, m.tokens, m⟩] } : State).askToken m.src t id

/-- A multicast of nothing yet. -/
def mcFrom (src : UnitId) : Multicast := ⟨src, [], [], [], [], [], [], 0⟩

/-- The arbiter grants a token: the grant travels to the multicast's source, in class CTL (R317, R324). -/
def State.grantToken (s : State) (t id : Nat) : State :=
  match s.mcasts.find? (·.id == id) with
  | none => s
  | some r => s.send 6 rankUnit (arbiter t) r.mc.src ⟨true, 0⟩ true 0 ⟨.multicastTokenGrant, .granted id⟩ none

/-- MULTICAST_TOKEN_GRANT (R324): at its arbiter a free token is granted, else the request waits in order of arrival; at the source
the grant has come. -/
def execMulticastTokenGrant (s : State) : Out :=
  match s.arg with
  | .token t id =>
    let q := aget [] s.tokens t
    let s := { s with tokens := aset [] s.tokens t (q ++ [id]) }
    .next (if q = [] then s.grantToken t id else s)
  | .granted id => .next (s.tokenGranted id)
  | _ => .next s

/-- MULTICAST_TOKEN_RELEASE (R324): at its arbiter, the token goes to the next request. -/
def execMulticastTokenRelease (s : State) : Out :=
  match s.arg with
  | .token t id =>
    let q := (aget [] s.tokens t).filter (· ≠ id)
    let s := { s with tokens := aset [] s.tokens t q }
    .next (match q with
      | n :: _ => s.grantToken t n
      | [] => s)
  | _ => .next s

end Sys2Proof.Machine
end

