-- ==== Sys2Proof/Machine/Home.lean ====
section
/-! DEFINITION. What homes share: answers, the hold behind a translation notice, the dirty-log hold, combining windows,
and pools as homes (11_pool R199; 13_global R241 to R243, R253, R257 to R259; 15_ordering R287, R288; 18_rings R327;
23_traps R395, R411). -/

namespace Sys2Proof.Machine

/-! ## Answers -/

/-- Change the state of a posted journal entry that this access still holds (R254). -/
def State.markEntry (s : State) (u : UnitId) (e stamp : Nat) (st : JState) : State :=
  match afind (s.core u).journal e with
  | some j => if j.stamp = stamp && j.counted then s.modCore u fun c => { c with journal := aput c.journal e { j with st := st } } else s
  | none => s

/-- Acknowledge a posted access (R251). -/
def State.ackEntry (s : State) (src u : UnitId) (sp : Space) (e stamp extra : Nat) : State :=
  s.send 3 rankReply src u sp false extra ⟨.storeAcknowledgement, .ack u e stamp⟩ none

/-- Refuse a posted access (R256). -/
def State.refuseEntry (s : State) (src u : UnitId) (sp : Space) (e stamp cause : Nat) : State :=
  s.send 3 rankReply src u sp false 36 ⟨.storeRefusal, .refusal ⟨u, e, stamp, cause, false, true, 0⟩⟩ none

/-- The answer as its core takes it. -/
def replyEv (a : Access) (res : LandRes) : Ev :=
  match a.kind with
  | .fetch => ⟨.lineFetch, .fetch ⟨a.who, a.tid, a.addr, res⟩⟩
  | _ => ⟨.longLatencyLanding, .land ⟨a.who.unit, a.tid, res⟩⟩

/-- The line of a reply may fill a replica (R328). -/
def CLine.whole (l : CLine) : Bool := l.tags = 0 && l.marked = 0

/-- The message that takes a reply to a far reader through its replica slice (R287). -/
def State.fillMsg (s : State) (a : Access) (res : LandRes) (l : Option CLine) (extra : Nat) : ReplicaMsg :=
  { slice := replicaOf (unitDie a.who.unit) (unitIdent a.at_), space := a.space, line := a.addr.toNat / 128,
    data := l.bind fun l => if l.whole then some l.data else none, drop := l.any fun l => !l.whole, stamp := a.walk, access := a,
    res := res, eta := s.cycle + extra + s.travel a.at_ a.who.unit, read := s.nextSeq }

/-- Answer a load-type access, or a posted AMO or CAS (R247, R250, R73), with the line it read. The reply to a far read fills
its replica slice on its way (R287); the news of a translation notice travels in class ACK (R317). -/
def State.replyWith (s : State) (a : Access) (res : LandRes) (l : Option CLine) (extra : Nat) : State :=
  let u := a.who.unit
  match a.entry, res with
  | some (e, st), .fail c => s.refuseEntry a.at_ u a.space e st c
  | some (e, st), .notice => s.markEntry u e st .held
  | some (e, st), .resumed => s.markEntry u e st .posted
  | some (e, st), _ => s.ackEntry a.at_ u a.space e st extra
  | none, .notice | none, .resumed =>
    let e := replyEv a res
    s.send 3 rankReply a.at_ u a.space false extra e none
  | none, _ =>
    let m := s.fillMsg a res l extra
    if a.replica && a.at_ ≠ sliceUnit m.slice then s.send 1 rankUnit a.at_ (sliceUnit m.slice) a.space false extra ⟨.replicaFill, .replica m⟩ none
    else s.send 1 rankLanding a.at_ u a.space false extra (replyEv a res) none

/-- Answer without a line. -/
def State.replyTo (s : State) (a : Access) (res : LandRes) (extra : Nat) : State := s.replyWith a res none extra

/-- A refusal of a plain store under erratum E3 returns through the issuing die's replica slice (R456). -/
def State.refuseE3 (s : State) (p : PostedStore) (cause : Nat) : State :=
  let u := p.who.unit
  let r := replicaOf (unitDie u) (unitIdent p.at_)
  s.send 3 rankReply p.at_ (sliceUnit r) p.space false 36 ⟨.heldRefusalRelease, .refusal ⟨u, p.entry, p.stamp, cause, false, false, r⟩⟩ none

/-- Refuse a posted store at its home. -/
def State.refuseStore (s : State) (p : PostedStore) (cause : Nat) : State :=
  if p.e3 && cause = 9 then s.refuseE3 p cause else s.refuseEntry p.at_ p.who.unit p.space p.entry p.stamp cause

/-- Answer an engine's write (R345, R347). -/
def State.ackEngine (s : State) (w : EngWrite) (cause : Nat) : State :=
  s.send 3 rankReply w.at_ w.unit w.space false 36 ⟨.copyGranule, .engAck ⟨w.unit, w.ch, w.tid, cause, w.last⟩⟩ none

/-- Answer an RDJOIN or RDFREE (R357, R360). -/
def State.replyJoin (s : State) (ins : Instr) (j : JoinMsg) (r : JoinRes) : State :=
  s.send 1 rankLanding j.at_ j.who.unit j.space false 36 ⟨ins, .join { j with res := r }⟩ none

/-- An RMA's piece is answered from its home to its port (R317, R429). -/
def State.rmaAnswer (s : State) (ins : Instr) (r : RmaReq) (wait : Nat) : State :=
  s.send (if ins = .rmaWrite then 3 else 1) rankReply (r.home.getD 0) (engineUnit r.die) ⟨false, r.viid⟩ false wait ⟨ins, .rma r⟩ none

/-- Every request that can be held at a home fails with a cause (R242, R243); an end notice has no one to tell, and goes on; an
endpoint's contribution is dropped (assumption log 42, DESIGN CHOICE). -/
def State.failEv (s : State) (ev : Ev) (cause : Nat) : State :=
  match ev.arg with
  | .access a => s.replyTo a (.fail cause) 36
  | .store p => s.refuseStore p cause
  | .engine w => s.ackEngine w cause
  | .join j => s.replyJoin ev.ins j (.fail cause)
  | .rma r => s.rmaAnswer ev.ins { r with ans := some false } 36
  | .notice _ => s.schedule s.cycle rankReply ev.ins ev.arg
  | _ => s

/-- A member waits off rotation for a notice, or no longer does (R241, R242); an entry is Held, or Posted again (R254). -/
def State.tellNotice (s : State) (ev : Ev) (resumed : Bool) : State :=
  match ev.arg with
  | .access a =>
    match a.kind with
    | .granule _ => s
    | _ => s.replyTo a (if resumed then .resumed else .notice) 0
  | .store p => s.markEntry p.who.unit p.entry p.stamp (if resumed then .posted else .held)
  | .join j => s.send 3 rankReply j.at_ j.who.unit j.space false 0
      ⟨.longLatencyLanding, .land ⟨j.who.unit, j.tid, if resumed then .resumed else .notice⟩⟩ none
  | _ => s

/-! ## Holds at a home (R241, R259) -/

/-- The 8 KiB chunk of an address. -/
def chunkOf (va : Word) : Nat := va.toNat / 8192

/-- The hold of a chunk. -/
def Slice.heldAt (x : Slice) (sp : Space) (chunk : Nat) : Option HeldChunk :=
  x.held.find? fun h => h.space == sp && h.chunk == chunk

/-- Add a request to the hold of its chunk, or begin one. -/
def State.holdReq (s : State) (id : Nat) (sp : Space) (chunk : Nat) (notice : Bool) (ev : Ev) : State :=
  s.modSlice id fun x =>
    match x.heldAt sp chunk with
    | some _ => { x with held := x.held.map fun h => if h.space == sp && h.chunk == chunk then { h with reqs := h.reqs ++ [ev] } else h }
    | none => { x with held := x.held ++ [⟨sp, chunk, notice, [ev]⟩] }

/-- End the hold of a chunk and take its requests up again in their order (R242), before anything that arrives in this cycle
(R252, R253). -/
def State.releaseChunk (s : State) (id : Nat) (sp : Space) (chunk : Nat) : State :=
  match (s.slice id).heldAt sp chunk with
  | none => s
  | some h =>
    let s := s.modSlice id fun x => { x with held := x.held.filter (· ≠ h) }
    h.reqs.foldl (fun s e => s.schedule s.cycle rankReply e.ins e.arg) s

/-- The kind of access a notice reports (R397). -/
def noticeKind (ev : Ev) : Nat :=
  match ev.arg with
  | .access a => if a.entry.isSome then 1 else match a.kind with
    | .fetch => 2
    | _ => 0
  | .store _ | .engine _ | .join _ | .contrib _ => 1
  | .rma _ => if ev.ins = .rmaWrite then 1 else 0
  | _ => 0

/-- A translation or protection miss in the space of a VI (R241): the access is held, its issuer told, and Heald sent a
notice. Heald's answer comes from its own code, or in class ACK from Heald as an agent (R317; assumption log 13, DESIGN
CHOICE). -/
def State.sendNotice (s : State) (id : Nat) (sp : Space) (va : Word) (prot : Bool) (ev : Ev) : State :=
  let u := sliceUnit id
  let s := (s.holdReq id sp (chunkOf va) true ev).tellNotice ev false
  let data := hkind 1 (noticeKind ev * 2 ^ 54 + (if prot then 2 ^ 53 else 0) + sp.viid.toNat * 2 ^ 40 + fld va 52 13)
  let s := s.healdEvent u data
  let n := s.freeCtr
  let s := { s with freeCtr := n + 1 }
  let heald := healdUnit (id / 64)
  let m : SysMsg := { who := ⟨heald, 64, 0⟩, tid := 0, unit := u, b := va, c := if prot then 2 else 1, d := 0, v := 0, ans := none }
  let ins : Instr := if Config.healdResumes n then .wakeResume .always 0 0 0 sp.viid 0 else .wakeFail .always 0 0 0 sp.viid 0
  s.send 3 rankUnit heald u ⟨true, 0⟩ true (s.travel u heald + Config.netDelay n) ⟨ins, .sys m⟩ none

/-- What every global access does on arrival at its home slice: wait behind a hold of its chunk, translate, and go on
with its physical address and leaf (R239, R241 to R243). -/
def State.homeGate (s : State) (id : Nat) (sp : Space) (va : Word) (want : Want) (sys : Bool) (ev : Ev)
    (go : State → Nat → TEntry → Out) : Out :=
  if ((s.slice id).heldAt sp (chunkOf va)).isSome then .next (s.holdReq id sp (chunkOf va) true ev)
  else
    let (r, s) := s.translate id sp va want sys
    match r with
    | .ok pa e => if hbmSize ≤ pa && (s.ctrlWord pa).isNone then .fault (.physAbsent pa) else go s pa e
    | .miss => .next (if sp.svs then s.failEv ev 1 else s.sendNotice id sp va false ev)
    | .prot => .next (if sp.svs then s.failEv ev 2 else s.sendNotice id sp va true ev)
    | .badpte => .next (s.failEv ev 3)
    | .absent pa => .fault (.physAbsent pa)

/-! ## Combining windows (R327) -/

/-- What a plain read returns from a line. -/
def lineRes (a : Access) (l : CLine) : LandRes :=
  let off := a.addr.toNat % 128
  let n := reqSize a.kind
  if (lineWords off n).any fun k => l.marked.getLsbD k then .fail 6
  else match a.kind with
    | .ld wd z => .val (loadExt wd z (l.bytes off n)) 0 0
    | .ldt => .val ((l.tag (off / 8)).setWidth 64) 0 0
    | .ldp | .record _ => .val (BitVec.ofNat 64 (l.bytes off 8)) (BitVec.ofNat 64 (l.bytes (off + 8) 8)) 0
    | .fetch | .granule _ => .data (BitVec.ofNat 512 (l.bytes off n))
    | _ => .val (BitVec.ofNat 64 (l.bytes off n)) 0 0

/-- Close a window: one reply, or one multicast for more readers, no earlier than the line is present (R327). -/
def State.closeWindow (s : State) (id : Nat) (w : Window) (l : CLine) : State :=
  let s := s.modSlice id fun x => { x with windows := x.windows.filter (·.id ≠ w.id) }
  let wait := w.ready - s.cycle
  match w.readers with
  | [a] => s.replyWith a (lineRes a l) (some l) (36 + wait)
  | rs =>
    let s := s.modSlice id fun x => { x with perf := bumpPerf x.perf 0x18 rs.length }
    let near := rs.filter fun a => !a.replica
    let far := rs.filter (·.replica)
    let fetches := (near.filter fun a => a.kind == .fetch).map fun a => (⟨a.who, a.tid, a.addr, lineRes a l⟩ : FetchReply)
    let reads := (near.filter fun a => a.kind != .fetch).map fun a => (⟨a.who.unit, a.tid, lineRes a l⟩ : Landing)
    let m := { mcFrom (sliceUnit id) with
      line := l.data, reads := reads, fetches := fetches, fills := far.map fun a => s.fillMsg a (lineRes a l) (some l) (36 + wait) }
    s.schedule (s.cycle + 36 + wait) rankUnit .lateWakeMulticast (.multicast id m)

/-- Close the windows on a line before it changes (R288, R327). -/
def State.closeWindowsOn (s : State) (id : Nat) (l : CLine) : State :=
  ((s.slice id).windows.filter fun w => w.svs == l.svs && w.viid == l.viid && w.line == l.line).foldl
    (fun s w => s.closeWindow id w l) s

/-- Serve a plain read whose line is at hand after `t` cycles of service, in a window when combining is on (R327): the
window closes W cycles after the arrival of the read that opened it, and not before the line is present. -/
def State.serveRead (s : State) (id : Nat) (a : Access) (l : CLine) (t : Nat) : State :=
  let x := s.slice id
  let w := x.w.toNat
  let ready := s.cycle + (t - 36)
  match x.windows.find? fun k => k.svs == l.svs && k.viid == l.viid && k.line == l.line && k.readers.length < 32 with
  | some k =>
    let k := { k with readers := k.readers ++ [a], ready := max k.ready ready }
    let s := s.modSlice id fun x => { x with windows := x.windows.map fun j => if j.id = k.id then k else j }
    if k.readers.length = 32 then s.closeWindow id k l else s
  | none =>
    if w = 0 || 16 ≤ x.windows.length then s.replyWith a (lineRes a l) (some l) t
    else
      let (n, s) := s.fresh
      let s := s.modSlice id fun x => { x with windows := x.windows ++ [⟨n, l.svs, l.viid, l.line, [a], ready⟩] }
      s.schedule (max s.cycle (max ready (a.came + w))) rankUnit .combiningWindowClose (.window id n)

/-- COMBINING_WINDOW_CLOSE (R327): once the line is present. -/
def execCombiningWindowClose (s : State) : Out :=
  match s.arg with
  | .window id n =>
    match (s.slice id).windows.find? (·.id == n) with
    | none => .next s
    | some w =>
      if s.cycle < w.ready then .next (s.schedule w.ready rankUnit .combiningWindowClose (.window id n))
      else match (s.slice id).lineAt ⟨w.svs, w.viid⟩ w.line with
      | some l => .next (s.closeWindow id w l)
      | none =>
        let va := BitVec.ofNat 64 (128 * w.line)
        match s.translate id ⟨w.svs, w.viid⟩ va .read true with
        | (.ok pa _, s) =>
          let (l, _, s) := s.getLine id ⟨w.svs, w.viid⟩ va pa
          .next (s.closeWindow id w l)
        | (_, s) =>
          let s := s.modSlice id fun x => { x with windows := x.windows.filter (·.id ≠ n) }
          .next (w.readers.foldl (fun s a => s.replyTo a (.fail 1) 36) s)
  | _ => .next s

/-! ## Writes at a home (R253, R257 to R260) -/

/-- A write that a home has accepted goes on once its page is dirty; behind a full dirty log it is held (R257, R259). -/
def State.whenDirty (s : State) (id : Nat) (sp : Space) (va : Word) (e : TEntry) (ev : Ev) (done : State → State) : State :=
  match s.markDirty id sp va e with
  | (.full, s) =>
    let s := (s.holdReq id sp (chunkOf va) false ev).healdEvent (sliceUnit id) (hkind 3 sp.viid.toNat)
    s.schedule (s.cycle + 256) rankUnit .healdEventRetry (.line id sp (chunkOf va))
  | (.done, s) => done s

/-- A write is applied to a line: its page is dirty, windows on the line close, the version advances and the line is kept
(R257 to R260, R288). -/
def State.applyWrite (s : State) (id : Nat) (sp : Space) (va : Word) (pa : Nat) (e : TEntry) (ev : Ev) (old new : CLine)
    (done : State → State) : State :=
  s.whenDirty id sp va e ev fun s => done (((s.closeWindowsOn id old).bumpVersion pa).dirtyLine id new)

/-- HEALD_EVENT_RETRY (R259, R396): an event arrives at Heald, or is offered again; a write held by a full dirty log is
tried again. -/
def execHealdEventRetry (s : State) : Out :=
  match s.arg with
  | .unitWord u v => .next (s.offerEvent u v)
  | .line id sp chunk =>
    match (s.slice id).heldAt sp chunk with
    | some h =>
      .next (if h.notice then s
        else if s.dirtyFull id sp.viid then s.schedule (s.cycle + 256) rankUnit .healdEventRetry (.line id sp chunk)
        else s.releaseChunk id sp chunk)
    | none => .next s
  | _ => .next s

/-! ## Pools as homes (R199, R395, R411) -/

/-- Idle (R406): no occupied slot, anchor, family entry or engine command. -/
def Core.idle (c : Core) : Bool :=
  (c.slots.all fun p => p.2.work = .none && p.2.anchor.isNone) && (c.fams.all fun p => p.2.st == .free) && c.vq.isEmpty &&
    c.mq.isEmpty && c.xq.isEmpty && c.curve.isNone

/-- A pool's zero-fill is in progress: an access that reaches it waits at the cluster stop, and goes in before those that arrive
as the fill ends (R198, R253). -/
def State.fillHold (s : State) (u : UnitId) (ins : Instr) (arg : Arg) : Option State :=
  let t := (s.core u).zeroFillUntil
  if unitKind u ≠ 1 && s.cycle < t then some (s.schedule t rankReply ins arg) else none

/-- A remote access of `n` bytes reaches a pool: none, or the cause of its failure (R199, R243, R395, R411). -/
def State.poolCause (s : State) (u : UnitId) (off n : Nat) (from_ : UnitId) : Option Nat :=
  let c := s.core u
  if c.retired then some 6
  else if poolSize u < off + n then some 5
  else if c.inScratch (poolSize u) off n || (isService from_ && (c.idle || c.stopped)) then none
  else some 5

/-- The pool offset of an address at its core. -/
def poolOff (u : UnitId) (a : Word) : Nat :=
  match targetOf u a with
  | some (.own off) => off
  | _ => fld a 19 0

end Sys2Proof.Machine
end

