-- ==== Sys2Proof/Machine/HomeEvents.lean ====
section
/-! DEFINITION. Loads, stores, atomics and engine writes at their homes, their answers, and replicas
(13_global R247 to R256; 15_ordering R287; 18_rings R328; 19_engine R345, R347; 28_errata R455, R456). -/

namespace Sys2Proof.Machine

/-- A load-type access at a core's pool (R199, R329). -/
def State.poolLoad (s : State) (a : Access) : State :=
  let u := a.at_
  let off := poolOff u a.addr
  let n := reqSize a.kind
  match s.poolCause u off n a.who.unit with
  | some c => s.replyTo a (.fail c) 6
  | none =>
    let v := (s.core u).poolRead off n
    let r : LandRes := match a.kind with
      | .ld wd z => .val (loadExt wd z v) 0 0
      | .ldp | .record _ => .val (BitVec.ofNat 64 v) (BitVec.ofNat 64 (v / 2 ^ 64)) 0
      | .fetch | .granule _ => .data (BitVec.ofNat 512 v)
      | _ => .val (BitVec.ofNat 64 v) 0 0
    s.replyTo a r 6

/-- A request goes on from its replica slice to its home, where it is when it would have been on a way of its own (R287, R329). -/
def State.onward (s : State) (cls : Nat) (src : UnitId) (sp : Space) (eta : Nat) (home : Nat) (ev : UnitId → Ev) (back : Option Ev) :
    State :=
  s.sendLeg cls rankUnit src (sliceUnit home) sp false 0 (max 1 (eta - s.cycle)) (ev (sliceUnit home)) back

/-- A plain read passes its reader's replica slice (R287, R328): a hit is answered there, a miss goes on to the home. -/
def State.replicaLoad (s : State) (id : Nat) (a : Access) : State :=
  let x := s.slice id
  match x.replicas.find? fun l => l.svs == a.space.svs && l.viid == a.space.viid && l.line == a.addr.toNat / 128 with
  | some l =>
    let c : CLine := { svs := l.svs, viid := l.viid, line := l.line, data := l.data, tags := 0, dirty := false, pa := 0, marked := 0 }
    (s.modSlice id fun x => { x with perf := bumpPerf x.perf 0x20 1 }).replyTo a (lineRes a c) 36
  | none =>
    s.onward 0 a.at_ a.space a.eta (s.homeOfSlice id a.space a.addr)
      (fun home => ⟨reqInstr a.kind, .access { a with at_ := home, walk := s.cycle }⟩) (some (selvBack a))

/-- A plain read at its home slice (R247, R327). -/
def State.sliceLoad (s : State) (id : Nat) (a : Access) : Out :=
  let a := if a.came = 0 then { a with came := s.cycle } else a
  let want : Want := if a.kind == .fetch then .fetch else .read
  s.homeGate id a.space a.addr want a.sys ⟨.loadAtHome, .access a⟩ fun s pa _ =>
    if hbmSize ≤ pa then
      let w := (s.ctrlWord pa).getD 0
      let n := reqSize a.kind
      let v := w.toNat / 2 ^ (8 * (pa % 8)) % 2 ^ (8 * n)
      let r : LandRes := match a.kind with
        | .ld wd z => .val (loadExt wd z v) 0 0
        | .ldp | .record _ => .val w ((s.ctrlWord (pa + 8)).getD 0) 0
        | .fetch | .granule _ =>
          .data (BitVec.ofNat 512 (ofBytes ((List.range n).map fun k => byteOf ((s.ctrlWord (pa + k)).getD 0) ((pa + k) % 8))))
        | .ldt => .val 0 0 0
        | _ => .val (BitVec.ofNat 64 v) 0 0
      .next (s.replyTo a r 36)
    else
      let (l, t, s) := s.getLine id a.space a.addr pa
      .next (if a.kind == .ldt then s.replyTo a (lineRes a l) t else s.serveRead id a l t)

/-- A request that no replica answers passes its reader's replica slice on its way (R287, R289; assumption log 39, DEDUCED). -/
def State.passLoad (s : State) (a : Access) : State :=
  s.onward 0 a.at_ a.space a.eta (s.homeOfSlice (unitIdent a.at_) a.space a.addr)
    (fun home => ⟨reqInstr a.kind, .access { a with at_ := home }⟩) (some (selvBack a))

/-- LOAD_AT_HOME (R247, R249, R280, R287, R349). -/
def execLoadAtHome (s : State) : Out :=
  match s.arg with
  | .access a =>
    match s.fillHold a.at_ .loadAtHome s.arg with
    | some s => .next s
    | none =>
    if unitKind a.at_ ≠ 1 then .next (s.poolLoad a)
    else
      let id := unitIdent a.at_
      if s.homeOfSlice id a.space a.addr ≠ id then .next (if a.replica then s.replicaLoad id a else s.passLoad a)
      else s.sliceLoad id a
  | _ => .next s

/-! ## Posted stores (R248, R249, R264) -/

/-- A write passes the issuing die's replica slice: its line there is invalid, and later fills of earlier reads too
(R287). -/
def State.invalReplica (s : State) (id : Nat) (sp : Space) (va : Word) : State :=
  let line := va.toNat / 128
  s.modSlice id fun x =>
    { x with
      replicas := x.replicas.filter fun l => !(l.svs == sp.svs && l.viid == sp.viid && l.line == line)
      invalAt := aput x.invalAt line s.cycle }

/-- A write of a core on another die has been applied at its home: the replica slice that it passed answers no more with what was
read before it, so that no party of that die reads an older value than its own write (R287, R294 shape 2; assumption log 43,
DEDUCED). -/
def State.staleReplica (s : State) (id : Nat) (u : UnitId) (sp : Space) (va : Word) : State :=
  if unitDie u = id / 64 then s else s.invalReplica (replicaOf (unitDie u) id) sp va

/-- The store stands at its issuing die's replica slice, on its way home. -/
def State.passing (s : State) (p : PostedStore) : Bool :=
  unitKind p.at_ == 1 && s.homeOfSlice (unitIdent p.at_) p.space p.addr ≠ unitIdent p.at_

/-- A store goes on from the replica slice to its home. -/
def State.forwardStore (s : State) (p : PostedStore) : State :=
  let id := unitIdent p.at_
  (s.invalReplica id p.space p.addr).onward 2 p.at_ p.space p.eta (s.homeOfSlice id p.space p.addr)
    (fun home => ⟨storeInstr p.kind, .store { p with at_ := home }⟩) (some (selvRefusal p.who.unit p.entry p.stamp))

/-- Acknowledge a store (R251). -/
def State.ackStore (s : State) (p : PostedStore) : State := s.ackEntry p.at_ p.who.unit p.space p.entry p.stamp 36

/-- An AMO, CAS or LDV goes on from the replica slice to its home; it writes, so the line there is invalid (R287; assumption
log 39, DEDUCED). -/
def State.forwardRmw (s : State) (id : Nat) (a : Access) : State :=
  (s.invalReplica id a.space a.addr).onward (if a.entry.isSome then 2 else 0) a.at_ a.space a.eta (s.homeOfSlice id a.space a.addr)
    (fun home => ⟨reqInstr a.kind, .access { a with at_ := home }⟩) (some (selvBack a))

/-- The data of a posted store as a number. -/
def storeData (p : PostedStore) : Nat :=
  match p.kind with
  | .stp => p.d0.toNat + p.d1.toNat * 2 ^ 64
  | k => p.d0.toNat % 2 ^ (8 * storeSize k)

/-- A plain store at a pool (R199). -/
def State.poolStoreAt (s : State) (p : PostedStore) : State :=
  let u := p.at_
  let off := poolOff u p.addr
  let n := storeSize p.kind
  match s.poolCause u off n p.who.unit with
  | some c => s.refuseStore p c
  | none => (s.modCore u fun c => c.poolWrite off (bytesOf n (storeData p))).ackStore p

/-- A write of `n` bytes at an offset of a line of the VI table, in the service space, as it leaves DROP: 0 clears it, to what
it counts in this cycle, and any other value leaves it (R383, R389). -/
def State.keepDrop (s : State) (id : Nat) (sp : Space) (pa off n : Nat) (old new : CLine) : CLine :=
  let t := (s.slice id).vtb.toNat
  let e := pa / 128 * 128
  if sp.svs && t ≤ e && e < t + 8192 && off < 68 && 64 < off + n then
    let lo := max off 64
    new.put 64 4 (if new.bytes lo (min (off + n) 68 - lo) = 0 then s.dropsNow (e + 64) else old.bytes 64 4)
  else new

/-- A store at its home slice: `f` gives the new line, or the cause of a refusal; then what follows the write. -/
def State.sliceStore (s : State) (p : PostedStore) (f : CLine → Nat → Except Nat CLine) (after : State → CLine → State) : Out :=
  let id := unitIdent p.at_
  let ev : Ev := ⟨storeInstr p.kind, .store p⟩
  s.homeGate id p.space p.addr .write p.sys ev fun s pa e =>
    if hbmSize ≤ pa then
      let whole := p.kind == .st .d
      .next (s.whenDirty id p.space p.addr e ev fun s => (if whole then s.ctrlStore pa p.d0 else s).ackStore p)
    else
      let (l, _, s) := s.getLine id p.space p.addr pa
      let off := p.addr.toNat % 128
      match f l off with
      | .error c => .next (s.refuseStore p c)
      | .ok l' => .next (s.applyWrite id p.space p.addr pa e ev l (s.keepDrop id p.space pa off (storeSize p.kind) l l') fun s =>
          after ((s.staleReplica id p.who.unit p.space p.addr).ackStore p) l)

/-- A plain store on a line: refused on a BUSY word, else the words become VAL (R264). -/
def plainStore (p : PostedStore) (l : CLine) (off : Nat) : Except Nat CLine :=
  let n := storeSize p.kind
  let ws := lineWords off n
  if ws.any fun k => l.tag k = 3 then .error 9
  else .ok (ws.foldl (fun l k => l.setTag k 0) (l.put off n (storeData p)))

/-- POSTED_STORE_AT_HOME (R248, R249, R287). -/
def execPostedStoreAtHome (s : State) : Out :=
  match s.arg with
  | .store p =>
    match s.fillHold p.at_ .postedStoreAtHome s.arg with
    | some s => .next s
    | none =>
    if unitKind p.at_ ≠ 1 then .next (s.poolStoreAt p)
    else if s.passing p then .next (s.forwardStore p)
    else s.sliceStore p (plainStore p) fun s _ => s
  | _ => .next s

/-- STORE_ACKNOWLEDGEMENT (R251, R386): the entry is freed, its counter falls, and what waited for it goes on. -/
def execStoreAcknowledgement (s : State) : Out :=
  match s.arg with
  | .ack u e stamp =>
    match afind (s.core u).journal e with
    | some j =>
      if j.stamp = stamp && j.counted then
        let s := s.modCore u fun c => c.uncountPosted j.pscl
        .next (((s.releaseEntry u e).releaseHeld u).progressFences u)
      else .next s
    | none => .next s
  | _ => .next s

/-- The refusal trap of an entry (R256): its work hears of it, or when it has ended the VI's event log does. -/
def State.refusalTrap (s : State) (u : UnitId) (e : Nat) (j : JEntry) (cause : Nat) : State :=
  let x := s.slot u j.slot
  match x.seat j.sgen with
  | .gone =>
    let s := s.releaseEntry u e
    let sp := s.spaceOf u
    if sp.svs then s else s.viEvent (sliceOfDie (unitDie u)) sp.viid 2 cause 0 j.addr
  | _ =>
    s.keepFault ⟨u, j.slot, j.sgen⟩ { code := 32, sub := cause, addr := j.addr, opc := some j.pc, jent := e,
                                           tid := some j.stamp }

/-- STORE_REFUSAL (R256, R386, R456). -/
def execStoreRefusal (s : State) : Out :=
  match s.arg with
  | .refusal r =>
    let u := r.unit
    match afind (s.core u).journal r.entry with
    | none => .next s
    | some j =>
      if j.stamp ≠ r.stamp then .next s
      else if r.early then
        .next ((s.modCore u fun c => { c.uncountPosted j.pscl with journal := aput c.journal r.entry { j with early := true } }).progressFences u)
      else
        let s := if r.counted && j.counted then s.modCore u fun c => c.uncountPosted j.pscl else s
        let j := { j with st := .refused, cause := BitVec.ofNat 4 r.cause }
        let s := s.modCore u fun c => { c with journal := aput c.journal r.entry j }
        .next (((s.refusalTrap u r.entry j r.cause).releaseHeld u).progressFences u)
  | _ => .next s

/-! ## Atomics (R250) -/

/-- AMO_AT_HOME (R250, R287). -/
def execAmoAtHome (s : State) : Out :=
  match s.arg with
  | .access a =>
    let w := match a.kind with
      | .amo _ w | .cas w => w
      | _ => false
    let n := amoBytes w
    match s.fillHold a.at_ .amoAtHome s.arg with
    | some s => .next s
    | none =>
    if unitKind a.at_ ≠ 1 then
      let off := poolOff a.at_ a.addr
      match s.poolCause a.at_ off n a.who.unit with
      | some c => .next (s.replyTo a (.fail c) 6)
      | none =>
        let old := (s.core a.at_).poolRead off n
        let s := s.modCore a.at_ fun c => c.poolWrite off (bytesOf n (rmwNew a.kind old a.c a.d))
        .next (s.replyTo a (.val (amoOld w old) 0 0) 6)
    else
      let id := unitIdent a.at_
      if s.homeOfSlice id a.space a.addr ≠ id then .next (s.forwardRmw id a)
      else
        let ev : Ev := ⟨.amoAtHome, .access a⟩
        s.homeGate id a.space a.addr .write a.sys ev fun s pa e =>
          if hbmSize ≤ pa then
            let old := ((s.ctrlWord pa).getD 0).toNat / 2 ^ (8 * (pa % 8)) % 2 ^ (8 * n)
            .next (s.whenDirty id a.space a.addr e ev fun s => s.replyTo a (.val (amoOld w old) 0 0) 36)
          else
            let (l, t, s) := s.getLine id a.space a.addr pa
            let off := a.addr.toNat % 128
            if l.tag (off / 8) ≠ 0 then .next (s.replyTo a (.fail 7) t)
            else if l.marked.getLsbD (off / 8) then .next (s.replyTo a (.fail 6) t)
            else
              let old := l.bytes off n
              let l' := s.keepDrop id a.space pa off n l (l.put off n (rmwNew a.kind old a.c a.d))
              .next (s.applyWrite id a.space a.addr pa e ev l l' fun s =>
                (s.staleReplica id a.who.unit a.space a.addr).replyTo a (.val (amoOld w old) 0 0) t)
  | _ => .next s

/-! ## Engine writes (R345, R347) -/

/-- The words of an engine's write on a line: each whole; a BUSY word keeps its value (R253, R264). -/
def engineStore (l : CLine) (off n : Nat) (v : Nat) : CLine × Bool :=
  let bs := (List.range n).map fun k => (off + k, v / 2 ^ (8 * k) % 256)
  (lineWords off n).foldl
    (fun (r : CLine × Bool) k =>
      if r.1.tag k = 3 then (r.1, true)
      else (((bs.filter fun b => b.1 / 8 = k).foldl (fun l b => l.put b.1 1 b.2) r.1).setTag k 0, r.2)) (l, false)

/-- An engine's write at its target; one of which every word is BUSY writes nothing (R253, R260, R264). -/
def State.engineWrite (s : State) (w : EngWrite) : Out :=
  if unitKind w.at_ ≠ 1 then
    let off := poolOff w.at_ w.addr
    match s.poolCause w.at_ off w.n w.unit with
    | some c => .next (s.ackEngine w c)
    | none => .next ((s.modCore w.at_ fun c => c.poolWrite off (bytesOf w.n w.data.toNat)).ackEngine w 0)
  else
    let id := unitIdent w.at_
    let ev : Ev := ⟨.copyGranule, .engine w⟩
    s.homeGate id w.space w.addr .write w.sys ev fun s pa e =>
      if hbmSize ≤ pa then
        .next (s.whenDirty id w.space w.addr e ev fun s => (if w.n = 8 then s.ctrlStore pa (w.data.setWidth 64) else s).ackEngine w 0)
      else
        let (l, _, s) := s.getLine id w.space w.addr pa
        let (l', busy) := engineStore l (w.addr.toNat % 128) w.n w.data.toNat
        .next (if (lineWords (w.addr.toNat % 128) w.n).all fun k => l.tag k = 3 then s.ackEngine w 9
          else s.applyWrite id w.space w.addr pa e ev l (s.keepDrop id w.space pa (w.addr.toNat % 128) w.n l l') fun s =>
            s.ackEngine w (if busy then 9 else 0))

/-- COPY_GRANULE (R345): a channel's turn, a write at its target, or the answer to one. -/
def execCopyGranule (s : State) : Out :=
  match s.arg with
  | .chan u ch => .next (s.chanTurn u ch)
  | .engine w =>
    match s.fillHold w.at_ .copyGranule s.arg with
    | some s => .next s
    | none => s.engineWrite w
  | .engAck x => .next (s.chanAck x)
  | _ => .next s

/-! ## Replicas (R287, R328, R456) -/

/-- A reply takes its line into the replica store, or away from it; not when the line was invalidated or the store cleared
since the read was forwarded, or a newer reading has passed (R287, R294 shape 2, R328). A full store of 2,048 lines gives up the
line filled longest ago, where R287 specifies none (assumption log 42, DESIGN CHOICE). -/
def State.applyFill (s : State) (m : ReplicaMsg) : State :=
  let x := s.slice m.slice
  let rest := x.replicas.filter fun k => !(k.svs == m.space.svs && k.viid == m.space.viid && k.line == m.line)
  if m.stamp ≤ x.clearedAt || m.stamp ≤ aget 0 x.invalAt m.line || m.read < aget 0 x.newest m.line then s
  else
    let s := s.modSlice m.slice fun x => { x with newest := aput x.newest m.line m.read }
    match m.data with
    | some d => s.modSlice m.slice fun x => { x with replicas := (⟨m.space.svs, m.space.viid, m.line, d⟩ :: rest).take 2048 }
    | none => if m.drop then s.modSlice m.slice fun x => { x with replicas := rest } else s

/-- REPLICA_FILL (R287): the reply to a far read passes its replica slice and goes on to the reader. -/
def execReplicaFill (s : State) : Out :=
  match s.arg with
  | .replica m =>
    let u := m.access.who.unit
    .next ((s.applyFill m).sendLeg 1 rankLanding (sliceUnit m.slice) u m.space false 0 (max 1 (m.eta - s.cycle)) (replyEv m.access m.res) none)
  | _ => .next s

/-- The refusals a replica slice holds go on to their cores (R456). -/
def State.releaseRefusals (s : State) (id : Nat) (p : HeldRefusal → Bool) : State :=
  let hs := (s.slice id).refusals.filter p
  let s := s.modSlice id fun x => { x with refusals := x.refusals.filter fun h => !p h }
  hs.foldl (fun s h =>
    s.send 3 rankReply (sliceUnit id) h.msg.unit (s.spaceOf h.msg.unit) false 0 ⟨.storeRefusal, .refusal h.msg⟩ none) s

/-- REPLICA_CLEAR (R287, R291): confirmed in class ACK, behind the refusals it let go, after 4 cycles of service. -/
def execReplicaClear (s : State) : Out :=
  match s.arg with
  | .clear id w =>
    let s := s.modSlice id fun x => { x with replicas := [], clearedAt := s.cycle, invalAt := [] }
    let s := s.releaseRefusals id fun _ => true
    .next (s.send 3 rankReply (sliceUnit id) w.unit (s.spaceOf w.unit) false 4 ⟨.replicaClearConfirm, .clear id w⟩ none)
  | _ => .next s

/-- REPLICA_CLEAR_CONFIRM (R291). -/
def execReplicaClearConfirm (s : State) : Out :=
  match s.arg with
  | .clear id w =>
    match (s.slot w.unit w.slot).seat w.sgen with
    | .occupant =>
      let s := s.modSlot w.unit w.slot fun x =>
        { x with fence := x.fence.map fun f => { f with confirms := f.confirms.map (·.filter (· ≠ id)) } }
      .next (s.progressFence w.unit w.slot)
    | .folded j => .next (s.modSlot w.unit w.slot fun x => x.holdFor j ⟨.replicaClearConfirm, .clear id w⟩)
    | .gone => .next s
  | _ => .next s

/-- A refusal of erratum E3 reaches the issuing die's replica slice (R456): a decrement goes to the core at once, and the slice
holds the refusal. -/
def State.holdRefusal (s : State) (r : RefusalMsg) : State :=
  let (stamp, s) := s.fresh
  let s := s.send 3 rankReply (sliceUnit r.slice) r.unit (s.spaceOf r.unit) false 0 ⟨.storeRefusal, .refusal { r with early := true }⟩ none
  let s := s.modSlice r.slice fun x => { x with refusals := x.refusals ++ [⟨stamp, r⟩] }
  s.schedule (s.cycle + 65536) rankUnit .heldRefusalRelease (.held r.slice stamp)

/-- HELD_REFUSAL_RELEASE (R456): a refusal reaches the slice that holds it, or is held long enough. -/
def execHeldRefusalRelease (s : State) : Out :=
  match s.arg with
  | .refusal r => .next (s.holdRefusal r)
  | .held id stamp => .next (s.releaseRefusals id fun h => h.stamp == stamp)
  | _ => .next s

end Sys2Proof.Machine
end

