-- ==== Sys2Proof/Machine/Packet.lean ====
section
/-! DEFINITION. Packets as flits: the header, and a station's spill into the save area (18_rings R316, R318, R319, R323, R336,
R338). -/

namespace Sys2Proof.Machine

/-! ## The header (R318) -/

/-- TID: the low bits of the transaction that a packet's source has chosen. -/
def evTid (ev : Ev) : Nat :=
  match ev.arg with
  | .access a => a.tid
  | .store p => p.stamp
  | .engine w => w.tid
  | .engAck x => x.tid
  | .land l => l.tid
  | .fetch f => f.tid
  | .ack _ _ st => st
  | .refusal r => r.stamp
  | .tid _ t _ => t
  | .join j => j.tid
  | .sys m => m.tid
  | .contribAck x => x.tid
  | .replica m => m.access.tid
  | _ => 0

/-- The address that an access names. -/
def evAddr (ev : Ev) : Nat :=
  match ev.arg with
  | .access a => a.addr.toNat
  | .store p => p.addr.toNat
  | .engine w => w.addr.toNat
  | .fetch f => f.line.toNat
  | .join j => j.key.toNat
  | .contrib x => x.handle.toNat
  | .claim c => c.cell.toNat
  | .notice n => n.cell.toNat
  | .rma r => r.addr.toNat
  | .replica m => m.line * 128
  | .eval e => e.cell.toNat
  | .refusal _ | .sys _ => 0
  | .delivery _ d => d.key.toNat
  | _ => 0

/-- ADDR: the address, or at a core, whose pool it is an access to, the pool offset in [19:0]. -/
def packetAddr (p : Pending) : Nat :=
  if (p.cls = 0 || p.cls = 2) && (unitKind p.dst = 0 || unitKind p.dst = 2) then evAddr p.ev % 2 ^ 20 else evAddr p.ev % 2 ^ 53

/-! ## Payloads

What a packet hands over beside its header, as the words of its payload; the layout is the model's (assumption log 40, DESIGN
CHOICE). -/

/-- A word of flags. -/
def boolWord (b : Bool) : Word := BitVec.ofNat 64 b.toNat
/-- A unit, slot and start count in a word. -/
def whoWord (w : Who) : Word := BitVec.ofNat 64 (w.unit * 2 ^ 21 + w.slot * 2 ^ 15 + w.sgen.toNat)
/-- A family's handle in a word. -/
def famWord (f : FamRef) : Word := BitVec.ofNat 64 (f.owner * 2 ^ 25 + f.entry * 2 ^ 15 + f.gen.toNat)
/-- The words of a number. -/
def wordsIn (n v : Nat) : List Word := (List.range n).map fun k => BitVec.ofNat 64 (v / 2 ^ (64 * k))

/-- The words of a result: its value, or its failure with the cause. -/
def resWords : LandRes → List Word
  | .val v0 v1 f => [v0, v1, f.setWidth 64]
  | .data b => wordsIn 8 b.toNat
  | .fail c => [BitVec.ofNat 64 c]
  | .selfdep => [0x10]
  | .noRecord => [0x11]
  | .notice => [0x12]
  | .resumed => [0x13]

/-- The words of a family that is asked for: its range, its form, its place, its creator and its default place. -/
def specWords (x : FamSpec) : List Word :=
  [x.limit ++ x.start,
   BitVec.ofNat 64 (x.args.step.toNat * 2 ^ 32 + x.args.blk.toNat * 2 ^ 24 + x.args.g.toNat * 2 ^ 20 + x.args.s.toNat * 2 ^ 16 +
     x.args.l.toNat * 2 ^ 8 + x.cls.toNat),
   BitVec.ofNat 64 (x.count * 2 ^ 32 + x.base), whoWord x.creator, x.defPlace]

/-- A handle operation: its number and its operand. -/
def opWords : HandleOp → List Word
  | .fsetg k v => [BitVec.ofNat 64 k, v]
  | .fsets k v => [BitVec.ofNat 64 (0x100 + k), v]
  | .fhand b => [0x200, b]
  | .fgo b mode r => [0x300 + mode.setWidth 64, b, r]
  | .fsync => [0x400]
  | .fgets k => [BitVec.ofNat 64 (0x500 + k)]
  | .fkill => [0x600]
  | .frel => [0x700]
  | .frsm op => [0x800 + op.setWidth 64]
  | .orphan => [0x900]
  | .bar ord => [0xA00, BitVec.ofNat 64 ord]

/-- What a family's owning core is told. -/
def famEventWords : FamEvent → List Word
  | .ended o => [0, BitVec.ofNat 64 o]
  | .broke o ix => [1, BitVec.ofNat 64 o, ix.setWidth 64]
  | .eos o => [2, BitVec.ofNat 64 o]
  | .faulted o ix k => [3, BitVec.ofNat 64 o, ix.setWidth 64, boolWord k]
  | .killed os => 4 :: os.map (BitVec.ofNat 64)
  | .killDone u => [5, BitVec.ofNat 64 u]

/-- A reservation message. -/
def reserveWords : ReserveMsg → List Word
  | .ask _ id u x => [0, BitVec.ofNat 64 id, BitVec.ofNat 64 u] ++ specWords x
  | .answer _ id u a e => [1, BitVec.ofNat 64 id, BitVec.ofNat 64 u, boolWord a] ++ (e.map famWord).toList
  | .settle _ id u f => [2, BitVec.ofNat 64 id, BitVec.ofNat 64 u] ++ (f.map famWord).toList
  | .start _ id u f x =>
    [3, BitVec.ofNat 64 id, BitVec.ofNat 64 u, famWord f, x.body, x.handler.getD 0, x.mode.setWidth 64, x.rkey] ++
      (x.glob ++ x.inis).map (·.2)
  | .release _ id u f => [4, BitVec.ofNat 64 id, BitVec.ofNat 64 u, famWord f]

/-- The answer to a handle operation. -/
def handleResWords : HandleRes → List Word
  | .ok v => [0, v]
  | .stale h => [1, h]
  | .bad c => [2, BitVec.ofNat 64 c]

/-- The words that a packet hands over. -/
def evWords (ev : Ev) : List Word :=
  match ev.arg with
  | .store p => [p.d0, p.d1]
  | .access a => [a.c, a.d, a.outer, whoWord a.who]
  | .engine w => wordsIn 8 w.data.toNat
  | .engAck x => [BitVec.ofNat 64 x.cause]
  | .land l => resWords l.res
  | .fetch f => resWords f.res
  | .forward f => [f.v]
  | .ack _ e st => [BitVec.ofNat 64 e, BitVec.ofNat 64 st]
  | .refusal r => [BitVec.ofNat 64 r.entry, BitVec.ofNat 64 r.cause]
  | .kill k => [famWord k.fam, BitVec.ofNat 64 k.from_]
  | .chain _ x _ f => [x.v, boolWord x.eos, famWord f]
  | .credit _ f => [famWord f]
  | .contrib x => [x.v, whoWord x.who]
  | .contribAck x => [BitVec.ofNat 64 x.tid]
  | .delivery _ d => [d.v, d.key]
  | .join j => [j.key, j.desc, whoWord j.who, j.handle]
  | .claim c => [c.cell, c.ptr, c.claim.setWidth 64]
  | .eval e => [e.cell, e.body]
  | .notice n => [n.cell, n.claim.setWidth 64]
  | .wake w => resWords w.res
  | .report r => [famWord r.fam, BitVec.ofNat 64 r.src] ++ famEventWords r.ev
  | .reserve m => reserveWords m
  | .handle (.serve _ w op h) => [h, whoWord w] ++ opWords op
  | .handle (.answer w r) => whoWord w :: handleResWords r
  | .tid _ t st => [BitVec.ofNat 64 t, BitVec.ofNat 64 st]
  | .clear id w => [BitVec.ofNat 64 id, whoWord w]
  | .sys m => [m.b, m.c, m.d, m.v]
  | .rma r => [r.data]
  | .replica m => wordsIn 16 (m.data.getD 0).toNat
  | .token t id => [BitVec.ofNat 64 t, BitVec.ofNat 64 id]
  | .unitWord _ v => [v]
  | _ => []

/-- A result with its words read again. -/
def resReread (r : LandRes) (ws : List Word) : LandRes :=
  match r with
  | .val _ _ _ => .val (ws.getD 0 0) (ws.getD 1 0) ((ws.getD 2 0).setWidth 5)
  | .data _ => .data (BitVec.ofNat 512 (ofBytes (ws.flatMap fun w => bytesOf 8 w.toNat)))
  | .fail _ => .fail (ws.getD 0 0).toNat
  | r => r

/-- A packet with the words it hands over read again from a save area (R338). -/
def evReread (ev : Ev) (ws : List Word) : Ev :=
  let w := fun (k : Nat) => ws.getD k 0
  match ev.arg with
  | .store p => ⟨ev.ins, .store { p with d0 := w 0, d1 := w 1 }⟩
  | .access a => ⟨ev.ins, .access { a with c := w 0, d := w 1, outer := w 2 }⟩
  | .engine x => ⟨ev.ins, .engine { x with data := BitVec.ofNat 512 (ofBytes ((ws.take 8).flatMap fun w => bytesOf 8 w.toNat)) }⟩
  | .land l => ⟨ev.ins, .land { l with res := resReread l.res ws }⟩
  | .fetch f => ⟨ev.ins, .fetch { f with res := resReread f.res ws }⟩
  | .forward f => ⟨ev.ins, .forward { f with v := w 0 }⟩
  | .chain u x src f => ⟨ev.ins, .chain u { x with v := w 0 } src f⟩
  | .contrib x => ⟨ev.ins, .contrib { x with v := w 0 }⟩
  | .sys m => ⟨ev.ins, .sys { m with b := w 0, c := w 1, d := w 2, v := w 3 }⟩
  | _ => ev

/-- The bytes a reply returns, by the access its core has outstanding. -/
def State.replyBytes (s : State) (l : Landing) : Nat :=
  match l.res with
  | .val _ _ _ =>
    match (s.core l.unit).out.find? (·.tid == l.tid) with
    | some o => match o.kind with
      | .access a => reqSize a.kind
      | _ => 8
    | none => 8
  | .data _ => 64
  | _ => 1

/-- Bytes of payload of a packet (R318). -/
def State.payloadBytes (s : State) (ev : Ev) : Nat :=
  match ev.arg with
  | .store p => storeSize p.kind
  | .access a => match a.kind with
    | .amo _ w => amoBytes w
    | .cas w => 2 * amoBytes w
    | _ => 0
  | .engine w => w.n
  | .land l => s.replyBytes l
  | .fetch f => match f.res with
    | .data _ => 64
    | _ => 1
  | .replica m => if m.data.isSome then 128 else 8
  | .ack _ _ _ | .refusal _ | .engAck _ => 1
  | _ => min 64 (8 * (evWords ev).length)

/-- SIZE for a number of bytes. -/
def sizeCode (n : Nat) : Nat :=
  if n = 0 then 0 else if n ≤ 1 then 1 else if n ≤ 2 then 2 else if n ≤ 4 then 3 else if n ≤ 8 then 4 else if n ≤ 16 then 5
  else if n ≤ 64 then 6 else 7

/-- The header of a flit (R318). DKIND and DEST, like SKIND and SRC, are a unit value (R319); a multicast's destination has
kind 6 and is 0, and SVCM names the service clusters it reaches. OP has no numbering in the spec (assumption log 40, DESIGN
CHOICE). -/
def State.headerOf (s : State) (p : Pending) (last : Bool) : BitVec 128 :=
  let mcs := p.cls = 4
  let size := if mcs then 7 else sizeCode (s.payloadBytes p.ev)
  let svcm := match p.ev.arg with
    | .copy _ m _ _ => (mcSvcm (mcUnits m)).toNat
    | _ => 0
  BitVec.ofNat 128 (p.cls * 2 ^ 125 + (if last then 2 ^ 124 else 0) + (if p.svs then 0 else p.viid.toNat) * 2 ^ 118 +
    (if mcs then 6 * 2 ^ 14 else p.dst) % 2 ^ 17 * 2 ^ 101 + p.src % 2 ^ 17 * 2 ^ 84 + (Config.packetOp p.seq).toNat * 2 ^ 78 +
    evTid p.ev % 2 ^ 12 * 2 ^ 66 + size * 2 ^ 63 + svcm * 2 ^ 55 + (if p.svs then 2 ^ 54 else 0) + packetAddr p)

/-! ## Flits (R316, R323) -/

/-- A wait record in the 16 bytes of an entry: its waiter and destination where R266 has them, and the transaction above. -/
def wakeEntry (u : UnitId) (r : WakeRec) : Nat :=
  r.dest.toNat * 2 ^ 8 + r.sgen.toNat * 2 ^ 13 + r.slot * 2 ^ 28 + u % 4096 * 2 ^ 34 + (if isService u then 2 ^ 46 else 0) +
    r.tid % 2 ^ 12 * 2 ^ 64

/-- One entry per combined reader: its core and transaction. -/
def readerEntry (u : UnitId) (tid : Nat) : Nat := u % 4096 * 2 ^ 34 + (if isService u then 2 ^ 46 else 0) + tid % 2 ^ 12 * 2 ^ 64

/-- The entries of a multicast, in order. -/
def mcEntryList (m : Multicast) : List Nat :=
  (m.wakes.flatMap fun w => w.recs.map (wakeEntry w.unit)) ++ (m.reads.map fun l => readerEntry l.unit l.tid) ++
    (m.fetches.map fun f => readerEntry f.who.unit f.tid) ++ m.fills.map fun f => readerEntry f.access.who.unit f.access.tid

/-- The second flit of a multicast: the value or the fault of a wake, the reduction's result, or the line (R323). -/
def mcValue (m : Multicast) : Nat :=
  match m.wakes, m.deliveries with
  | w :: _, _ => ofBytes ((resWords w.res).flatMap fun w => bytesOf 8 w.toNat)
  | [], (_, d) :: _ => ofBytes ((evWords ⟨.deliveryLanding, .delivery 0 d⟩).flatMap fun w => bytesOf 8 w.toNat)
  | [], [] => m.line.toNat

/-- The payloads of a packet's flits: of a multicast the receivers of each ring pair, the value, and eight entries a flit
(R323). -/
def State.payloads (s : State) (p : Pending) : List Nat :=
  match p.ev.arg with
  | .copy _ m _ _ =>
    let us := mcUnits m
    let map := (List.range 32).foldl (fun n pair => n + (s.mcBitmap us pair).toNat * 2 ^ (32 * pair)) 0
    let es := mcEntryList m
    let entry := fun (k : Nat) => (List.range 8).foldl (fun n j => n + es.getD (8 * k + j) 0 % 2 ^ 128 * 2 ^ (128 * j)) 0
    [map, mcValue m] ++ (List.range (mcFlits m - 2)).map entry
  | _ => [ofBytes ((evWords p.ev).flatMap fun w => bytesOf 8 w.toNat)]

/-! ## Stations that keep packets (R335 to R338) -/

/-- The place of flit `n` in a station's part of its die's save area. -/
def savePlace (station n : Nat) : Nat :=
  station / 16 * 2 ^ 38 + Config.saveArea (station / 16) % 2 ^ 20 * 8192 + station % 16 * 2 ^ 20 + 144 * n

/-- Write a packet's flits, header before payload, from flit `n` on. -/
def State.spill (s : State) (station n : Nat) (p : Pending) : State :=
  let k := flitsOf p.ev
  ((s.payloads p).zipIdx).foldl
    (fun s x => s.physWrite (savePlace station (n + x.2))
      (bytesOf 16 (s.headerOf p (decide (x.2 + 1 = k))).toNat ++ bytesOf 128 x.1)) s

/-- A spilled packet as it is read back (R338). -/
def State.unspill (s : State) (station : Nat) (x : Saved) : Pending :=
  match x.spilled with
  | none => x.packet
  | some n =>
    let ws := (List.range 16).map fun k => s.physWord (savePlace station n + 16 + 8 * k)
    { x.packet with ev := evReread x.packet.ev ws }

/-- The flits of a station's save buffer. -/
def Station.savedFlits (x : Station) : Nat := ((x.save.filter (·.spilled.isNone)).map (·.flits)).sum

/-- Where a station spills next: behind everything it has spilled. -/
def Station.spillEnd (x : Station) : Nat :=
  x.save.foldl (fun n y => match y.spilled with
    | some k => max n (k + y.flits)
    | none => n) 0

/-- A station keeps a packet, with its sides and in its order of arrival: in the buffer's 113 flits, or once that is full in the
save area (R336, R338). -/
def State.keep (s : State) (st : Nat) (p : Pending) (left way sideIn : Nat) (sidesOut : List Nat) : State :=
  let x := s.station st
  let n := flitsOf p.ev
  let full := x.save.any (·.spilled.isSome) || decide (113 < x.savedFlits + n)
  let place := if full then some x.spillEnd else none
  let s := s.modStation st fun x =>
    { x with perf := if full then bumpPerf x.perf 0x40 n else x.perf, save := x.save ++ [⟨p, left, way, sideIn, sidesOut, n, place⟩] }
  if full then s.spill st x.spillEnd p else s

/-- A copy of a multicast arrives: at a station, which keeps it or replicates it; at a port or its source, from where it goes along
the spine; or at a service cluster, which takes it (R324, R335). A pair that the multicast has only left is given back. -/
def State.copyAt (s : State) (id : Nat) (m : Multicast) (at_ : UnitId) (side : Nat) : State :=
  if unitKind at_ = 3 then
    let st := unitIdent at_
    let left := if side < 4 then (s.ownPair m.src).filter fun t => (mcUnits m).all fun u => s.tokenOf u ≠ t else []
    let s := left.foldl (fun s t => s.giveToken at_ id t (s.cycle + mcFlits m)) s
    let sp := s.mcSpace m
    if s.keeps st sp then
      let p : Pending :=
        { due := s.cycle, rank := rankLanding, seq := s.nextSeq, packet := true, cls := 4, src := m.src, dst := at_, viid := sp.viid,
          svs := sp.svs, ev := ⟨.wakeMulticastDelivery, .copy id m at_ side⟩, inj := s.cycle, exempt := false }
      ({ s with nextSeq := s.nextSeq + 1 } : State).keep st p 0 0 side (s.mcSides m st side)
    else s.replicate id m st side
  else if at_ = m.src || unitKind at_ = 5 then s.spineOut id m at_ 0
  else
    ((mcParts m).filter fun p => s.locOf p.1 = s.locOf at_).foldl (fun s p => s.schedule s.cycle rankLanding p.2.ins p.2.arg) s

end Sys2Proof.Machine
end

