-- ==== Sys2Proof/Machine/CellEvents.lean ====
section
/-! DEFINITION. Cells at their homes: claims, wait records, fills, wakes and evaluators
(14_tagged_cells R263 to R274, R277 to R279; 28_errata R455). -/

namespace Sys2Proof.Machine

/-! ## The busy layout and wait records (R263, R266) -/

def busyEval (w : Word) : Bool := w.getLsbD 63
def busyOvf (w : Word) : Bool := w.getLsbD 62
def busyHead (w : Word) : Nat := fld w 61 52
def busyOuter (w : Word) : Nat := fld w 49 0
/-- A busy word (R263). -/
def busyWord (eval : Bool) (head outer : Nat) : Word :=
  BitVec.ofNat 64 ((if eval then 2 ^ 63 else 0) + head * 2 ^ 52 + outer % 2 ^ 50)

/-- A free wait record of a slice: the lowest, where R266 asks only for a free one (assumption log 42, DESIGN CHOICE). -/
def Slice.freeWait (x : Slice) : Option Nat := (List.range 1024).find? fun k => (afind x.waits k).isNone

/-- Change a wait record. -/
def Slice.modWait (x : Slice) (k : Nat) (f : WaitRec → WaitRec) : Slice :=
  match afind x.waits k with
  | some r => { x with waits := aput x.waits k (f r) }
  | none => x

/-- Take a record; the high-water mark follows (R389). -/
def Slice.takeWait (x : Slice) (k : Nat) (r : WaitRec) : Slice :=
  let x := { x with waits := aput x.waits k r }
  { x with high := max x.high x.occupancy }

/-- The records of a list from `k`, in order. -/
def Slice.waitList (x : Slice) : Nat → Nat → List (Nat × WaitRec)
  | 0, _ => []
  | n + 1, k =>
    match afind x.waits k with
    | some r => (k, r) :: (if r.next = 0x7FF then [] else x.waitList n r.next.toNat)
    | none => []

/-- A wait record for an access. -/
def waitFor (a : Access) (tail : Nat) (claim : BitVec 16) : WaitRec :=
  { next := 0x7FF, tail := BitVec.ofNat 10 tail, ev := false, evWho := ⟨0, 0, 0⟩, claim := claim, who := a.who, dest := a.dest, tid := a.tid }

/-! ## The wake (R272) -/

/-- Free the records of a word and send their waiters a value or a failure in one multicast (R270, R272, R455). -/
def State.wakeWaiters (s : State) (id : Nat) (word : Word) (res : LandRes) : State :=
  let rs := (s.slice id).waitList 1024 (busyHead word)
  let s := s.modSlice id fun x => { x with waits := rs.foldl (fun m r => adel m r.1) x.waits }
  let units := (rs.map fun r => r.2.who.unit).eraseDups
  let wakes := units.map fun u =>
    (⟨u, (rs.filter fun r => r.2.who.unit = u).map fun r => ⟨r.2.who.slot, r.2.who.sgen, r.2.dest, r.2.tid⟩, res⟩ : WakeMsg)
  let m : Multicast := { mcFrom (sliceUnit id) with wakes := wakes }
  let w := (s.slice id).w.toNat
  if w ≤ 128 then s.startMulticast m
  else
    let n := s.freeCtr
    { s.schedule (s.cycle + Config.netDelay n % (w + 1)) rankUnit .lateWakeMulticast (.multicast id m) with freeCtr := n + 1 }

/-- LATE_WAKE_MULTICAST (R327, R455): a slice with W > 128 sends its wake up to W cycles late; a combined reply leaves after its
service. -/
def execLateWakeMulticast (s : State) : Out :=
  match s.arg with
  | .multicast _ m => .next (s.startMulticast m)
  | _ => .next s

/-- The overflow-wake event (R266, R397). -/
def State.overflowWake (s : State) (id : Nat) (sp : Space) (va : Word) : State :=
  s.healdEvent (sliceUnit id) (hkind 2 (sp.viid.toNat * 2 ^ 50 + fld va 52 3))

/-- A wake or failure reaches a core: its records in list order, each as a landing (R272). A record without a destination
only ends its LDV. -/
def State.deliverWakes (s : State) (w : WakeMsg) : State :=
  w.recs.foldl (fun s r =>
    if r.dest = 0 then (s.dropOut w.unit r.tid).releaseHeld w.unit else s.land ⟨w.unit, r.tid, w.res⟩) s

/-- WAKE_MULTICAST_DELIVERY (R272). -/
def execWakeMulticastDelivery (s : State) : Out :=
  match s.arg with
  | .copy id m at_ side => .next (s.copyAt id m at_ side)
  | .wake w => .next (s.deliverWakes w)
  | _ => .next s

/-! ## STF, SSUS, SEMP at the home (R278, R279) -/

/-- Word `k` of a line replaced, with a tag. -/
def CLine.cell (l : CLine) (off : Nat) (v : Word) (tag : BitVec 2) : CLine := (l.put off 8 v.toNat).setTag (off / 8) tag

/-- A cell store: on its way through the replica slice, at a pool never (R276), or at its home slice. -/
def State.cellStoreAt (s : State) (p : PostedStore) (f : CLine → Nat → Except Nat CLine) (after : State → CLine → State) : Out :=
  if unitKind p.at_ ≠ 1 then .next (s.refuseStore p 5)
  else if s.passing p then .next (s.forwardStore p)
  else s.sliceStore p f after

/-- STF_AT_HOME (R278): a fill of a BUSY cell wakes its waiters, and with OVF tells Heald. -/
def execStfAtHome (s : State) : Out :=
  match s.arg with
  | .store p =>
    let k := p.addr.toNat % 128 / 8
    s.cellStoreAt p
      (fun l off => if l.tag (off / 8) = 0 then .error 8 else .ok (l.cell off p.d0 0))
      fun s l =>
        if l.tag k = 3 then
          let id := unitIdent p.at_
          let s := s.wakeWaiters id (l.word k) (.val p.d0 0 0)
          if busyOvf (l.word k) then s.overflowWake id p.space p.addr else s
        else s
  | _ => .next s

/-- SSUS_AT_HOME (R279). -/
def execSsusAtHome (s : State) : Out :=
  match s.arg with
  | .store p =>
    s.cellStoreAt p (fun l off => if l.tag (off / 8) = 3 then .error 9 else .ok (l.cell off p.d0 2)) fun s _ => s
  | _ => .next s

/-- SEMP_AT_HOME (R279). -/
def execSempAtHome (s : State) : Out :=
  match s.arg with
  | .store p =>
    s.cellStoreAt p (fun l off => if l.tag (off / 8) = 3 then .error 9 else .ok (l.cell off 0 1)) fun s _ => s
  | _ => .next s

/-! ## LDV at the home (R273, R277) -/

/-- The tag and word of a cell as they stand at its home, or none where its page cannot be read (R273). -/
def State.peekCell (s : State) (id : Nat) (sp : Space) (va : Word) (sys : Bool) : Option (BitVec 2 × Word) :=
  let home := s.homeOfSlice id sp va
  match (s.translate home sp va .read sys).1 with
  | .ok pa _ =>
    if hbmSize ≤ pa then none
    else
      let l := ((s.slice home).lineAt sp (va.toNat / 128)).getD (s.readLine sp (va.toNat / 128) (pa / 128 * 128))
      let k := va.toNat % 128 / 8
      if l.marked.getLsbD k then none else some (l.tag k, l.word k)
  | _ => none

/-- The outer chain from `c` for the cell `a`: true when it comes back to it (R273). -/
def State.outerChain (s : State) (id : Nat) (sp : Space) (sys : Bool) (a : Nat) : Nat → Nat → Bool
  | 0, c => a == c
  | n + 1, c =>
    if a == c then true
    else match s.peekCell id sp (BitVec.ofNat 64 c) sys with
      | some (t, w) => if t = 3 && busyEval w && busyOuter w ≠ 0 then s.outerChain id sp sys a n (busyOuter w * 8) else false
      | none => false

/-- The home tells a core that its LDV is in a wait list (R277). -/
def State.acceptLdv (s : State) (a : Access) : State :=
  s.send 1 rankReply a.at_ a.who.unit a.space false 36 ⟨.ldvAcceptance, .tid a.who.unit a.tid 0⟩ none

/-- LDV_AT_HOME (R264, R273, R277), on its way through the replica slice or at the home. Its page needs W (R276). -/
def execLdvAtHome (s : State) : Out :=
  match s.arg with
  | .access a =>
    let id := unitIdent a.at_
    let ev : Ev := ⟨.ldvAtHome, .access a⟩
    if s.homeOfSlice id a.space a.addr ≠ id then .next (s.forwardRmw id a)
    else s.homeGate id a.space a.addr .write a.sys ev fun s pa e =>
      if hbmSize ≤ pa then .next (s.replyTo a (.val ((s.ctrlWord pa).getD 0) 0 0) 36)
      else
        let (l, t, s) := s.getLine id a.space a.addr pa
        let off := a.addr.toNat % 128
        let k := off / 8
        let w := l.word k
        let free := (s.slice id).freeWait
        if l.marked.getLsbD k then .next (s.replyTo a (.fail 6) t)
        else if l.tag k = 0 then .next (s.replyTo a (.val w 0 0) t)
        else if l.tag k = 3 then
          if a.outer ≠ 0 && s.outerChain id a.space a.sys a.addr.toNat 4 a.outer.toNat then .next (s.replyTo a .selfdep t)
          else match free with
            | some r =>
              let h := busyHead w
              let last := ((afind (s.slice id).waits h).map (·.tail.toNat)).getD h
              let s := s.modSlice id fun x =>
                (((x.takeWait r (waitFor a 0 0)).modWait last fun y => { y with next := BitVec.ofNat 11 r }).modWait h
                  fun y => { y with tail := BitVec.ofNat 10 r })
              .next (s.acceptLdv a)
            | none =>
              if busyOvf w then .next (s.replyTo a .noRecord t)
              else .next (s.applyWrite id a.space a.addr pa e ev l (l.cell off (w ||| 0x4000000000000000#64) 3) fun s =>
                s.replyTo a .noRecord t)
        else match free with
          | none => .next (s.replyTo a .noRecord t)
          | some r =>
            if l.tag k = 1 then
              .next (s.applyWrite id a.space a.addr pa e ev l (l.cell off (busyWord false r 0) 3) fun s =>
                (s.modSlice id fun x => x.takeWait r (waitFor a r 0)).acceptLdv a)
            else
              .next (s.applyWrite id a.space a.addr pa e ev l (l.cell off (busyWord true r (fld a.outer 52 3)) 3) fun s =>
                let n := (s.slice id).claims
                let s := s.modSlice id fun x => { x.takeWait r (waitFor a r n) with claims := n + 1 }
                let s := s.acceptLdv a
                let c : Claim :=
                  { who := a.who, tid := a.tid, space := a.space, cell := a.addr, ptr := w, claim := n, home := a.at_, h := a.h,
                    defPlace := a.defPlace }
                s.send 1 rankUnit a.at_ a.who.unit a.space false 36 ⟨.claimArrival, .claim c⟩ none)
  | _ => .next s

/-- LDV_ACCEPTANCE (R277): later posted stores to the word are held no longer. -/
def execLdvAcceptance (s : State) : Out :=
  match s.arg with
  | .tid u tid _ => .next ((s.modOut u tid fun o => { o with accepted := true, parked := false }).releaseHeld u)
  | _ => .next s

/-- An LDV goes to its home again from its captured operands (R266). -/
def State.reissueLdv (s : State) (u : UnitId) (tid n : Nat) (parked : Bool) : State :=
  match (s.core u).outOf tid with
  | some o => if o.refusals = n + 1 && o.parked = parked && !o.accepted && !o.failed then s.resendLdv u tid else s
  | none => s

/-- LDV_REISSUE_TIMER (R266). -/
def execLdvReissueTimer (s : State) : Out :=
  match s.arg with
  | .tid u tid n => .next (s.reissueLdv u tid n false)
  | _ => .next s

/-- PARKED_LDV_TIMEOUT (R266). -/
def execParkedLdvTimeout (s : State) : Out :=
  match s.arg with
  | .tid u tid n => .next (s.reissueLdv u tid n true)
  | _ => .next s

/-! ## Claims and evaluators (R268, R269, R270) -/

/-- The cannot-launch notice (R268, R270). -/
def State.cannotLaunch (s : State) (c : Claim) : State :=
  s.launchNotice ⟨c.home, c.space, c.cell, c.claim, none, c.who.unit⟩

/-- CLAIM_ARRIVAL (R268): the suspension record is read with plain reads. -/
def execClaimArrival (s : State) : Out :=
  match s.arg with
  | .claim c =>
    let u := c.who.unit
    let ok := c.ptr.toNat % 64 = 0 && match targetOf u c.ptr with
      | some (.global _) => true
      | _ => false
    if !ok then .next (s.cannotLaunch c)
    else
      let base := s.nextSeq
      let s := { s with nextSeq := base + 8 }
      let tids := (List.range 8).map fun k => (base + k, k)
      let s := s.modCore u fun x => { x with suspReads := x.suspReads ++ [⟨c, tids, [], false⟩] }
      .next ((List.range 8).foldl
        (fun s k =>
          let a : Access :=
            { who := ⟨u, 64, 0⟩, tid := base + k, kind := .ld .d false, addr := c.ptr + BitVec.ofNat 64 (8 * k), space := c.space,
              sys := s.sysOf u, c := 0, d := 0, outer := 0, dest := 0, pc := 0, entry := none, at_ := 0, replica := false, walk := 0 }
          s.sendOrHold u ⟨⟨.loadAtHome, .access a⟩, false, 0, base + k, wordsOf c.space a.addr 8⟩) s)
  | _ => .next s

/-- The evaluator of a suspension record (R267, R268): none when it cannot launch; else the request and the first core
to try. -/
def evalOf (s : State) (c : Claim) (ws : List Word) : Option (EvalReq × UnitId) :=
  let u := c.who.unit
  let d := c.defPlace
  if fld (ws.getD 2 0) 63 2 ≠ 0 then none
  else match placeOf u d (ws.getD 1 0) with
    | none => none
    | some (b, n) =>
      if !s.placeInside (unitDie u) b n then none
      else some
        ({ unit := b, space := c.space, cell := c.cell, claim := c.claim, home := c.home, body := ws.getD 0 0,
           prio := BitVec.ofNat 2 (fld (ws.getD 2 0) 1 0), args := (List.range 5).map fun k => ws.getD (3 + k) 0,
           claimant := c.who, defPlace := d, h := c.h, step := 1 }, b)

/-- A read of a suspension record lands or fails (R268); with all eight the evaluator is started, or cannot be. -/
def State.suspLand (s : State) (u : UnitId) (l : Landing) : State :=
  match (s.core u).suspReads.find? fun q => q.tids.any (·.1 == l.tid) with
  | none => s
  | some q =>
    let k := ((q.tids.find? (·.1 == l.tid)).map (·.2)).getD 0
    let rest := (s.core u).suspReads.filter (· ≠ q)
    let tids := q.tids.filter (·.1 ≠ l.tid)
    let step := fun (q : SuspRead) =>
      if q.tids ≠ [] then s.modCore u fun c => { c with suspReads := q :: rest }
      else
        let s := s.modCore u fun c => { c with suspReads := rest }
        if q.failed then s.cannotLaunch q.claim
        else match evalOf s q.claim ((List.range 8).map fun k => aget 0 q.words k) with
          | none => s.cannotLaunch q.claim
          | some (e, b) =>
            if b = u then s.schedule s.cycle rankUnit .evaluatorStart (.eval e)
            else s.send 0 rankUnit u b q.claim.space false 0 ⟨.evaluatorStart, .eval e⟩
              (some ⟨.evaluatorClaimRetry, .eval { e with unit := u, step := 2 }⟩)
    match l.res with
    | .val v _ _ => step { q with tids := tids, words := aput q.words k v }
    | .fail _ => step { q with tids := tids, failed := true }
    | _ => s

/-- The claimant's slot can take a fold: the claimant has not been killed, and the bobbin has room (R268). Where other work
is folded over the claimant, the fold is made over that work (assumption log 41, DEDUCED). -/
def Core.canFold (c : Core) (w : Who) : Bool :=
  let x := c.slot w.slot
  x.seat w.sgen != .gone && x.ffrm.toNat + 256 ≤ x.fflim.toNat

/-- Start an evaluator on its claimant's core: a Free slot, else a fold, else it waits in the create queue (R268, steps 2
to 4). With all 64 evaluator entries taken the claim tries again after 256 cycles (R301, R306). -/
def State.evalHere (s : State) (e : EvalReq) : State :=
  let u := e.claimant.unit
  let c := s.core u
  match c.firstFree with
  | some i => s.startEval u i e
  | none =>
    if c.canFold e.claimant then s.foldEval u e.claimant.slot e
    else if c.eq.length < 64 then s.modCore u fun c => { c with eq := c.eq ++ [e] }
    else s.schedule (s.cycle + 256) rankUnit .evaluatorClaimRetry (.eval e)

/-- EVALUATOR_START (R268, step 1): at the place's base core; with no Free slot there, the claimant's core goes on. -/
def execEvaluatorStart (s : State) : Out :=
  match s.arg with
  | .eval e =>
    let u := e.unit
    let c := s.core u
    if !c.halted && !c.retired && !c.stopped && c.firstFree.isSome then
      match c.firstFree with
      | some i => .next (s.startEval u i e)
      | none => .next s
    else
      let b := e.claimant.unit
      let e' := { e with unit := b, step := 2 }
      if b = u then .next (s.evalHere e')
      else .next (s.send 1 rankUnit u b e.space false 0 ⟨.evaluatorClaimRetry, .eval e'⟩ none)
  | _ => .next s

/-- EVALUATOR_CLAIM_RETRY (R268, steps 2 to 4). -/
def execEvaluatorClaimRetry (s : State) : Out :=
  match s.arg with
  | .eval e => .next (s.evalHere e)
  | _ => .next s

/-- A cell at its home for a report or notice: its line when the word is BUSY with EVAL and its head record carries the
claim number (R269, R270). -/
def State.claimedCell (s : State) (n : EvalNotice) : Option (CLine × Nat × WaitRec) :=
  let id := unitIdent n.home
  match (s.slice id).lineAt n.space (n.cell.toNat / 128) with
  | none => none
  | some l =>
    let k := n.cell.toNat % 128 / 8
    let w := l.word k
    if l.tag k = 3 && busyEval w then
      match afind (s.slice id).waits (busyHead w) with
      | some r => if r.claim = n.claim then some (l, k, r) else none
      | none => none
    else none

/-- A cell's line is brought back into its slice for a report or notice. One whose page no longer translates changes nothing
then, where R269 and R270 say nothing (assumption log 42, DESIGN CHOICE). -/
def State.refetch (s : State) (n : EvalNotice) : State :=
  let id := unitIdent n.home
  match (s.slice id).lineAt n.space (n.cell.toNat / 128) with
  | some _ => s
  | none =>
    match s.translate id n.space n.cell .read true with
    | (.ok pa _, s) => if hbmSize ≤ pa then s else (s.getLine id n.space n.cell pa).2.2
    | (_, s) => s

/-- A notice on its way: at its core it leaves behind the stores of its evaluator, at a replica slice it goes on to the home,
there it waits behind a hold of its chunk; none when the home takes it now (R241, R270, R287). -/
def State.noticeOnWay (s : State) (ins : Instr) (n : EvalNotice) : Option State :=
  if unitKind n.at_ ≠ 1 then some (s.noticeOrHold n)
  else if n.at_ ≠ n.home then
    some (s.send 2 rankUnit n.at_ n.home n.space false 0 ⟨ins, .notice { n with at_ := n.home }⟩ none)
  else
    let id := unitIdent n.home
    if ((s.slice id).heldAt n.space (chunkOf n.cell)).isSome then
      some (s.holdReq id n.space (chunkOf n.cell) true ⟨ins, .notice n⟩)
    else none

/-- EVALUATOR_REPORT (R269). -/
def execEvaluatorReport (s : State) : Out :=
  match s.arg with
  | .notice n =>
    match s.noticeOnWay .evaluatorReport n with
    | some s => .next s
    | none =>
      let s := s.refetch n
      match s.claimedCell n, n.ev with
      | some (l, k, _), some w =>
        .next (s.modSlice (unitIdent n.home) fun x => x.modWait (busyHead (l.word k)) fun r => { r with ev := true, evWho := w })
      | _, _ => .next s
  | _ => .next s

/-- A notice whose claim the cell still carries ends the evaluation: the cell is EMP with 0, a write like any other, and its
waiters fail as UNFILLED (R257, R270, R276). -/
def State.endUnfilled (s : State) (n : EvalNotice) (l : CLine) (k : Nat) : State :=
  let id := unitIdent n.home
  match (s.translate id n.space n.cell .read true).1 with
  | .ok pa e =>
    s.applyWrite id n.space n.cell pa e ⟨.endNoticeAtHome, .notice n⟩ l (l.cell (8 * k) 0 1) fun s =>
      s.wakeWaiters id (l.word k) (.fail 10)
  | _ => (((s.closeWindowsOn id l).bumpVersion l.pa).dirtyLine id (l.cell (8 * k) 0 1)).wakeWaiters id (l.word k) (.fail 10)

/-- END_NOTICE_AT_HOME (R270): a notice that matches ends the evaluation unfilled. -/
def execEndNoticeAtHome (s : State) : Out :=
  match s.arg with
  | .notice n =>
    match s.noticeOnWay .endNoticeAtHome n with
    | some s => .next s
    | none =>
      let s := s.refetch n
      match s.claimedCell n with
      | none => .next s
      | some (l, k, r) =>
        let matched := match n.ev with
          | none => true
          | some w => !r.ev || r.evWho == w
        .next (if matched then s.endUnfilled n l k else s)
  | _ => .next s

/-- The start count of the evaluator whose cell EVC names: the occupant, or the evaluator that runs the folded family (R274). -/
def Slot.evaluatorGen (x : Slot) : BitVec 15 :=
  match x.work with
  | .evaluator _ => x.sgen
  | _ => ((x.folds.find? fun f => match f.work with | .evaluator _ => true | _ => false).map (·.sgen)).getD x.sgen

/-- WATCHDOG_TEST (R274, R388): every slot of a core with EVC ≠ 0; an evaluation of EVTO cycles raises EVTIMEOUT once, in a stop
too. -/
def execWatchdogTest (s : State) : Out :=
  match s.arg with
  | .unit u =>
    let c := s.core u
    let lim := if c.evto = 0 then 0 else max 4096 c.evto.toNat
    if lim = 0 then .next s
    else .next ((List.range c.nslots).foldl
      (fun s i =>
        let x := s.slot u i
        if x.evc ≠ 0 && !x.evRaised && lim ≤ x.evage.toNat then
          let s := s.modSlot u i fun x => { x with evRaised := true }
          let s := s.keepFault ⟨u, i, x.evaluatorGen⟩ { code := 33, addr := x.evc }
          let sp := s.spaceOf u
          if sp.svs then s else s.viEvent (sliceOfDie (unitDie u)) sp.viid 3 0 0 x.evc
        else s) s)
  | _ => .next s

end Sys2Proof.Machine
end

