-- ==== Sys2Proof/Machine/Reductions.lean ====
section
/-! DEFINITION. RDJOIN, RDADD and RDFREE, their homes, contributions and deliveries
(18_rings R330 to R334; 19_engine R357 to R360; 21_tables R377 to R379; 29_program R459). -/

namespace Sys2Proof.Machine

/-! ## Issue -/

/-- The descriptor's own rules (R357). -/
def descOk (d : Word) : Bool :=
  let op := fld d 43 41
  let fmt := fld d 45 44
  fld d 63 51 = 0 && op < 6 && fmt < 3 && !(fmt = 2 && 3 ≤ op) && (d.getLsbD 46 || fld d 50 47 = 0)

/-- PLACE resolved at issue (R357): none where R29 refuses it. -/
def State.resolveDesc (s : State) (d : Word) : Option Word :=
  let u := s.curUnit
  match placeOf u s.cur.defPlace (BitVec.ofNat 64 (fld d 24 0)) with
  | none => none
  | some (b, n) =>
    if !s.placeInside (unitDie u) b n then none else some (setFld d 0 25 (b % 4096 + n * 4096))

/-- Send a join message to K's home, in class PST; the issuer waits (R317, R357, R360). -/
def State.sendJoin (s : State) (ins : Instr) (a : Reg) (key desc handle : Word) : State :=
  let u := s.curUnit
  let (tid, s) := s.fresh
  let home := s.homeUnit u (s.spaceOf u) key
  let j : JoinMsg :=
    { who := s.curWho, tid := tid, key := key, desc := desc, handle := handle, dest := a, space := s.spaceOf u, sys := s.sysOf u,
      at_ := home, res := .pending }
  let o : Outst :=
    { tid := tid, who := s.curWho, pc := s.cur.pc, kind := .join, dest := a, dest2 := none, load := false, noticed := false, accepted := false,
      refusals := 0, parked := false, failed := false, h := noHandler, words := [] }
  let s := (s.addOut u o).beginTrip .reply a
  s.send 2 rankUnit u home j.space false 0 ⟨ins, .join j⟩ (some ⟨ins, .join { j with res := .fail 4 }⟩)

/-- RDJOIN (R357). -/
def execRdjoin (g : Guard) (a b c : Reg) (s : State) : Out :=
  issue g s fun s => do
    s.checkRegs [b, c] [a] false
    let (k, d, s) ← s.read2 b c
    let isGlobal := match targetOf s.curUnit k with
      | some (.global _) => true
      | _ => false
    need (k ≠ 0 && k.toNat % 64 = 0 && isGlobal) (alignFault k)
    need (descOk d) (xargFault 5)
    match s.resolveDesc d with
    | none => .error (xargFault 5)
    | some d => do
      s.waitDst a
      .ok (s.sendJoin .rdjoinAtHome a k d 0)

/-- The key of a handle (R358). -/
def handleKey (h : Word) : Word := BitVec.ofNat 64 (fld h 52 6 * 64)

/-- RDFREE (R360). -/
def execRdfree (g : Guard) (b : Reg) (s : State) : Out :=
  issue g s fun s => do
    s.checkRegs [b] [] false
    let (h, s) ← s.read1 b
    .ok (s.sendJoin .rdfreeAtHome 0 (handleKey h) 0 h)

/-- Where a handle's context lies, for a core (R358). -/
def State.contextUnit (s : State) (u : UnitId) (h : Word) : UnitId :=
  if !h.getLsbD 63 then s.homeUnit u (s.spaceOf u) (handleKey h)
  else if h.getLsbD 62 then engineUnit (fld h 61 60)
  else stationUnit (fld h 61 56)

/-- RDADD (R359). A port with PASS = 0 drops a packet of class RED unheard; the refusal of one of class PST is cause 4 (R381). -/
def execRdadd (g : Guard) (a b c : Reg) (s : State) : Out :=
  issue g s fun s => do
    s.checkRegs [b, c] [a] true
    let (h, v, s) ← s.read2 b c
    need (fld h 55 53 = 0 && fld h 5 0 = 0) (xargFault 5)
    s.waitDst a
    let u := s.curUnit
    let viid := (s.spaceOf u).viid
    let (tid, s) := s.fresh
    let x : Contribution := { unit := u, viid := viid, handle := h, v := v, who := s.curWho, tid := if a = 0 then none else some tid }
    let s := if a = 0 then s else
      (s.addOut u
        { tid := tid, who := s.curWho, pc := s.cur.pc, kind := .rdadd viid (handleKey h) none, dest := a, dest2 := none, load := false,
          noticed := false, accepted := false, refusals := 0, parked := false, failed := false, h := s.handlerInfo u s.curSlot,
          words := [] }).pendDst a
    let back : Option Ev := if a = 0 || h.getLsbD 63 then none else some ⟨.longLatencyLanding, .land ⟨u, tid, .fail 4⟩⟩
    .ok (s.send (if h.getLsbD 63 then 5 else 2) rankUnit u (s.contextUnit u h) (s.spaceOf u) false 0
      ⟨.reductionContribution, .contrib x⟩ back).advance

/-! ## The answer of a join (R357) -/

/-- The answer reaches its issuer, which takes it when it issues the instruction again (R310): a value, an exact fault, or
DATAFAULT at the waiting head. -/
def State.finishJoin (s : State) (j : JoinMsg) : State :=
  let u := j.who.unit
  let i := j.who.slot
  match (s.core u).outOf j.tid with
  | none => s
  | some o =>
    let s := s.dropOut u j.tid
    let s := if o.noticed then s.endNoticeHold u i else s
    match j.res with
    | .pending => s
    | .ok v => s.answerTrip u i (.done v none)
    | .xarg c => s.answerTrip u i (.fault { code := 22, sub := c })
    | .fail c => s.answerTrip u i (.fault { code := 18, sub := c, addr := j.key, dest := j.dest })

/-- The answer of a join at the issuer's core; work under a fold gets it at the swap back. -/
def State.joinAnswer (s : State) (ins : Instr) (j : JoinMsg) : State :=
  match (s.slot j.who.unit j.who.slot).seat j.who.sgen with
  | .gone => s.dropOut j.who.unit j.tid
  | .folded f => s.modSlot j.who.unit j.who.slot fun x => x.holdFor f ⟨ins, .join j⟩
  | .occupant => s.finishJoin j

/-! ## The home of a key (R330, R357, R377) -/

/-- The directory entry of a key. -/
def Slice.entryOf (x : Slice) (viid : BitVec 6) (key : Word) : Option (Nat × DirEntry) :=
  x.dir.find? fun p => p.2.viid == viid && p.2.key == key

/-- The designated station of a home slice (R330). -/
def State.redStation (s : State) (id : Nat) : Nat :=
  match s.locOf (sliceUnit id) with
  | .ring d q _ pos => 16 * d + 4 * q + nearStation pos
  | _ => 16 * (id / 64)

/-- The lowest free number below `n` in a table. -/
def freeKey {α : Type} (m : List (Nat × α)) (n : Nat) : Option Nat := (List.range n).find? fun k => (afind m k).isNone

/-- Add to a count in w0 of a VI's entry (R378, R379). -/
def State.addUse (s : State) (id : Nat) (viid : BitVec 6) (lo : Nat) (up : Bool) : State :=
  let w := s.viWord id viid 0
  let n := fld w (lo + 7) lo
  s.setViWord id viid 0 (setFld w lo 8 (if up then n + 1 else n - 1))

/-- Record an entry and answer with its handle. -/
def State.recordJoin (s : State) (id k : Nat) (j : JoinMsg) (c : RedCtx) : State :=
  let h := redHandle c j.key
  let s := s.modSlice id fun x => { x with dir := aput x.dir k ⟨j.space.viid, j.key, h, j.desc, c⟩ }
  s.replyJoin .rdjoinAtHome j (.ok h)

/-- Set up an endpoint reduction in the 64 bytes at K (R330, R357). -/
def State.joinEndpoint (s : State) (id k : Nat) (j : JoinMsg) : Out :=
  let ev : Ev := ⟨.rdjoinAtHome, .join j⟩
  s.homeGate id j.space j.key .write j.sys ev fun s pa e =>
    if hbmSize ≤ pa then .next (s.failEv ev 2)
    else
      let (l, _, s) := s.getLine id j.space j.key pa
      let w := j.key.toNat % 128 / 8
      if (List.range 8).any fun i => l.tag (w + i) = 3 then .next (s.failEv ev 9)
      else
        let ws := (newContext j.space.viid j.key j.desc 0).words
        let l' := (List.range 8).foldl (fun l i => (l.put (8 * (w + i)) 8 (ws.getD i 0).toNat).setTag (w + i) 0) l
        .next (s.applyWrite id j.space j.key pa e ev l l' fun s => s.recordJoin id k j (.endpoint id))

/-- RDJOIN_AT_HOME (R330, R334, R357, R377, R459). An entry of the key is looked up before GROUP is judged (assumption log 42,
DESIGN CHOICE). -/
def execRdjoinAtHome (s : State) : Out :=
  match s.arg with
  | .join j =>
    if j.res ≠ .pending then .next (s.joinAnswer .rdjoinAtHome j)
    else
      let id := unitIdent j.at_
      let die := id / 64
      let viid := j.space.viid
      let x := s.slice id
      if (x.heldAt j.space (chunkOf j.key)).isSome then .next (s.holdReq id j.space (chunkOf j.key) true ⟨.rdjoinAtHome, .join j⟩)
      else
      match x.entryOf viid j.key with
      | some (_, e) => .next (s.replyJoin .rdjoinAtHome j (.ok (if e.desc = j.desc then e.handle else 0)))
      | none =>
        let xdev := j.desc.getLsbD 46
        let g := fld j.desc 50 47
        if xdev && (afind (s.engine die).groups (groupKey j.space.viid g)).isNone then .next (s.replyJoin .rdjoinAtHome j (.xarg 5))
        else match freeKey x.dir 256 with
        | none => .next (s.replyJoin .rdjoinAtHome j (.xarg 6))
        | some k =>
          let w0 := s.viWord id viid 0
          let (alloc, s) := s.fresh
          let ctx := newContext viid j.key j.desc alloc
          if xdev then
            match freeKey (s.engine die).ctx 64 with
            | some n =>
              if fld w0 31 24 < fld w0 23 16 then
                let s := s.modEngine die fun e => { e with ctx := aput e.ctx n ctx }
                .next ((s.addUse id viid 24 true).recordJoin id k j (.port die n))
              else .next (s.replyJoin .rdjoinAtHome j (.xarg 7))
            | none => .next (s.replyJoin .rdjoinAtHome j (.xarg 7))
          else
            let st := s.redStation id
            match freeKey (s.station st).ctx 8 with
            | some n =>
              if fld w0 39 32 < fld w0 47 40 then
                let s := s.modStation st fun t => { t with ctx := aput t.ctx n ctx }
                .next ((s.addUse id viid 32 true).recordJoin id k j (.station st n))
              else s.joinEndpoint id k j
            | none => s.joinEndpoint id k j
  | _ => .next s

/-- RDFREE_AT_HOME (R360), in its order of arrival behind a held RDJOIN (R377). -/
def execRdfreeAtHome (s : State) : Out :=
  match s.arg with
  | .join j =>
    if j.res ≠ .pending then .next (s.joinAnswer .rdfreeAtHome j)
    else
      let id := unitIdent j.at_
      let viid := j.space.viid
      let done := fun (s : State) => s.replyJoin .rdfreeAtHome j (.ok 0)
      if ((s.slice id).heldAt j.space (chunkOf j.key)).isSome then .next (s.holdReq id j.space (chunkOf j.key) true ⟨.rdfreeAtHome, .join j⟩)
      else match (s.slice id).entryOf viid j.key with
      | none => .next (done s)
      | some (k, e) =>
        let drop := fun (s : State) => s.modSlice id fun x => { x with dir := adel x.dir k }
        if e.handle ≠ j.handle then .next (done s)
        else match e.ctx with
        | .station st n =>
          .next (done ((drop (s.modStation st fun t => { t with ctx := adel t.ctx n })).addUse id viid 32 false))
        | .port d n =>
          .next (done ((drop (s.modEngine d fun t => { t with ctx := adel t.ctx n })).addUse id viid 24 false))
        | .endpoint _ =>
          let ev : Ev := ⟨.rdfreeAtHome, .join j⟩
          s.homeGate id j.space j.key .write j.sys ev fun s pa l0 =>
            let (l, _, s) := s.getLine id j.space j.key pa
            let w := j.key.toNat % 128 / 8
            let l' := (List.range 8).foldl (fun l i => (l.put (8 * (w + i)) 8 0).setTag (w + i) 0) l
            .next (s.applyWrite id j.space j.key pa l0 ev l l' fun s => done (drop s))
  | _ => .next s

/-! ## Contributions and deliveries (R332, R334, R359) -/

/-- Deliver a round's result to every core of its place (R332). -/
def State.deliverRound (s : State) (src : UnitId) (x : RedContext) : State :=
  let (v, fl) := x.result
  let d : Delivery := ⟨x.viid, x.key, x.round, v, fl, false⟩
  s.startMulticast { mcFrom src with deliveries := x.cores.map fun u => (u, d) }

/-- A contribution to a reduction that is gone (R359). -/
def State.refuseContribution (s : State) (src : UnitId) (x : Contribution) : State :=
  match x.tid with
  | some t =>
    s.send 3 rankLanding src x.unit ⟨false, x.viid⟩ false 0
      ⟨.contributionAck, .contribAck ⟨x.unit, t, x.viid, handleKey x.handle, none⟩⟩ none
  | none => s.viEvent (sliceOfDie (unitDie src)) x.viid 4 0 0 x.handle

/-- Acknowledge a contribution with its round (R359). -/
def State.ackContribution (s : State) (src : UnitId) (x : Contribution) (round : BitVec 16) : State :=
  match x.tid with
  | some t =>
    s.send 3 rankLanding src x.unit ⟨false, x.viid⟩ false 0
      ⟨.contributionAck, .contribAck ⟨x.unit, t, x.viid, handleKey x.handle, some round⟩⟩ none
  | none => s

/-- The context that a contribution names. -/
def findCtx (m : List (Nat × RedContext)) (viid : BitVec 6) (key : Word) : Option (Nat × RedContext) :=
  m.find? fun p => p.2.viid == viid && p.2.key == key

/-- Every peer's state of the round has arrived: combine in ascending peer order and deliver (R334). -/
def State.tryCrossRound (s : State) (die k : Nat) : State :=
  match afind (s.engine die).ctx k with
  | none => s
  | some x =>
    let n := (aget [] (s.engine die).groups (groupKey x.viid x.group.toNat)).length
    let mine := x.states.filter fun p => p.round = x.round
    if !x.full || !((List.range n).all fun j => mine.any fun p => p.peer = j) then s
    else
      let y := (List.range n).foldl
        (fun (y : RedContext) j =>
          match mine.find? fun p => p.peer = j with
          | some p =>
            { y with
              acc := y.combine y.acc p.acc, sig := y.sig || p.flags.getLsbD 3, nan := y.nan || p.flags.getLsbD 2,
              pinf := y.pinf || p.flags.getLsbD 1, ninf := y.ninf || p.flags.getLsbD 0 }
          | none => y) x
      (s.deliverRound (engineUnit die) y).modEngine die fun e => { e with ctx := aput e.ctx k x.nextRound }

/-- A contribution counted in a port engine's context (R334): at EXPECT the exact state goes to each peer. -/
def State.crossContribute (s : State) (die k : Nat) (x : RedContext) (c : Contribution) : State :=
  let y := x.apply c.v
  let y := { y with late := match c.tid with | some t => y.late ++ [(c.unit, t)] | none => y.late }
  let full := y.roundFull
  let y := { y with full := y.full || full }
  let s := s.modEngine die fun e => { e with ctx := aput e.ctx k y }
  if full then
    let peers := aget [] (s.engine die).groups (groupKey x.viid x.group.toNat)
    let out : PeerState :=
      { die := die, viid := y.viid, key := y.key, peer := 0, round := y.round, acc := y.acc,
        flags := BitVec.ofNat 4 ((if y.sig then 8 else 0) + (if y.nan then 4 else 0) + (if y.pinf then 2 else 0) + (if y.ninf then 1 else 0)) }
    let s := { s with replies := s.replies ++ peers.map fun p => UeOut.peer p out }
    (s.schedule (s.cycle + 1000000000) rankUnit .crossDeviceRoundTimeout (.round die k x.round x.alloc)).tryCrossRound die k
  else s

/-- A contribution to an endpoint reduction, at K's home (R332). -/
def State.endpointContribute (s : State) (x : Contribution) : Out :=
  let u := x.unit
  let sp := s.spaceOf u
  let home := s.homeUnit u sp (handleKey x.handle)
  let id := unitIdent home
  let key := handleKey x.handle
  match (s.slice id).entryOf x.viid key with
  | none => .next (s.refuseContribution home x)
  | some (_, e) =>
    if e.handle ≠ x.handle then .next (s.refuseContribution home x)
    else
      let ev : Ev := ⟨.reductionContribution, .contrib x⟩
      s.homeGate id sp key .write (s.sysOf u) ev fun s pa t =>
        let (l, _, s) := s.getLine id sp key pa
        let w := key.toNat % 128 / 8
        let c := contextOf ((List.range 8).map fun i => l.word (w + i))
        let y := c.apply x.v
        let next := if y.roundFull then y.nextRound else y
        let ws := next.words
        let l' := (List.range 8).foldl (fun l i => (l.put (8 * (w + i)) 8 (ws.getD i 0).toNat).setTag (w + i) 0) l
        .next (s.applyWrite id sp key pa t ev l l' fun s =>
          let s := s.ackContribution home x c.round
          if y.roundFull then s.deliverRound home y else s)

/-- REDUCTION_CONTRIBUTION (R332, R334, R359). A port context whose round waits for peers takes a further contribution
in its next round. -/
def execReductionContribution (s : State) : Out :=
  match s.arg with
  | .contrib x =>
    let h := x.handle
    let key := handleKey h
    if !h.getLsbD 63 then s.endpointContribute x
    else if h.getLsbD 62 then
      let die := fld h 61 60
      let src := engineUnit die
      match findCtx (s.engine die).ctx x.viid key with
      | none => .next (s.refuseContribution src x)
      | some (k, c) =>
        if c.full then .next (s.schedule (s.cycle + 1) rankUnit .reductionContribution (.contrib x))
        else .next ((s.ackContribution src x c.round).crossContribute die k c x)
    else
      let st := fld h 61 56
      let src := stationUnit st
      match findCtx (s.station st).ctx x.viid key with
      | none => .next (s.refuseContribution src x)
      | some (k, c) =>
        let y := c.apply x.v
        let s := (s.ackContribution src x c.round).modStation st fun t =>
          { t with ctx := aput t.ctx k (if y.roundFull then y.nextRound else y) }
        .next (if y.roundFull then s.deliverRound src y else s)
  | _ => .next s

/-- An RDADD of a key that is pending at a core: with the round, or not yet acknowledged (R359). -/
def Core.rdadds (c : Core) (viid : BitVec 6) (key : Word) (round : Option (BitVec 16)) : List Outst :=
  c.out.filter fun o => o.kind == .rdadd viid key round && !o.failed

/-- A delivery lands in the RDADDs of its round. -/
def State.landDelivery (s : State) (u : UnitId) (d : Delivery) : State :=
  ((s.core u).rdadds d.viid d.key (some d.round)).foldl
    (fun s o => s.land ⟨u, o.tid, if d.failed then .fail 11 else .val d.v 0 d.flags⟩) s

/-- Deliveries are kept while an RDADD of their key is not acknowledged (R359). -/
def State.pruneDeliveries (s : State) (u : UnitId) : State :=
  s.modCore u fun c => { c with deliveries := c.deliveries.filter fun d => c.rdadds d.viid d.key none ≠ [] }

/-- DELIVERY_LANDING (R332, R359). -/
def execDeliveryLanding (s : State) : Out :=
  match s.arg with
  | .delivery u d =>
    let s := s.landDelivery u d
    .next ((s.modCore u fun c => { c with deliveries := c.deliveries ++ [d] }).pruneDeliveries u)
  | _ => .next s

/-- CONTRIBUTION_ACK (R359). -/
def execContributionAck (s : State) : Out :=
  match s.arg with
  | .contribAck x =>
    match x.round with
    | none => .next ((s.land ⟨x.unit, x.tid, .fail 11⟩).pruneDeliveries x.unit)
    | some r =>
      let s := s.modOut x.unit x.tid fun o => { o with kind := .rdadd x.viid x.key (some r) }
      let s := match (s.core x.unit).deliveries.find? fun d => d.viid == x.viid && d.key == x.key && d.round == r with
        | some d => s.landDelivery x.unit d
        | none => s
      .next (s.pruneDeliveries x.unit)
  | _ => .next s

/-- PEER_STATE_ARRIVAL (R334): kept for its round, which may be a later one; dropped where its key has no context (assumption
log 42, DESIGN CHOICE). -/
def execPeerStateArrival (s : State) : Out :=
  match s.arg with
  | .peer p =>
    match findCtx (s.engine p.die).ctx p.viid p.key with
    | none => .next s
    | some (k, x) =>
      let peers := if p.round = x.round then setBitN x.peers p.peer true else x.peers
      let s := s.modEngine p.die fun e => { e with ctx := aput e.ctx k { x with states := x.states ++ [p], peers := peers } }
      .next (s.tryCrossRound p.die k)
  | _ => .next s

/-- CROSS_DEVICE_ROUND_TIMEOUT (R334): the round's RDADDs fail with NORED, the event log hears, the context resets. -/
def execCrossDeviceRoundTimeout (s : State) : Out :=
  match s.arg with
  | .round die k round alloc =>
    match afind (s.engine die).ctx k with
    | none => .next s
    | some x =>
      if x.round ≠ round || x.alloc ≠ alloc || !x.full then .next s
      else
        let src := engineUnit die
        let s := x.late.foldl (fun s p =>
          s.send 3 rankLanding src p.1 ⟨false, x.viid⟩ false 0 ⟨.longLatencyLanding, .land ⟨p.1, p.2, .fail 11⟩⟩ none) s
        let s := s.viEvent (sliceOfDie die) x.viid 4 0 0 (redHandle (.port die k) x.key)
        .next (s.modEngine die fun e => { e with ctx := aput e.ctx k x.nextRound })
  | _ => .next s

end Sys2Proof.Machine
end

