-- ==== Sys2Proof/Machine/Landing.lean ====
section
/-! DEFINITION. Code lines and landings at their core (03_lines R69 to R73, R79; 04_register R104; 13_global R241;
17_rotation R308). -/

namespace Sys2Proof.Machine

/-- Begin the fetch of a slot's line (R73); a PC outside the global space is the line fetch fault. A slot whose fetch is
still under way suspends for it again. -/
def State.startFetch (s : State) (u : UnitId) (i : Nat) : State :=
  let x := s.slot u i
  let line := lineOf x.pc
  if x.fetching.isSome then s.modSlot u i fun x => x.suspend .fetch
  else match targetOf u line with
  | some (.global _) =>
    let (tid, s) := s.fresh
    let a : Access :=
      { who := s.who u i, tid := tid, kind := .fetch, addr := line, space := s.spaceOf u, sys := s.sysOf u, c := 0, d := 0,
        outer := 0, dest := 0, pc := x.pc, entry := none, at_ := 0, replica := false, walk := 0 }
    let s := s.modSlot u i fun x => { x.suspend .fetch with fetching := some tid }
    s.launchAccess a
  | _ => s.takeFault u i { code := 5, addr := line, opc := x.branchPc }

/-- A slot whose PC does not name a head of the line it holds (R72, R79): a target is BADTARGET, the end of a line goes
on to the next line. -/
def State.judgeHead (s : State) (u : UnitId) (i : Nat) : State :=
  let x := s.slot u i
  if x.target then s.takeFault u i { code := 3, addr := x.pc, opc := x.branchPc }
  else s.modSlot u i fun x => { x with pc := lineOf x.pc + 64 }

/-- A line, or its failure, arrives at the slot that waits for it (R70, R71, R73). -/
def State.lineArrives (s : State) (r : FetchReply) : State :=
  let u := r.who.unit
  let i := r.who.slot
  let x := s.slot u i
  match x.seat r.who.sgen with
  | .gone => s
  | .folded j => s.modSlot u i fun x => x.holdFor j ⟨.lineFetch, .fetch r⟩
  | .occupant =>
    if x.fetching ≠ some r.tid then s
    else
      let woken := fun (s : State) => s.modSlot u i fun x => { x.wake s.cycle with fetching := none }
      match r.res with
      | .data b =>
        if lineOk b then (woken s).modSlot u i fun x => { x with line := some (r.line, b) }
        else (woken s).takeFault u i { code := 2, addr := r.line, opc := x.branchPc }
      | .fail c => (woken s).takeFault u i { code := 5, sub := c, addr := r.line, opc := x.branchPc }
      | .notice => s.modSlot u i fun x => x.notices true
      | .resumed => s.endNoticeHold u i
      | _ => s

/-- LINE_FETCH (R72, R73, R79). -/
def execLineFetch (s : State) : Out :=
  match s.arg with
  | .slot u i =>
    let x := s.slot u i
    match x.line with
    | some (a, _) => if a = lineOf x.pc then .next (s.judgeHead u i) else .next (s.startFetch u i)
    | none => .next (s.startFetch u i)
  | .fetch r => .next (s.lineArrives r)
  | _ => .next s

/-- What a landing belongs to: a member's outstanding write, a channel's read, or a read of a record. -/
def State.routeLanding (s : State) (l : Landing) : State :=
  let c := s.core l.unit
  if (c.outOf l.tid).isSome then s.land l
  else match c.chanOfRead l.tid with
    | some (ch, o, n) => s.chanRead l.unit ch o n l
    | none =>
      if c.recReads.any fun q => q.tids.any (·.1 == l.tid) then s.recordLand l.unit l
      else if c.suspReads.any fun q => q.tids.any (·.1 == l.tid) then s.suspLand l.unit l
      else s

/-- LONG_LATENCY_LANDING (R104, R307, R308): after it, those that wait for a unit that is free again go on. -/
def execLongLatencyLanding (s : State) : Out :=
  match s.arg with
  | .land l =>
    let s := s.routeLanding l
    .next (s.wakeWhere l.unit fun w => match w with | .busy t => decide (t ≤ s.cycle) | _ => false)
  | _ => .next s

end Sys2Proof.Machine
end

