-- ==== Sys2Proof/Machine/SysOps.lean ====
section
/-! DEFINITION. What the SYS forms share: requests to targets and their answers, memory as Heald's images use it, the
synchronised stop (18_rings R335 to R338; 23_traps R400, R403 to R405, R412, R464; 28_errata R458). -/

namespace Sys2Proof.Machine

/-! ## Requests and answers (R400) -/

/-- Status values (R400). -/
def stDone : Word := 0
def stState : Word := 1
def stMismatch : Word := 2
def stBadop : Word := 3
def stLarge : Word := 4

/-- A unit value whose kind is one of `ks` and whose unit exists, within the issuer's reach (R400). -/
def State.sysUnit (s : State) (v : Word) (ks : List Nat) : Option UnitId :=
  let u := v.toNat
  let k := unitKind u
  let n := if k = 0 then 4096 else if k = 1 then 256 else if k = 2 then 32 else if k = 3 then 64 else if k = 4 then 4 else 8
  if u < 2 ^ 17 && ks.contains k && unitIdent u < n && (isService s.curUnit || s.inPart (unitDie s.curUnit) u) then some u else none

/-- The dies of a mask lie within the issuer's reach. -/
def State.sysDies (s : State) (dies : BitVec 4) : Bool :=
  isService s.curUnit || (bitsBelow 4 dies.toNat).all fun d => (s.partDies (unitDie s.curUnit)).contains d

/-- A SYS form answered at once. -/
def sysNow (s : State) (a : Reg) (v : Word) : Iss State := .ok (s.writeDst a v).advance

/-- The class of a SYS form: WAKE, TINV and the control of stops travel in CTL (R317). -/
def sysClass (ins : Instr) : Nat :=
  match ins with
  | .wakeResume .. | .wakeFail .. | .wakeCell .. | .wakeGo .. | .tinv .. | .stopatStop .. | .stopatGo .. => 6
  | _ => 0

/-- SLOTLD is the last of the events of R104 that reach a register in one cycle. -/
def sysRank (ins : Instr) : Nat :=
  match ins with
  | .slotld .. => rankAssign
  | _ => rankUnit

/-- A SYS request passes every selvedge: a service core's, and an event posted to a service core (R438). -/
def sysExempt (ins : Instr) (u t : UnitId) : Bool :=
  isService u || match ins with
    | .evpost .. => isService t
    | _ => false

/-- Send a SYS request to each target; the issuer waits for all answers (R400). These packets are not a VI's: a go
reaches the cores of a stopped VI (assumption log 14, DEDUCED). -/
def State.sysSend (s : State) (ins : Instr) (a : Reg) (targets : List UnitId) (b c d v : Word) : Iss State :=
  match targets with
  | [] => sysNow s a 0
  | _ =>
    let u := s.curUnit
    let (tid, s) := s.fresh
    let w := s.curWho
    let s := s.beginTrip .reply a
    let s := s.modCurCore fun x => { x with sysRuns := x.sysRuns ++ [⟨tid, targets.length, 0⟩] }
    .ok (targets.foldl
      (fun s t =>
        let m : SysMsg := { who := w, tid := tid, unit := t, b := b, c := c, d := d, v := v, ans := none }
        s.send (sysClass ins) (sysRank ins) u t ⟨true, 0⟩ (sysExempt ins u t) 0 ⟨ins, .sys m⟩ (some ⟨ins, .sys { m with ans := some stBadop }⟩)) s)

/-- An answer reaches its issuer, which takes the last one when it issues the instruction again (R310, R400). -/
def State.sysAnswer (s : State) (ins : Instr) (m : SysMsg) (r : Word) : State :=
  let u := m.who.unit
  match (s.core u).sysRuns.find? (·.tid == m.tid) with
  | none => s
  | some q =>
    match (s.slot u m.who.slot).seat m.who.sgen with
    | .folded f => s.modSlot u m.who.slot fun x => x.holdFor f ⟨ins, .sys m⟩
    | .gone => s.modCore u fun c => { c with sysRuns := c.sysRuns.filter (·.tid ≠ m.tid) }
    | .occupant =>
      let acc := q.acc + r
      if q.left ≤ 1 then
        let s := s.modCore u fun c => { c with sysRuns := c.sysRuns.filter (·.tid ≠ m.tid) }
        s.answerTrip u m.who.slot (.done acc none)
      else s.modCore u fun c =>
        { c with sysRuns := c.sysRuns.map fun x => if x.tid = m.tid then { x with left := x.left - 1, acc := acc } else x }

/-- What a request finds at its target: it is served, with an answer, or must wait for some cycles more, and then stands as a
message. -/
inductive Served
  | done (v : Word)
  | wait (cycles : Nat) (m : SysMsg)
deriving DecidableEq, Repr

/-- The state a request leaves at its target, and what it found. -/
structure SysRes where
  s : State
  ans : Served

/-- The answer of a target goes back, in class RSP, or CTL to a CTL request (R317). Heald's own agent (slot 64) hears none. -/
def State.sysReply (s : State) (ins : Instr) (m : SysMsg) (v : Word) : State :=
  if m.who.slot = 64 then s
  else s.send (max 1 (sysClass ins)) rankReply m.unit m.who.unit ⟨true, 0⟩ (isService m.who.unit) 0 ⟨ins, .sys { m with ans := some v }⟩ none

/-- A core serves its SYS requests whole and in their order of arrival: those behind one that waits are kept, that one first
(R400). -/
def State.sysHolds (s : State) (u : UnitId) (ev : Ev) : Bool :=
  let q := (s.core u).sysQueue
  unitKind u ≠ 1 && q ≠ [] && q.head? ≠ some ev

/-- The request at the head of a core's queue is served: the next is taken up. -/
def State.sysServed (s : State) (u : UnitId) : State :=
  let rest := (s.core u).sysQueue.drop 1
  let s := s.modCore u fun c => { c with sysQueue := rest }
  match rest with
  | e :: _ => s.schedule s.cycle (sysRank e.ins) e.ins e.arg
  | [] => s

/-- A request that must wait is the head of its core's queue, where it may stand already. -/
def State.sysWaits (s : State) (u : UnitId) (head : Bool) (ev : Ev) : State :=
  s.modCore u fun c => { c with sysQueue := ev :: if head then c.sysQueue.drop 1 else c.sysQueue }

/-- A SYS form's row: its issue, its request at a target, and its answer (R400). -/
def sysForm (ins : Instr) (s : State) (apply : State → SysMsg → SysRes) (issue : Unit → Out) : Out :=
  match s.arg with
  | .sys m =>
    match m.ans with
    | some r => .next (s.sysAnswer ins m r)
    | none =>
      let ev : Ev := ⟨ins, .sys m⟩
      if s.sysHolds m.unit ev then .next (s.modCore m.unit fun c => { c with sysQueue := c.sysQueue ++ [ev] })
      else
        let head := (s.core m.unit).sysQueue.head? == some ev
        let r := apply s m
        match r.ans with
        | .wait n m' => .next ((r.s.sysWaits m.unit head ⟨ins, .sys m'⟩).schedule (r.s.cycle + n) rankUnit ins (.sys m'))
        | .done v => .next ((if head then r.s.sysServed m.unit else r.s).sysReply ins m v)
  | _ => issue ()

/-- The issue of a SYS form: system mode only, then its registers (R83, R395, R400, R401). -/
def sysIssue (g : Guard) (srcs : List Reg) (a : Reg) (s : State) (f : State → List Word → Iss State) : Out :=
  issue g s fun s => do
    need (s.sysOf s.curUnit) privFault
    s.checkRegs srcs [a] true
    let (vs, s) ← s.readSrcs srcs
    s.waitDst a
    f s vs

/-! ## Images in memory (R403) -/

/-- Why a word of an image was not stored: its page or its word does not take it, or the dirty log of the slice's VI is full
and the write waits (R259). -/
inductive ImageErr | fails | full (slice : Nat)
deriving DecidableEq, Repr

/-- The pool word of an image's address for its issuer, a core in system mode: in its own pool, or in another core's, as far as
that takes a remote access (R199, R231, R395). -/
def State.imagePool (s : State) (u : UnitId) (va : Word) : Option (Except ImageErr (UnitId × Nat)) :=
  match targetOf u va with
  | some (.own off) => some (if off + 8 ≤ poolSize u then .ok (u, off) else .error .fails)
  | some (.pool w off) => some (if (s.poolCause w off 8 u).isNone then .ok (w, off) else .error .fails)
  | some (.global _) => none
  | none => some (.error .fails)

/-- Store a word of an image at an address of its issuer: in a pool, or in a space, as any store (R231, R257 to R260, R264). -/
def State.imagePut (s : State) (u : UnitId) (sp : Space) (va v : Word) : Except ImageErr State :=
  match s.imagePool u va with
  | some (.error e) => .error e
  | some (.ok (w, off)) => .ok (s.modCore w fun c => c.setPoolWord off v)
  | none =>
  let id := s.homeOf u sp va
  match s.translate id sp va .write true with
  | (.ok pa e, s) =>
    if hbmSize ≤ pa then .error .fails
    else
      let (l, _, s) := s.getLine id sp va pa
      let off := va.toNat % 128
      if l.tag (off / 8) = 3 then .error .fails
      else match s.markDirty id sp va e with
        | (.full, _) => .error (.full id)
        | (.done, s) => .ok (((s.closeWindowsOn id l).bumpVersion pa).dirtyLine id ((l.put off 8 v.toNat).setTag (off / 8) 0))
  | _ => .error .fails

/-- Load a word of an image. -/
def State.imageGet (s : State) (u : UnitId) (sp : Space) (va : Word) : Option Word :=
  match s.imagePool u va with
  | some (.error _) => none
  | some (.ok (w, off)) => some ((s.core w).poolWord off)
  | none =>
  let id := s.homeOf u sp va
  match (s.translate id sp va .read true).1 with
  | .ok pa _ =>
    if hbmSize ≤ pa then none
    else
      let l := ((s.slice id).lineAt sp (va.toNat / 128)).getD (s.readLine sp (va.toNat / 128) (pa / 128 * 128))
      some (l.word (va.toNat % 128 / 8))
  | _ => none

/-- Store words from an address on. -/
def State.imageStore (s : State) (u : UnitId) (sp : Space) (va : Word) : List Word → Except ImageErr State
  | [] => .ok s
  | w :: ws =>
    match s.imagePut u sp va w with
    | .ok s => s.imageStore u sp (va + 8) ws
    | .error e => .error e

/-! ## The synchronised stop (R335, R404, R405) -/

/-- Every engine of a core has completed or checkpointed (R404). -/
def Core.drained (c : Core) : Bool :=
  c.vq.isEmpty && c.mq.isEmpty && c.curve.isNone && !(c.out.any fun o => o.kind == .unit) &&
    c.chans.all fun p => p.2.reads.isEmpty && p.2.writes = 0

/-- The stop of a VI begins on a die (R335): packets that its stops have not injected wait there; its stations keep those in
flight that still reach one of their input sides. -/
def State.keepPackets (s : State) (die : Nat) (viid : BitVec 6) : State :=
  let early := s.agenda.filter fun p =>
    p.packet && !p.svs && p.viid == viid && !s.drains p.ev && unitDie p.src = die && decide (s.cycle ≤ p.inj)
  let wait := sortOn (·.seq) early |>.map fun p =>
    (⟨p.cls, p.rank, p.src, p.dst, ⟨p.svs, p.viid⟩, p.exempt, p.due - p.inj, p.ev, p.back⟩ : Unsent)
  { s with agenda := s.agenda.filter fun p => !early.contains p, unsent := wait ++ s.unsent }

/-- The stop of a core's VI on its die. -/
def State.stopOf (s : State) (u : UnitId) : Option StopRun :=
  (s.die (unitDie u)).stops.find? fun r => r.cores.contains u
def State.modStop (s : State) (die : Nat) (viid : BitVec 6) (f : StopRun → StopRun) : State :=
  s.modDie die fun d => { d with stops := d.stops.map fun r => if r.viid = viid then f r else r }

/-- SYNC_STOP (R404, R405, R464): the core stops; once its engines have drained it counts as done, and the last core of a
die launches the shuttles. A write of GSTOP alone sweeps nothing. -/
def execSyncStop (s : State) : Out :=
  match s.arg with
  | .unitWord u v =>
    let c := s.core u
    if c.gstop ≠ v || v = 0 then .next s
    else
      let stops := fun (s : State) => s.modCore u fun c => { c with stopped := true }
      match s.stopOf u with
      | none => .next (stops s)
      | some r =>
        if r.gstop = v.toNat && s.cycle < r.cycle then .next (s.schedule r.cycle rankUnit .syncStop s.arg)
        else
        let s := stops s
        let s := s.modCore u fun c => { c with swept := true }
        let die := unitDie u
        let s := if r.kept then s else (s.keepPackets die r.viid).modStop die r.viid fun r => { r with kept := true }
        if !(s.core u).drained then .next (s.schedule (s.cycle + 1) rankUnit .syncStop (.unitWord u v))
        else
          let s := s.modStop die r.viid fun r => { r with cores := r.cores.filter (· ≠ u) }
          .next (if r.cores = [u] then s.schedule s.cycle rankUnit .shuttleLaunch (.sweep die 0 r.viid) else s)
  | _ => .next s

/-- The stop of a VI is complete on every die named: its issuer hears, later by the time that spills have taken (R335, R338,
R405). -/
def State.stopComplete (s : State) (die : Nat) (viid : BitVec 6) : State :=
  match (s.die die).stops.find? (·.viid == viid) with
  | none => s
  | some r =>
    let excess := (bitsBelow 4 r.dies.toNat).all fun d =>
      (s.die d).stops.any fun q => q.viid == viid && q.launched && q.shuttles = 0 && q.cores.isEmpty
    if !excess then s
    else
      let data := hkind 4 (r.dies.toNat * 2 ^ 52 + r.gstop % 2 ^ 48)
      let spilled := s.stations.any fun p => p.2.save.any fun x => x.spilled.isSome && x.packet.viid == viid
      let wait := if spilled then Config.spillTime s.freeCtr else 0
      let s := if spilled then { s with freeCtr := s.freeCtr + 1 } else s
      s.send 0 rankUnit (engineUnit die) r.issuer.unit ⟨true, 0⟩ true wait ⟨.healdEventRetry, .unitWord r.issuer.unit data⟩ none

/-- SHUTTLE_LAUNCH (R335): each station launches one shuttle on each of the four rings of its pairs and the two of its
spine; each comes back after one round. -/
def execShuttleLaunch (s : State) : Out :=
  match s.arg with
  | .sweep die _ viid =>
    let s := if (s.die die).stops.any fun r => r.viid == viid && !r.kept then s.keepPackets die viid else s
    let s := s.modStop die viid fun r => { r with shuttles := 96, launched := true, kept := true }
    .next ((List.range 16).foldl
      (fun s k => (List.range 6).foldl
        (fun s ring =>
          let q := k / 4
          let n := if ring < 4 then 40 * (if aget 0 s.degraded (8 * die + 2 * q + ring / 2) = 0 then 1 else 2)
            else 21 * (if aget 0 s.degraded (32 + die) = 0 then 1 else 2)
          s.schedule (s.cycle + n) rankUnit .shuttleReturn (.sweep (16 * die + k) ring viid)) s) s)
  | _ => .next s

/-- SHUTTLE_RETURN (R335). -/
def execShuttleReturn (s : State) : Out :=
  match s.arg with
  | .sweep station _ viid =>
    let die := station / 16
    let s := s.modStop die viid fun r => { r with shuttles := r.shuttles - 1 }
    .next (if (s.die die).stops.any fun r => r.viid == viid && r.launched && r.shuttles = 0 then s.stopComplete die viid else s)
  | _ => .next s

/-- A packet that a station has kept goes on along its route, behind those put back before it (R337). -/
def State.putBack (s : State) (st : Nat) (x : Saved) : State :=
  let p := s.unspill st x
  match p.ev.arg with
  | .copy id m _ side => s.replicate id m st side
  | _ =>
    let key := s.fifoKey p.cls p.src p.dst
    let last := aget 0 s.fifo key
    let p := { p with due := max (s.cycle + x.left) (last / 8 + if p.rank < last % 8 then 1 else 0), seq := s.nextSeq }
    ((({ s with nextSeq := s.nextSeq + 1, fifo := aset 0 s.fifo key (8 * p.due + p.rank), agenda := p :: s.agenda } : State).countStation
      st p.cls x.flits).watchFrom p (x.way + 1))

/-- A station puts back packets of a VI, in the order saved (R337, R338). -/
def State.putBackAll (s : State) (st : Nat) (f : Saved → Bool) : State :=
  let xs := (s.station st).save.filter f
  xs.foldl (fun s x => s.putBack st x) (s.modStation st fun x => { x with save := x.save.filter fun y => !f y })

/-- A VI goes on: a station puts back the packets of its buffer, and when it has spilled some it reads those, which takes a time
that no rule gives, and meanwhile keeps what comes behind them (R337, R338). -/
def State.reinjectAt (s : State) (st : Nat) (viid : BitVec 6) : State :=
  let mine := fun (x : Saved) => x.packet.viid == viid
  if (s.station st).save.any fun x => mine x && x.spilled.isSome then
    let s := s.putBackAll st fun x => mine x && x.spilled.isNone
    let s := s.modStation st fun x => { x with reading := viid :: x.reading }
    { s.schedule (s.cycle + Config.spillTime s.freeCtr) rankKill .stationSave (.reread st viid) with freeCtr := s.freeCtr + 1 }
  else s.putBackAll st mine

/-- A station has read what it spilled of a VI: those packets go on, then what it has kept since, unless the VI has been stopped
again (R335, R337, R338). -/
def State.reread (s : State) (st : Nat) (viid : BitVec 6) : State :=
  let s := s.modStation st fun x => { x with reading := x.reading.filter (· ≠ viid) }
  if s.stoppedAt (st / 16) false viid s.cycle then s else s.putBackAll st fun x => x.packet.viid == viid

/-- A VI goes on on a die: its stations put its packets back, and then its stops inject what has waited there (R335, R337). -/
def State.reinject (s : State) (die : Nat) (viid : BitVec 6) : State :=
  let s := s.modDie die fun d => { d with stops := d.stops.filter (·.viid ≠ viid) }
  ((List.range 16).foldl (fun s k => s.reinjectAt (16 * die + k) viid) s).resend fun x =>
    unitDie x.src = die && x.space == (⟨false, viid⟩ : Space)

/-- A packet is stopped at a port with PASS = 0: the port counts it, and answers where the packet's class has an answer (R381). -/
def State.stopAtPort (s : State) (q : Nat) (p : Pending) : State :=
  let s := ({ s with agenda := s.agenda.filter (·.seq ≠ p.seq) } : State).dropAtPort q
  match p.ev.arg, p.back with
  | .copy id m _ _, _ => s.dropCopy id m p.dst
  | _, some e => s.portAnswers q p.cls p.rank p.src ⟨p.svs, p.viid⟩ e
  | _, none => s

/-- STATION_SAVE (R335, R336, R338, R381): a packet reaches a place of its route. A station that keeps its VI's packets keeps it;
else it goes on, and its flits are counted. -/
def execStationSave (s : State) : Out :=
  match s.arg with
  | .way k seq =>
    match s.agenda.find? fun p => p.packet && p.seq = seq with
    | none => .next s
    | some p =>
      match (s.waysOf p)[k]? with
      | none => .next s
      | some (.port q out, _) =>
        if p.exempt || (s.port q).pass then .next ((s.countPort q out (flitsOf p.ev)).watchFrom p (k + 1))
        else .next (s.stopAtPort q p)
      | some (.station v, left) =>
        if s.keeps v.id ⟨p.svs, p.viid⟩ && !s.drains p.ev then
          .next (({ s with agenda := s.agenda.filter (·.seq ≠ seq) } : State).keep v.id p left k v.sideIn [v.sideOut])
        else .next ((s.countStation v.id p.cls (flitsOf p.ev)).watchFrom p (k + 1))
  | .reread st viid =>
    .next (s.reread st viid)
  | _ => .next s

/-- A core goes on (R405): slots held only for save return, a matured timer is raised, its slots are offered. -/
def State.coreGo (s : State) (u : UnitId) : State :=
  let s := s.modCore u fun c =>
    { c with
      stopped := false, swept := false, gstop := 0
      slots := c.slots.map fun p =>
        (p.1, { p.2 with
          holds := p.2.holds.filter (· ≠ .save)
          readyAt := if p.2.holds.contains .save then s.cycle else p.2.readyAt
          folds := p.2.folds.map fun f => { f with holds := f.holds.filter (· ≠ .save) } }) }
  let s := (List.range (s.core u).nslots).foldl (fun s i =>
    let s := s.resumeEnding u i
    if (s.slot u i).takesAsync then s.schedule s.cycle rankAssign .asyncFaultDelivery (.slot u i) else s) s
  let t := (s.core u).timer
  let s := if t ≠ 0 && t.toNat ≤ s.cycle then s.raiseTimer u else s
  s.offer u

end Sys2Proof.Machine
end

