-- ==== Sys2Proof/Machine/Sys.lean ====
section
/-! DEFINITION. The SYS forms (23_traps R400 to R411, R464; 25_partitions R425; 28_errata R458). -/

namespace Sys2Proof.Machine

/-! ## WAKE (R402) -/

/-- The first request of a hold is the one whose issuer was told of the notice. -/
def State.endNotices (s : State) (h : HeldChunk) : State :=
  match h.reqs with
  | e :: _ => s.tellNotice e true
  | [] => s

/-- WAKE.resume at the home slice (R242, R402). -/
def wakeResumeAt (vi : BitVec 6) (s : State) (m : SysMsg) : SysRes :=
  let id := unitIdent m.unit
  match (s.slice id).heldAt ⟨false, vi⟩ (chunkOf m.b) with
  | some h => if h.notice then ⟨(s.endNotices h).releaseChunk id ⟨false, vi⟩ (chunkOf m.b), .done stDone⟩ else ⟨s, .done stState⟩
  | none => ⟨s, .done stState⟩

/-- WAKE.fail at the home slice (R242, R402). -/
def wakeFailAt (vi : BitVec 6) (s : State) (m : SysMsg) : SysRes :=
  let id := unitIdent m.unit
  match (s.slice id).heldAt ⟨false, vi⟩ (chunkOf m.b) with
  | some h =>
    if h.notice then
      if fld m.c 3 0 ≠ 1 && fld m.c 3 0 ≠ 2 then ⟨s, .done stBadop⟩
      else
        let s := (s.endNotices h).modSlice id fun x => { x with held := x.held.filter (· ≠ h) }
        ⟨h.reqs.foldl (fun s e => s.failEv e (fld m.c 3 0)) s, .done stDone⟩
    else ⟨s, .done stState⟩
  | none => ⟨s, .done stState⟩

/-- The home slice of an address of a VI, for the issuer (R234, R402). -/
def State.wakeHome (s : State) (vi : BitVec 6) (va : Word) : UnitId := sliceUnit (s.homeOf s.curUnit ⟨false, vi⟩ va)

/-- WAKE.resume (R402). -/
def execWakeResume (g : Guard) (a b c : Reg) (vi : BitVec 6) (slot : BitVec 6) (s : State) : Out :=
  sysForm (.wakeResume g a b c vi slot) s (wakeResumeAt vi) fun _ =>
    sysIssue g [b, c] a s fun s vs => do
      let va := vs.getD 0 0
      s.sysSend (.wakeResume g a b c vi slot) a [s.wakeHome vi va] va (vs.getD 1 0) 0 0

/-- WAKE.fail (R402). -/
def execWakeFail (g : Guard) (a b c : Reg) (vi : BitVec 6) (slot : BitVec 6) (s : State) : Out :=
  sysForm (.wakeFail g a b c vi slot) s (wakeFailAt vi) fun _ =>
    sysIssue g [b, c] a s fun s vs => do
      let va := vs.getD 0 0
      s.sysSend (.wakeFail g a b c vi slot) a [s.wakeHome vi va] va (vs.getD 1 0) 0 0

/-- WAKE.cell at a core: every parked LDV at the address is reissued (R266, R402). -/
def wakeCellAt (s : State) (m : SysMsg) : SysRes :=
  let os := (s.core m.unit).out.filter fun o =>
    o.parked && !o.accepted && !o.failed && match o.kind with
      | .access x => x.kind == .ldv && x.addr == m.c
      | _ => false
  ⟨os.foldl (fun s o => s.resendLdv m.unit o.tid) s, .done stDone⟩

/-- The targets of WAKE.cell: one core, or with kind 6 every compute core of the issuer's partition (R402). -/
def State.cellTargets (s : State) (v : Word) : Option (List UnitId) :=
  if v.toNat < 2 ^ 17 && unitKind v.toNat = 6 then
    some ((s.cores.map (·.1)).filter fun u => isCompute u && s.inPart (unitDie s.curUnit) u)
  else (s.sysUnit v [0, 2]).map fun u => [u]

/-- WAKE.cell (R402). -/
def execWakeCell (g : Guard) (a b c : Reg) (vi : BitVec 6) (slot : BitVec 6) (s : State) : Out :=
  sysForm (.wakeCell g a b c vi slot) s wakeCellAt fun _ =>
    sysIssue g [b, c] a s fun s vs => do
      match s.cellTargets (vs.getD 0 0) with
      | none => sysNow s a stBadop
      | some ts => s.sysSend (.wakeCell g a b c vi slot) a ts (vs.getD 0 0) (vs.getD 1 0) 0 0

/-- WAKE.go at a core: a slot held for save returns to its state before the hold (R402); under a fold it does so at the
swap back (R268). -/
def wakeGoAt (slot : BitVec 6) (s : State) (m : SysMsg) : SysRes :=
  let i := slot.toNat
  let x := s.slot m.unit i
  if x.holds.contains .save then
    let hs := x.holds.erase .save
    ⟨(s.setSlot m.unit i { x with holds := hs, readyAt := s.cycle + 1 }).resumeEnding m.unit i, .done stDone⟩
  else match x.folds.findIdx? fun f => f.holds.contains .save with
    | some j =>
      ⟨s.setSlot m.unit i { x with folds := x.folds.modify j fun f => { f with holds := f.holds.erase .save } }, .done stDone⟩
    | none => ⟨s, .done stState⟩

/-- WAKE.go (R402). -/
def execWakeGo (g : Guard) (a b c : Reg) (vi : BitVec 6) (slot : BitVec 6) (s : State) : Out :=
  sysForm (.wakeGo g a b c vi slot) s (wakeGoAt slot) fun _ =>
    sysIssue g [b, c] a s fun s vs => do
      match s.sysUnit (vs.getD 0 0) [0, 2] with
      | none => sysNow s a stBadop
      | some u => s.sysSend (.wakeGo g a b c vi slot) a [u] (vs.getD 0 0) (vs.getD 1 0) 0 0

/-! ## SLOTSV, SLOTLD (R403) -/

/-- The divider, FP64, RNGP and curve-list work of a slot has landed. -/
def Core.unitsLanded (c : Core) (i : Nat) : Bool :=
  let g := (c.slot i).sgen
  !(c.out.any fun o => o.who.slot == i && o.who.sgen == g && o.kind == .unit) &&
    (c.curve.toList ++ c.curves).all fun k => k.who.slot ≠ i

/-- The slot is held for a fault or a save. -/
def Slot.saveHeld (x : Slot) : Bool := x.holds.any fun h => match h with | .notice => false | _ => true

/-- An image's first two words: version and coordinate (R403), and the number of the core's state, for the parts of an image
whose layout no rule gives (assumption log 20, DESIGN CHOICE). -/
def imageHead (u : UnitId) (n : Nat) : List Word := [BitVec.ofNat 64 (1 + u * 2 ^ 16), BitVec.ofNat 64 n]

/-- A family's state as its table shows it (R370). -/
def FamState.code : FamState → Nat
  | .free => 0
  | .queued => 1
  | .staged => 2
  | .running => 3
  | .ended => 4

/-- Seven words of a family-table entry. -/
def sevenWords (l : List (Nat × Word)) : List Word := (List.range 7).map (aget 0 l)

/-- The 30 words of a family-table entry (R370). -/
def FamEntry.words (e : FamEntry) : List Word :=
  let w0 := e.st.code * 2 ^ 61 + e.gen.toNat * 2 ^ 46 + e.cls.toNat * 2 ^ 44 + e.prio.toNat * 2 ^ 42 + e.unb.toNat * 2 ^ 41 +
    e.chain.toNat * 2 ^ 40 + e.hnd.toNat * 2 ^ 39 + e.g.toNat * 2 ^ 36 + e.s.toNat * 2 ^ 33 + e.l.toNat * 2 ^ 28 +
    e.blk.toNat * 2 ^ 20 + e.step.toNat * 2 ^ 12
  let w6 := e.csvc.toNat * 2 ^ 44 + e.ccore.toNat * 2 ^ 32 + e.cslot.toNat * 2 ^ 26 + e.csgen.toNat * 2 ^ 11
  [BitVec.ofNat 64 w0, e.limit ++ e.start, e.place, e.body, e.handler, e.status, BitVec.ofNat 64 w6, e.ended ++ e.brk,
    BitVec.ofNat 64 (e.kld.toNat * 2 ^ 32 + e.flt.toNat)] ++ sevenWords e.glob ++ sevenWords e.inis ++ sevenWords e.fins

/-- The place of a transaction in the queue that owns a range (R373): the vector unit's, the matrix unit's, or the core's one
copy queue (R340). -/
def Core.queuePlace (c : Core) (owner tid : Nat) : Nat :=
  match owner with
  | 0 => c.vq.findIdx fun x => x.tid == tid
  | 1 => c.mq.findIdx fun x => x.tid == tid
  | _ => c.xq.findIdx fun x => x.tid == tid

/-- The three words of a range lock (R373). -/
def Core.lockWords (c : Core) (l : RangeLock) : List Word :=
  [BitVec.ofNat 64 (2 ^ 63 + l.dst.toNat * 2 ^ 62 + l.owner % 8 * 2 ^ 59 + c.queuePlace l.owner l.tid % 16 * 2 ^ 55), l.lo, l.hi]

/-- The words of a core image after its head: the slot table, the range locks, then the family entries in use that fit (R370,
R372, R373; assumption log 20, DESIGN CHOICE, the order). -/
def Core.imageWords (c : Core) : List Word :=
  let slots := (List.range 64).flatMap fun i => (c.slot i).tableWords
  let locks := (List.range 16).flatMap fun k => match c.locks[k]? with
    | some l => c.lockWords l
    | none => [0, 0, 0]
  let fams := (c.fams.filter fun p => p.2.st ≠ .free).flatMap fun p => p.2.words
  (slots ++ locks ++ fams ++ List.replicate 1022 0).take 1022

/-- What a SLOTSV answers after its stores: done, or BADOP; a write that a full dirty log holds waits, and so does the answer
(R259, R403). A request that is not done leaves no effect: `undo` is the state without the hold it made (R400). -/
def imageDone (s undo : State) (m : SysMsg) : Except ImageErr State → SysRes
  | .ok s => ⟨s, .done stDone⟩
  | .error .fails => ⟨undo, .done stBadop⟩
  | .error (.full id) => ⟨s.healdEvent (sliceUnit id) (hkind 3 (s.core m.who.unit).viid.toNat), .wait 256 m⟩

/-- The hold that a SLOTSV of this request made (`v` = 1) ends again. -/
def State.unsave (s : State) (u : UnitId) (i : Nat) (m : SysMsg) : State :=
  if m.v = 1 then
    let x := s.slot u i
    (s.setSlot u i { x with holds := x.holds.erase .save, readyAt := s.cycle + 1 }).resumeEnding u i
  else s

/-- SLOTSV at its target. -/
def slotsvAt (core : Bool) (slot : BitVec 6) (s : State) (m : SysMsg) : SysRes :=
  let u := m.unit
  let c := s.core u
  let sp := s.spaceOf m.who.unit
  let i := slot.toNat
  let x := c.slot i
  if core then
    if !c.stopped then ⟨s, .done stState⟩
    else
      let n := s.nextSeq
      imageDone s s m ((({ s with nextSeq := n + 1, images := aput s.images n c } : State).imageStore m.who.unit sp m.c
        (imageHead u n ++ c.imageWords)))
  else if x.work = .none && !c.stopped then ⟨s, .done stState⟩
  else if !c.stopped && !x.saveHeld then
    ⟨s.setSlot u i { x with holds := .save :: x.holds, aging := 0 }, .wait 1 { m with v := 1 }⟩
  else if !c.stopped && !c.unitsLanded i then ⟨s, .wait 1 m⟩
  else imageDone s (s.unsave u i m) m (s.imageStore m.who.unit sp m.c ((List.range 32).map x.ctxWord))

/-- A core with an image's state: what the image does not hold stays (R403). It is of a stopped core, so the core stays stopped
until the go. Every per-core control register of the image is loaded, VIID among them, but POOLW, which only POOLPART changes
(R196): the core keeps its division and the bobbins of its slots. -/
def imageInto (now img : Core) : Core :=
  let slots := now.slots.map fun p =>
    let y := p.2
    (p.1, { img.slot p.1 with
      bobRm := y.bobRm, bobLim := y.bobLim,
      regs := y.regs, full := y.full, pend := y.pend, pc := y.pc, pred := y.pred, frm := y.frm, ffrm := y.ffrm, fflim := y.fflim,
      rkey := y.rkey, evc := y.evc, line := none })
  { img with
    slots := slots, poolw := now.poolw, pool := now.pool, sysMode := now.sysMode, perf := now.perf, nlog := now.nlog, imap := now.imap,
    sysQueue := now.sysQueue, swept := now.swept || !now.stopped, retired := now.retired, halted := now.halted,
    assigned := now.assigned, zeroFillUntil := now.zeroFillUntil, stopped := true }

/-- SLOTLD at its target. -/
def slotldAt (core : Bool) (slot : BitVec 6) (s : State) (m : SysMsg) : SysRes :=
  let u := m.unit
  let c := s.core u
  let sp := s.spaceOf m.who.unit
  let i := slot.toNat
  let x := c.slot i
  if core then
    match s.imageGet m.who.unit sp m.c, (s.imageGet m.who.unit sp (m.c + 8)).bind fun n => afind s.images n.toNat with
    | some w0, some img =>
      if w0 ≠ (imageHead u 0).headD 0 then ⟨s, .done stBadop⟩
      else if !(c.stopped || (c.idle && c.assigned && c.viid = img.viid)) then ⟨s, .done stState⟩
      else
        let s := s.setCore u (imageInto c img)
        ⟨(List.range 4).foldl (fun s ch => if ((s.core u).chanHead ch).isSome then s.chanTurnAt u ch (s.cycle + 1) else s) s, .done stDone⟩
    | _, _ => ⟨s, .done stBadop⟩
  else if !c.stopped && !x.holds.contains .save then ⟨s, .done stState⟩
  else
    let ws := (List.range 32).map fun k => s.imageGet m.who.unit sp (m.c + BitVec.ofNat 64 (8 * k))
    if ws.any (·.isNone) then ⟨s, .done stBadop⟩
    else
      let out := c.outRegs i x.sgen
      let y := (ws.zipIdx).foldl (fun (y : Slot) w => y.setCtxWord out w.2 (w.1.getD 0)) x
      ⟨s.setSlot u i { y with target := true, branchPc := none }, .done stDone⟩

/-- The issue of SLOTSV and SLOTLD: the image address is aligned to its size (R403). -/
def slotImage (ins : Instr) (g : Guard) (a b c : Reg) (core : Bool) (s : State) : Out :=
  sysIssue g [b, c] a s fun s vs => do
    let va := vs.getD 1 0
    need (va.toNat % (if core then 8192 else 256) = 0) (alignFault va)
    match s.sysUnit (vs.getD 0 0) [0, 2] with
    | none => sysNow s a stBadop
    | some u => s.sysSend ins a [u] (vs.getD 0 0) va 0 0

/-- SLOTSV (R403). -/
def execSlotsv (g : Guard) (a b c : Reg) (core : Bool) (slot : BitVec 6) (s : State) : Out :=
  sysForm (.slotsv g a b c core slot) s (slotsvAt core slot) fun _ => slotImage (.slotsv g a b c core slot) g a b c core s
/-- SLOTLD (R403). -/
def execSlotld (g : Guard) (a b c : Reg) (core : Bool) (slot : BitVec 6) (s : State) : Out :=
  sysForm (.slotld g a b c core slot) s (slotldAt core slot) fun _ => slotImage (.slotld g a b c core slot) g a b c core s

/-! ## STOPAT (R405, R458) -/

/-- The cores whose context is of a VI, on the dies of a mask, but the issuing one (R405). -/
def State.stopTargets (s : State) (me : UnitId) (vi : BitVec 6) (dies : BitVec 4) : List UnitId :=
  (s.cores.filter fun p =>
    p.1 ≠ me && dies.getLsbD (unitDie p.1) && p.2.assigned && p.2.viid == vi && !p.2.retired).map (·.1)

/-- The stop of a die begins 8 cycles late (R458). -/
def State.delayStop (s : State) (die : Nat) (c : Word) : State :=
  s.modDie die fun d => { d with stops := d.stops.map fun r => if r.gstop = c.toNat then { r with cycle := c.toNat + 8 } else r }

/-- STOPAT.stop at a core: GSTOP, and 1 when it arrives late. On A0 die 3, where a core has heard it less than 4,096 cycles
ahead, stops 8 cycles late, uncounted (R458). -/
def stopatStopAt (s : State) (m : SysMsg) : SysRes :=
  let u := m.unit
  let late := m.c.toNat ≤ s.cycle
  let e5 := unitDie u = 3 &&
    (m.c.toNat < s.cycle + 4096 || (s.die 3).stops.any fun r => r.gstop = m.c.toNat && r.cycle = m.c.toNat + 8)
  let s := if e5 then s.delayStop 3 m.c else s
  let s := s.modCore u fun c => { c with gstop := m.c, late := late }
  let due := max (s.cycle + (if late then 0 else 1)) (m.c.toNat + if e5 then 8 else 0)
  ⟨s.schedule due rankUnit .syncStop (.unitWord u m.c), .done (if late && !e5 then 1 else 0)⟩

/-- The stop's record on each of its dies (R335). -/
def State.beginStop (s : State) (w : Who) (vi : BitVec 6) (dies : BitVec 4) (c : Nat) (ts : List UnitId) : State :=
  (bitsBelow 4 dies.toNat).foldl
    (fun s d =>
      let mine := ts.filter fun u => unitDie u = d
      let r : StopRun := { viid := vi, cycle := c, gstop := c, issuer := w, dies := dies, shuttles := 0, cores := mine, kept := false, launched := false }
      let s := s.modDie d fun x => { x with stops := r :: x.stops.filter (·.viid ≠ vi) }
      if mine = [] then s.schedule (max (s.cycle + 1) c) rankUnit .shuttleLaunch (.sweep d 0 vi) else s) s

/-- STOPAT.stop (R405). -/
def execStopatStop (g : Guard) (a c : Reg) (vi : BitVec 6) (dies : BitVec 4) (s : State) : Out :=
  sysForm (.stopatStop g a c vi dies) s stopatStopAt fun _ =>
    sysIssue g [c] a s fun s vs => do
      if !s.sysDies dies then sysNow s a stBadop
      else
        let t := vs.getD 0 0
        let ts := s.stopTargets s.curUnit vi dies
        (s.beginStop s.curWho vi dies t.toNat ts).sysSend (.stopatStop g a c vi dies) a ts 0 t 0 0

/-- STOPAT.go at a core: it goes on from its cycle (R405). -/
def stopatGoAt (ins : Instr) (s : State) (m : SysMsg) : SysRes :=
  ⟨s.schedule (max (s.cycle + 1) m.c.toNat) rankKill ins (.unitWord m.unit m.c), .done (if m.c.toNat ≤ s.cycle then 1 else 0)⟩

/-- STOPAT.go (R405): the cores go on and the stations put the VI's packets back. -/
def execStopatGo (g : Guard) (a c : Reg) (vi : BitVec 6) (dies : BitVec 4) (s : State) : Out :=
  let ins : Instr := .stopatGo g a c vi dies
  match s.arg with
  | .unitWord u _ => .next (s.coreGo u)
  | .vi d v => .next (s.reinject d v)
  | _ =>
    sysForm ins s (stopatGoAt ins) fun _ =>
      sysIssue g [c] a s fun s vs => do
        if !s.sysDies dies then sysNow s a stBadop
        else
          let t := vs.getD 0 0
          let s := (bitsBelow 4 dies.toNat).foldl
            (fun s d => s.schedule (max (s.cycle + 1) t.toNat) rankKill ins (.vi d vi)) s
          s.sysSend ins a (s.stopTargets s.curUnit vi dies) 0 t 0 0

/-! ## PZERO, POOLPART (R198, R406) -/

/-- The start of a zero-fill: 2 KiB per cycle (R198). -/
def State.beginFill (s : State) (u : UnitId) : State :=
  let t := s.cycle + poolSize u / 2048
  (s.modCore u fun c => { c.zeroFill with zeroFillUntil := t }).schedule t rankUnit .zeroFillComplete (.unit u)

/-- PZERO at its target (R406): the core image is reset and the pool cleared. -/
def pzeroAt (s : State) (m : SysMsg) : SysRes :=
  let u := m.unit
  let c := s.core u
  let d := s.die (unitDie u)
  if c.retired || !(c.idle || c.stopped) then ⟨s, .done stState⟩
  else
    let slots := c.slots.map fun p => (p.1, { ({} : Slot) with
      bobRm := p.2.bobRm, bobLim := p.2.bobLim, ffrm := p.2.bobRm, fflim := p.2.bobLim })
    let fresh : Core :=
      { ({} : Core) with
        sysMode := m.c.getLsbD 6, viid := BitVec.ofNat 6 (fld m.c 5 0), poolw := c.poolw, slots := slots, assigned := true,
        halted := false, perf := c.perf, nlog := d.nlog, imap := d.imap, stopped := false, sysQueue := c.sysQueue }
    ⟨(s.setCore u fresh).beginFill u, .done stDone⟩

/-- PZERO (R406). -/
def execPzero (g : Guard) (a b c : Reg) (s : State) : Out :=
  sysForm (.pzero g a b c) s pzeroAt fun _ =>
    sysIssue g [b, c] a s fun s vs => do
      match s.sysUnit (vs.getD 0 0) [0, 2] with
      | none => sysNow s a stBadop
      | some u =>
        if fld (vs.getD 1 0) 63 7 ≠ 0 then sysNow s a stBadop
        else s.sysSend (.pzero g a b c) a [u] (vs.getD 0 0) (vs.getD 1 0) 0 0

/-- The bobbins of a division: FFRM and FFLIM of slot `i` of `ns` (R406). -/
def bobbinOf (size bob ns i : Nat) : Nat × Nat :=
  let lim := size - 4096 - 256 * bob * (ns - 1 - i)
  (lim - 256 * bob, lim)

/-- A division that POOLPART takes (R196, R406). -/
def divisionOk (size : Nat) (w : Word) (bob : Nat) : Bool :=
  let rf := fld w 3 0
  let acc := fld w 8 4
  1 ≤ rf && rf ≤ 4 && acc ≤ 4 && 1 ≤ bob && 4096 * (rf + acc) + 256 * bob * (16 * rf) ≤ size - 4096

/-- A core divided anew. -/
def Core.divide (c : Core) (size : Nat) (w : Word) (bob : Nat) : Core :=
  let ns := 16 * fld w 3 0
  { c with
    poolw := w &&& 0x1FF
    slots := (List.range ns).map fun i =>
      let (rm, lim) := bobbinOf size bob ns i
      (i, { c.slot i with bobRm := BitVec.ofNat 20 rm, bobLim := BitVec.ofNat 20 lim, ffrm := BitVec.ofNat 20 rm, fflim := BitVec.ofNat 20 lim,
                          regs := [], full := 0, pend := 0, pc := 0, pred := 0, frm := 0, rkey := 0, evc := 0 }) }

/-- POOLPART at its target (R406). -/
def poolpartAt (bob : BitVec 8) (s : State) (m : SysMsg) : SysRes :=
  let u := m.unit
  let c := s.core u
  if !c.idle || c.stopped || c.retired then ⟨s, .done stState⟩
  else if !divisionOk (poolSize u) m.c bob.toNat then ⟨s, .done stBadop⟩
  else ⟨(s.setCore u (c.divide (poolSize u) m.c bob.toNat)).beginFill u, .done stDone⟩

/-- POOLPART (R406). -/
def execPoolpart (g : Guard) (a b c : Reg) (bob : BitVec 8) (s : State) : Out :=
  sysForm (.poolpart g a b c bob) s (poolpartAt bob) fun _ =>
    sysIssue g [b, c] a s fun s vs => do
      match s.sysUnit (vs.getD 0 0) [0, 2] with
      | none => sysNow s a stBadop
      | some u => s.sysSend (.poolpart g a b c bob) a [u] (vs.getD 0 0) (vs.getD 1 0) 0 0

/-- ZERO_FILL_COMPLETE (R198): the core takes work again. -/
def execZeroFillComplete (s : State) : Out :=
  match s.arg with
  | .unit u => .next (s.offer u)
  | _ => .next s

/-! ## TINV (R407) -/

/-- The entry maps an address for a VI. -/
def TEntry.maps (e : TEntry) (vi : BitVec 6) (va : Word) : Bool :=
  !e.svs && e.viid == vi && e.vpage == fld va 52 (pageBits e.psize.toNat)

/-- The level at which the walk of an address ends: at its leaf, or where nothing is mapped (R236). -/
def State.walkLevel (s : State) (va : Word) : Nat → Nat → Nat
  | 0, _ => 0
  | l + 1, table =>
    let pte := (s.entryWord (table + 8 * fld va (32 + 10 * l) (23 + 10 * l))).getD 0
    if !pte.getLsbD 0 || pte.getLsbD 7 then l + 1 else s.walkLevel va l (fld pte 47 13 * 8192)

/-- TINV at a slice. The page of op 3 is the largest that a cached entry maps the address by, or that its walk now ends at
(assumption log 24, DESIGN CHOICE). -/
def tinvAt (op : BitVec 2) (vi : BitVec 6) (s : State) (m : SysMsg) : SysRes :=
  let id := unitIdent m.unit
  let es := (s.slice id).tcache
  let gone := fun (e : TEntry) => match op.toNat with
    | 0 => true
    | 1 => !e.svs && e.viid == vi
    | _ => e.maps vi m.c
  let walk := pageBits (min 2 (s.walkLevel m.c 3 (s.rootOf id ⟨false, vi⟩)))
  let bits := (es.filter gone).foldl (fun n e => max n (pageBits e.psize.toNat)) walk
  let s := s.modSlice id fun x => { x with tcache := x.tcache.filter fun e => !gone e }
  if op ≠ 3 then ⟨s, .done stDone⟩
  else
    let page := m.c.toNat / 2 ^ bits
    let inPage := fun (svs : Bool) (v : BitVec 6) (line : Nat) => !svs && v == vi && decide (line * 128 / 2 ^ bits = page)
    let s := ((s.slice id).windows.filter fun w => inPage w.svs w.viid w.line).foldl
      (fun s w => match (s.slice id).lineAt ⟨w.svs, w.viid⟩ w.line with
        | some l => s.closeWindow id w l
        | none => s) s
    let s := s.flushLines id fun l => inPage l.svs l.viid l.line
    ⟨s.modSlice id fun x => { x with replicas := x.replicas.filter fun l => !inPage l.svs l.viid l.line, clearedAt := s.cycle }, .done stDone⟩

/-- TINV (R407). -/
def execTinv (g : Guard) (a b c : Reg) (op : BitVec 2) (all : Bool) (vi : BitVec 6) (dies : BitVec 4) (s : State) : Out :=
  let ins : Instr := .tinv g a b c op all vi dies
  sysForm ins s (tinvAt op vi) fun _ =>
    sysIssue g [b, c] a s fun s vs => do
      if all then
        if !s.sysDies dies then sysNow s a stBadop
        else
          let ts := (bitsBelow 4 dies.toNat).flatMap fun d => (List.range 64).map fun k => sliceUnit (64 * d + k)
          s.sysSend ins a ts (vs.getD 0 0) (vs.getD 1 0) 0 0
      else match s.sysUnit (vs.getD 0 0) [1] with
        | none => sysNow s a stBadop
        | some u => s.sysSend ins a [u] (vs.getD 0 0) (vs.getD 1 0) 0 0

/-! ## PGVER, PGSWAP (R261, R408) -/

/-- PGVER at the chunk's stack. -/
def pgverAt (s : State) (m : SysMsg) : SysRes :=
  if m.b.toNat < hbmSize then ⟨s, .done (s.version m.b.toNat)⟩
  else ⟨{ s with freeCtr := s.freeCtr + 1 }, .done (Config.freeVersion s.freeCtr)⟩

/-- PGVER (R408). -/
def execPgver (g : Guard) (a b : Reg) (s : State) : Out :=
  sysForm (.pgver g a b) s pgverAt fun _ =>
    sysIssue g [b] a s fun s vs => do
      let pa := vs.getD 0 0
      need (pa.toNat % 8192 = 0) (alignFault pa)
      s.sysSend (.pgver g a b) a [sliceUnit (64 * (dieOfPa pa.toNat % 4))] pa 0 0 0

/-- PGSWAP at the home slice. -/
def pgswapAt (vi : BitVec 6) (s : State) (m : SysMsg) : SysRes :=
  let id := unitIdent m.unit
  let at_ := m.c.toNat
  if hbmSize ≤ at_ || at_ % 8 ≠ 0 then ⟨s, .done stBadop⟩
  else
    let old := s.physWord at_
    let large := match s.walkFrom ⟨false, vi⟩ m.b 3 (s.rootOf id ⟨false, vi⟩) with
      | .ok _ e => e.leafAt = at_ && e.psize ≠ 0
      | _ => false
    if !old.getLsbD 0 then ⟨s, .done stState⟩
    else if large then ⟨s, .done stLarge⟩
    else
      let frame := fld old 47 13 * 8192
      if frame < hbmSize && s.version frame ≠ m.v then ⟨s, .done stMismatch⟩
      else
        let new := setFld m.d 4 1 (fld old 4 4)
        let s := s.setPhysWord at_ new
        let dest := fld new 47 13 * 8192
        let chunk := chunkOf m.b
        ⟨s.modSlice id fun x =>
          { x with
            tcache := x.tcache.filter fun e => !e.maps vi m.b
            lines := x.lines.map fun l => if !l.svs && l.viid = vi && l.line / 64 = chunk then { l with pa := dest + l.pa % 8192 } else l },
         .done stDone⟩

/-- PGSWAP (R408): A is also read. -/
def execPgswap (g : Guard) (a b c d : Reg) (vi : BitVec 6) (s : State) : Out :=
  sysForm (.pgswap g a b c d vi) s (pgswapAt vi) fun _ =>
    sysIssue g [b, c, d, a] a s fun s vs => do
      let va := vs.getD 0 0
      s.sysSend (.pgswap g a b c d vi) a [s.wakeHome vi va] va (vs.getD 1 0) (vs.getD 2 0) (vs.getD 3 0)

/-! ## SELV, IMAP (R380, R381, R409, R425) -/

/-- SELV at its unit. -/
def selvAt (s : State) (m : SysMsg) : SysRes :=
  let i := unitIdent m.unit
  if unitKind m.unit = 4 then ⟨s.modEngine i fun e => { e with dies := m.c.setWidth 4 }, .done stDone⟩
  else ⟨s.modPort i fun p => { p with pass := m.c.getLsbD 4 }, .done stDone⟩

/-- SELV (R409). -/
def execSelv (g : Guard) (a b c : Reg) (s : State) : Out :=
  sysForm (.selv g a b c) s selvAt fun _ =>
    sysIssue g [b, c] a s fun s vs => do
      match s.sysUnit (vs.getD 0 0) [4, 5] with
      | none => sysNow s a stBadop
      | some u =>
        if fld (vs.getD 1 0) 63 5 ≠ 0 then sysNow s a stBadop
        else s.sysSend (.selv g a b c) a [u] (vs.getD 0 0) (vs.getD 1 0) 0 0

/-- A slice drops everything it holds before IMAPC changes (R425). -/
def State.emptySlice (s : State) (id : Nat) : State :=
  let s := (s.slice id).windows.foldl
    (fun s w => match (s.slice id).lineAt ⟨w.svs, w.viid⟩ w.line with
      | some l => s.closeWindow id w l
      | none => s) s
  (s.flushLines id fun _ => true).modSlice id fun x => { x with replicas := [], windows := [], clearedAt := s.cycle }

/-- IMAP's write on every core and slice of some dies (R380, R409). -/
def State.writeImap (s : State) (ds : List Nat) (entry : Nat) (v : Word) : State :=
  let ids := ds.flatMap fun d => (List.range 64).map (64 * d + ·)
  let s := if entry = 256 then ids.foldl State.emptySlice s else s
  let put := fun (m : List (Nat × BitVec 8)) => aput m entry (v.setWidth 8)
  let nlog : BitVec 2 := v.setWidth 2
  let s := ids.foldl
    (fun s id => s.modSlice id fun x => if entry = 256 then { x with nlog := nlog } else { x with imap := put x.imap }) s
  let s := ds.foldl
    (fun s d => s.modDie d fun x => if entry = 256 then { x with nlog := nlog } else { x with imap := put x.imap }) s
  { s with
    cores := s.cores.map fun p =>
      if ds.contains (unitDie p.1) then
        (p.1, if entry = 256 then { p.2 with nlog := nlog } else { p.2 with imap := put p.2.imap })
      else p }

/-- IMAP, applied when every compute core of the dies is idle or stopped (R409). -/
def imapAt (dies : BitVec 4) (s : State) (m : SysMsg) : SysRes :=
  let ds := bitsBelow 4 dies.toNat
  if s.cores.any fun p => isCompute p.1 && ds.contains (unitDie p.1) && !(p.2.idle || p.2.stopped) then ⟨s, .done stState⟩
  else ⟨s.writeImap ds m.b.toNat m.c, .done stDone⟩

/-- IMAP (R409). -/
def execImap (g : Guard) (a b c : Reg) (dies : BitVec 4) (s : State) : Out :=
  sysForm (.imap g a b c dies) s (imapAt dies) fun _ =>
    sysIssue g [b, c] a s fun s vs => do
      let e := vs.getD 0 0
      let v := vs.getD 1 0
      if 256 < e.toNat || (e = 256 && fld v 1 0 = 3) || !s.sysDies dies then sysNow s a stBadop
      else s.sysSend (.imap g a b c dies) a [s.curUnit] e v 0 0

/-! ## EVPOST (R410) -/

/-- EVPOST at its target (R398, R399, R410). -/
def evpostAt (vi : BitVec 6) (gen : BitVec 16) (sysm : Bool) (s : State) (m : SysMsg) : SysRes :=
  let u := m.unit
  let c := s.core u
  let data := zextN 60 m.c
  let id := sliceOfDie (unitDie u)
  let post := fun (_ : Unit) =>
    if isService u then s.offerEvent u data
    else
      let (ok, t) := s.postEvent u data
      if ok then t else s.viDrop id vi
  if sysm || isService u then ⟨post (), .done stDone⟩
  else if s.viGen id vi ≠ gen.toNat then ⟨s.viDrop id vi, .done stDone⟩
  else if c.assigned && c.viid == vi && !c.stopped then ⟨post (), .done stDone⟩
  else ⟨s.viEvent id vi 1 0 u data, .done stDone⟩

/-- EVPOST (R410). -/
def execEvpost (g : Guard) (a b c : Reg) (vi : BitVec 6) (gen : BitVec 16) (sysm : Bool) (s : State) : Out :=
  sysForm (.evpost g a b c vi gen sysm) s (evpostAt vi gen sysm) fun _ =>
    sysIssue g [b, c] a s fun s vs => do
      match s.sysUnit (vs.getD 0 0) [0, 2] with
      | none => sysNow s a stBadop
      | some u => s.sysSend (.evpost g a b c vi gen sysm) a [u] (vs.getD 0 0) (vs.getD 1 0) 0 0

/-! ## HALT (R411) -/

/-- The pieces of work of a slot, the occupant and what it has swapped out, each with its start count, ordinal and index. -/
def Slot.works (x : Slot) : List (Work × BitVec 15 × BitVec 32 × Word) :=
  (x.work, x.sgen, x.ord, x.ix) :: x.folds.map fun f => (f.work, f.sgen, f.ord, f.ix)

/-- The members of a slot of a core: family, ordinal and index. -/
def Core.membersAt (c : Core) (i : Nat) : List (FamRef × BitVec 32 × Word) :=
  (c.slot i).works.filterMap fun w => match w.1 with
    | .member q => (afind c.cq q).map fun e => (e.fam, w.2.2.1, w.2.2.2)
    | _ => none

/-- All work of a slot of a retired core dies: each member's family records fault 34, and each evaluator ends (R45, R268,
R411). -/
def State.retireSlot (s : State) (u : UnitId) (i : Nat) : State :=
  let x := s.slot u i
  let members := (s.core u).membersAt i
  let s := x.works.foldl (fun s w => match w.1 with
    | .evaluator e => s.endNotice ⟨u, i, w.2.1⟩ e
    | _ => s) s
  let s := x.folds.foldl (fun s f => s.leaveFamilies u ⟨u, i, f.sgen⟩ f.created) s
  let s := (s.discard u i).flushHeld x.folds
  members.foldl (fun s m => s.report u m.1 (.faulted m.2.1.toNat (m.2.2.setWidth 32) true)) s

/-- Retire a core (R411): a KIND 5 entry for each family with a member there. A core counts once as retired (R451). -/
def State.retireCore (s : State) (u : UnitId) : State :=
  let c := s.core u
  let sp := s.spaceOf u
  let slots := (List.range c.nslots).filter fun i => (c.slot i).work ≠ .none
  let fams := (slots.flatMap fun i => (c.membersAt i).map (·.1)).eraseDups
  let s := s.modCore u fun c => { c with retired := true }
  let s := if c.retired then s else s.modDie (unitDie u) fun d => { d with retiredCores := min 32 (d.retiredCores + 1) }
  let s := slots.foldl (fun s i => s.retireSlot u i) s
  if sp.svs then s
  else fams.foldl (fun s f => s.viEvent (sliceOfDie (unitDie u)) sp.viid 5 0 u (famHandle f.owner f.entry f.gen)) s

/-- A die with a context that runs and is not stopped (R411). -/
def State.dieBusy (s : State) (die : Nat) : Bool :=
  s.cores.any fun p => unitDie p.1 = die && p.2.assigned && !p.2.stopped && !p.2.idle && !p.2.retired

/-- HALT.retire at its target (R411). A slice's lines with marked words are written back marked, dirty or not. -/
def haltRetireAt (s : State) (m : SysMsg) : SysRes :=
  let u := m.unit
  if unitKind u = 0 then ⟨s.retireCore u, .done stDone⟩
  else
    let id := unitIdent u
    let again := (s.slice id).retired
    let s := ((s.slice id).lines.filter fun l => l.marked ≠ 0).foldl (fun s l => s.writeBack l) s
    let s := s.flushLines id fun _ => true
    let s := if again then s else s.modDie (id / 64) fun d => { d with retiredSlices := min 4 (d.retiredSlices + 1) }
    ⟨s.modSlice id fun x => { x with retired := true, replicas := [], clearedAt := s.cycle }, .done stDone⟩

/-- HALT.remap at its target (R382, R411): the unit takes a spare seat or slice. -/
def haltRemapAt (s : State) (m : SysMsg) : SysRes :=
  let u := m.unit
  let die := unitDie u
  let c := m.c.toNat
  if s.dieBusy die then ⟨s, .done stState⟩
  else if unitKind u = 0 then
    if c < 256 || 263 < c then ⟨s, .done stBadop⟩
    else
      let s := s.modDie die fun d => { d with seats := aput d.seats (u % 1024) c }
      ⟨(s.modCore u fun x => { ({} : Core) with nlog := x.nlog, imap := x.imap, sysQueue := x.sysQueue }).resendFound, .done stDone⟩
  else if c < 64 || 67 < c then ⟨s, .done stBadop⟩
  else
    let s := s.modDie die fun d => { d with sliceMap := aput d.sliceMap (unitIdent u % 64) c }
    ⟨(s.modSlice (unitIdent u) fun x => { x with retired := false }).resendFound, .done stDone⟩

/-- The issue of HALT: the unit's kind agrees with I43[2] (R401, R411). -/
def haltIssue (ins : Instr) (g : Guard) (a b c : Reg) (slice : Bool) (s : State) : Out :=
  sysIssue g [b, c] a s fun s vs => do
    match s.sysUnit (vs.getD 0 0) [if slice then 1 else 0] with
    | none => sysNow s a stBadop
    | some u => s.sysSend ins a [u] (vs.getD 0 0) (vs.getD 1 0) 0 0

/-- HALT.retire (R411). -/
def execHaltRetire (g : Guard) (a b c : Reg) (slice : Bool) (s : State) : Out :=
  sysForm (.haltRetire g a b c slice) s haltRetireAt fun _ => haltIssue (.haltRetire g a b c slice) g a b c slice s
/-- HALT.remap (R411). -/
def execHaltRemap (g : Guard) (a b c : Reg) (slice : Bool) (s : State) : Out :=
  sysForm (.haltRemap g a b c slice) s haltRemapAt fun _ => haltIssue (.haltRemap g a b c slice) g a b c slice s

end Sys2Proof.Machine
end

