-- ==== Sys2Proof/Machine/Heald.lean ====
section
/-! DEFINITION. What Heald's requests share: the VI table, the memory of a VI, the host's memory, completions and the
service of a queue (21_tables R378; 25_partitions R426, R430 to R434). Heald acts as an agent of its own (assumption
log 6, DESIGN CHOICE). -/

namespace Sys2Proof.Machine

/-! ## Completion statuses (R432) -/

def hsDone : Word := 0x00
def hsBadreq : Word := 0x10
def hsBounds : Word := 0x11
def hsVierr : Word := 0x12
def hsBusyq : Word := 0x13
def hsQuota : Word := 0x14
def hsClash : Word := 0x15
def hsStale : Word := 0x16
def hsNotsup : Word := 0x17
def hsTimeout : Word := 0x18
def hsStorerr : Word := 0x19
def hsTagbusy : Word := 0x1A

/-! ## The VI table (R378) -/

/-- A word of a VI-table entry of a partition. -/
def State.vi (s : State) (pid : Nat) (v : BitVec 6) (w : Nat) : Word := s.viWord (sliceOfDie pid) v w
def State.setVi (s : State) (pid : Nat) (v : BitVec 6) (w : Nat) (x : Word) : State := s.setViWord (sliceOfDie pid) v w x
/-- Replace a field of a word. -/
def State.setViField (s : State) (pid : Nat) (v : BitVec 6) (w lo n x : Nat) : State :=
  s.setVi pid v w (setFld (s.vi pid v w) lo n x)
def State.viDefined (s : State) (pid : Nat) (v : BitVec 6) : Bool := (s.vi pid v 0).getLsbD 63
/-- VST: 0 idle, 1 running, 2 paused, 3 error. -/
def State.vst (s : State) (pid : Nat) (v : BitVec 6) : Nat := fld (s.vi pid v 0) 62 61
def State.setVst (s : State) (pid : Nat) (v : BitVec 6) (n : Nat) : State := s.setViField pid v 0 61 2 n
def State.weight (s : State) (pid : Nat) (v : BitVec 6) : Nat := fld (s.vi pid v 0) 55 48
def State.lqwr (s : State) (pid : Nat) (v : BitVec 6) : Nat := fld (s.vi pid v 3) 63 32
def State.lqrd (s : State) (pid : Nat) (v : BitVec 6) : Nat := fld (s.vi pid v 3) 31 0
def State.guestGen (s : State) (pid : Nat) (v : BitVec 6) : Nat := s.viGen (sliceOfDie pid) v
/-- Every VIID. -/
def allViids : List (BitVec 6) := (List.range 64).map (BitVec.ofNat 6)

/-! ## A VI's memory, as Heald and the ports reach it: at the home, under the VI's page table, SYSP leaves denied (R429) -/

/-- Where an address of a VI is homed and lies. -/
structure ViAt where
  slice : Nat
  pa : Nat
  leaf : TEntry

/-- Translate an address of a VI. -/
def State.viFind (s : State) (pid : Nat) (v : BitVec 6) (va : Word) (want : Want) : Option ViAt × State :=
  let id := s.homeOfSlice (sliceOfDie pid) ⟨false, v⟩ va
  if 2 ^ 53 ≤ va.toNat then (none, s)
  else match s.translate id ⟨false, v⟩ va want false with
    | (.ok pa e, s) => (if hbmSize ≤ pa then none else some ⟨id, pa, e⟩, s)
    | (_, s) => (none, s)

/-- What became of a write: applied, refused on a BUSY word, not translated, or held by a full dirty log. -/
inductive PutRes | done | busy | failed | full
deriving DecidableEq, Repr

/-- Write `n` bytes within one word, whose tag becomes `tag` (R264, R429, R432). -/
def State.viPut (s : State) (pid : Nat) (v : BitVec 6) (va : Word) (n x : Nat) (tag : BitVec 2) : PutRes × State :=
  match s.viFind pid v va .write with
  | (none, s) => (.failed, s)
  | (some h, s) =>
    let sp : Space := ⟨false, v⟩
    let (l, _, s) := s.getLine h.slice sp va h.pa
    let off := va.toNat % 128
    let ws := lineWords off n
    if ws.any fun k => l.tag k = 3 then (.busy, s)
    else match s.markDirty h.slice sp va h.leaf with
      | (.full, s) => (.full, s)
      | (.done, s) =>
        (.done, ((s.closeWindowsOn h.slice l).bumpVersion h.pa).dirtyLine h.slice
          (ws.foldl (fun l k => l.setTag k tag) (l.put off n x)))

/-- Read `n` bytes within one word: raw bits and tag; none where it does not translate or is marked (R243, R429). -/
def State.viGet (s : State) (pid : Nat) (v : BitVec 6) (va : Word) (n : Nat) : Option (Nat × BitVec 2) × State :=
  match s.viFind pid v va .read with
  | (none, s) => (none, s)
  | (some h, s) =>
    let (l, _, s) := s.getLine h.slice ⟨false, v⟩ va h.pa
    let off := va.toNat % 128
    (if l.marked.getLsbD (off / 8) then none else some (l.bytes off n, l.tag (off / 8)), s)

/-- A byte range cut at words: address and length of each piece. -/
def pieces (va n : Nat) : List (Nat × Nat) :=
  (List.range ((va % 8 + n + 7) / 8)).map fun k =>
    let lo := max va (va / 8 * 8 + 8 * k)
    (lo, min (va + n) (va / 8 * 8 + 8 * k + 8) - lo)

/-- One write of a list. -/
structure ViWrite where
  va : Nat
  n : Nat
  data : Nat
  tag : BitVec 2

/-- Write pieces in order, up to the first that is not applied. -/
def State.viStore (s : State) (pid : Nat) (v : BitVec 6) : List ViWrite → PutRes × State
  | [] => (.done, s)
  | p :: ps =>
    match s.viPut pid v (BitVec.ofNat 64 p.va) p.n p.data p.tag with
    | (.done, s) => s.viStore pid v ps
    | r => r

/-- Read pieces in order; none when one cannot be read. -/
def State.viLoad (s : State) (pid : Nat) (v : BitVec 6) : List (Nat × Nat) → Option (List (Nat × BitVec 2)) × State
  | [] => (some [], s)
  | p :: ps =>
    match s.viGet pid v (BitVec.ofNat 64 p.1) p.2 with
    | (none, s) => (none, s)
    | (some x, s) =>
      match s.viLoad pid v ps with
      | (some xs, s) => (some (x :: xs), s)
      | (none, s) => (none, s)

/-! ## The host's memory and the namespace (R432, R436): bytes the model lets read 0 until written (assumption log 2, DESIGN CHOICE) -/

def hostRead (m : List Host.Cell) (at_ n : Nat) : List Byte := (List.range n).map fun k => aget 0 m (at_ + k)
def hostWrite (m : List Host.Cell) (at_ : Nat) (bs : List Byte) : List Host.Cell :=
  (bs.zipIdx).foldl (fun m b => aset 0 m (at_ + b.2) b.1) m

/-- The bytes of the storage namespace that a partition attaches (R420, R436). -/
def State.namespaceOf (s : State) (pid : Nat) : List Host.Cell := aget [] s.nvme pid
/-- Write to it. -/
def State.writeSpace (s : State) (pid at_ : Nat) (bs : List Byte) : State :=
  { s with nvme := aput s.nvme pid (hostWrite (s.namespaceOf pid) at_ bs) }

/-- The host address of `n` bytes at an offset of a VI's host region; none outside it (R431, R432). -/
def State.hostAt (s : State) (pid : Nat) (v : BitVec 6) (off n : Nat) : Option Nat :=
  let p := s.part pid
  if off + n ≤ (aget 0 p.hostLen v.toNat).toNat then some ((aget 0 p.hostReg v.toNat).toNat + off) else none

/-! ## Requests (R430, R431) -/

/-- Word `k` of an entry. -/
def reqWord (r : HostReq) (k : Nat) : Word := r.w.extractLsb' (64 * k) 64
/-- TYPE. -/
def reqType (r : HostReq) : Nat := fld (reqWord r 0) 63 56
/-- The VI a request names: by its field for the operator, by its queue or endpoint for a guest. -/
def reqVi (r : HostReq) : BitVec 6 :=
  match r.via with
  | .operator => BitVec.ofNat 6 (fld (reqWord r 0) 53 48)
  | _ => r.viid

/-- The row that serves a request entry (R432). An unknown op of VICTL is DEFINE's to refuse. -/
def entryInstr (r : HostReq) : Instr :=
  match reqType r with
  | 1 => .launch
  | 2 => .copyin
  | 3 => .copyout
  | 4 =>
    match fld (reqWord r 2) 7 0 with
    | 2 => .weight
    | 3 => .reset
    | 4 => .undefine
    | 5 => .hostreg
    | 6 => .store
    | 7 => .group
    | _ => .define
  | 5 => .attest
  | 6 => .storage
  | 7 => .merge
  | _ => .notsupRequest

/-- A VI enters error (R426): the launch that waits for its admission is looked at again. -/
def State.viError (s : State) (pid : Nat) (v : BitVec 6) : State :=
  (s.setVst pid v 3).schedule s.cycle rankUnit .launchAdmission (.vi pid v)

/-- A VI-table entry as Heald validates it (R378): its reserved bits are zero and its rings have sizes in their ranges; a launch
queue that QSETUP has not set up has none (R433). -/
def State.viEntryOk (s : State) (pid : Nat) (v : BitVec 6) : Bool :=
  let w := s.vi pid v
  let lq := fld (w 2) 63 59
  let dl := fld (w 4) 63 59
  let ev := fld (w 6) 63 59
  fld (w 0) 60 56 = 0 && fld (w 1) 63 48 = 0 && fld (w 1) 12 0 = 0 && fld (w 2) 58 53 = 0 && fld (w 4) 58 48 = 0 &&
    fld (w 4) 2 0 = 0 && fld (w 6) 58 48 = 0 && fld (w 6) 5 0 = 0 && fld (w 8) 63 32 = 0 &&
    ((List.range 7).all fun k => w (9 + k) = 0) && (lq = 0 || (6 ≤ lq && lq ≤ 20)) && 3 ≤ dl && dl ≤ 20 && 3 ≤ ev && ev ≤ 16

/-- Heald validates the entry of a defined VI before it acts on it: a bad one puts the VI into error (R378; assumption log 6,
DESIGN CHOICE, when). -/
def State.validate (s : State) (pid : Nat) (v : BitVec 6) : State :=
  if s.viDefined pid v && !s.viEntryOk pid v && s.vst pid v ≠ 3 then s.viError pid v else s

/-- Write a completion word (R431): once, in the VI's memory or the host region; a word that cannot be written puts the
VI into error. False when a full dirty log holds it: it is to be written later (R259). -/
def State.putCompletion (s : State) (pid : Nat) (v : BitVec 6) (w1 status : Word) : Bool × State :=
  let c := fld w1 52 0
  if c = 0 then (true, s)
  else if w1.getLsbD 63 then
    match if c % 8 = 0 then s.hostAt pid v (fld w1 47 0) 8 else none with
    | some a => (true, { s with hostMem := hostWrite s.hostMem a (bytesOf 8 status.toNat) })
    | none => (true, s.viError pid v)
  else if c % 8 ≠ 0 then (true, s.viError pid v)
  else match s.viPut pid v (BitVec.ofNat 64 c) 8 status.toNat 0 with
    | (.done, s) => (true, s)
    | (.full, s) => (false, s.healdEvent (sliceUnit (sliceOfDie pid)) (hkind 3 v.toNat))
    | (_, s) => (true, s.viError pid v)

/-- Write the completion word of a launch that has ended, now or once the dirty log takes it (R65, R259). -/
def State.writeCompletion (s : State) (pid : Nat) (v : BitVec 6) (w1 status : Word) : State :=
  match s.putCompletion pid v w1 status with
  | (true, s) => s
  | (false, s) => s.schedule (s.cycle + 256) rankUnit .launchAdmission (.guest ⟨pid, v, w1, status⟩)

/-- Answer a send (R430): status, and the write index in force above the tag. -/
def State.replySend (s : State) (pid : Nat) (v : BitVec 6) (status : Word) (tag : Nat) : State :=
  let wr := if s.viDefined pid v then s.lqwr pid v else 0
  { s with replies := s.replies ++ [UeOut.reply pid v status (BitVec.ofNat 64 (wr * 2 ^ 32 + tag))] }

/-- Begin the service of a VI's next queue entry (R434): it is read now; an entry that cannot be read puts the VI into
error. -/
def State.serveNext (s : State) (pid : Nat) (v : BitVec 6) : State :=
  let s := s.validate pid v
  if !s.viDefined pid v || (afind (s.part pid).heads v.toNat).isSome || s.lqwr pid v = s.lqrd pid v then s
  else
    let w2 := s.vi pid v 2
    let at_ := fld w2 52 0 + 64 * (s.lqrd pid v % 2 ^ fld w2 63 59)
    match s.viLoad pid v (pieces at_ 64) with
    | (none, s) => s.viError pid v
    | (some ws, s) =>
      let n := (ws.zipIdx).foldl (fun n w => n + w.1.1 * 2 ^ (64 * w.2)) 0
      let r : HostReq := { pid := pid, via := .queue, viid := v, w := BitVec.ofNat 512 n }
      (s.modPart pid fun p => { p with heads := aput p.heads v.toNat r }).schedule (s.cycle + 1) rankUnit (entryInstr r) (.host r)

/-- A queue entry has been served: LQRD advances and the next one begins (R434). -/
def State.entryServed (s : State) (pid : Nat) (v : BitVec 6) : State :=
  let s := s.modPart pid fun p => { p with heads := adel p.heads v.toNat, retryAt := adel p.retryAt v.toNat }
  (s.setViField pid v 3 0 32 (s.lqrd pid v + 1)).serveNext pid v

/-- A request completes with a status (R430, R431): its completion word is written, and then the send is answered or the next
entry served (R434). -/
def State.finishReq (s : State) (r : HostReq) (status : Word) : State :=
  match s.putCompletion r.pid (reqVi r) (reqWord r 1) status with
  | (false, s) => s.schedule (s.cycle + 256) rankUnit .launchAdmission (.finish r status)
  | (true, s) =>
    match r.via with
    | .queue => s.entryServed r.pid (reqVi r)
    | _ => s.replySend r.pid (reqVi r) status (fld (reqWord r 0) 31 0)

/-- Heald holds a message: a merge is going on, or it has not yet prepared its partition (R423, R424, R437, R452). -/
def State.healdHolds (s : State) (pid : Nat) (viaQueue : Bool) : Bool :=
  let p := s.part pid
  p.dies = [] || (match p.merge with
    | .idle => false
    | .routine _ _ _ _ _ _ => true
    | _ => !viaQueue)

/-- Keep a message unanswered (R424). -/
def State.holdMessage (s : State) (pid : Nat) (ev : Ev) : State :=
  s.modPart pid fun p => { p with heldReqs := p.heldReqs ++ [ev] }

/-- Take up the held messages in their order (R424). -/
def State.freeMessages (s : State) (pid : Nat) : State :=
  let es := (s.part pid).heldReqs
  es.foldl (fun s e => s.schedule s.cycle rankUnit e.ins e.arg) (s.modPart pid fun p => { p with heldReqs := [] })

/-- Nothing answers at the port of a die that stays halted, but ATTEST, or of one that has lost its power (R446, R448). -/
def State.silent (s : State) (d : Nat) : Bool := (s.die d).power = .halted || (s.die d).power = .tripped

/-- Where a message for a die is served: by the primary of its partition (R421); nowhere when that die or the primary's is
silent. -/
def State.heardBy (s : State) (d : Nat) : Option Nat :=
  if s.silent d || s.silent (s.pidOf d) then none else some (s.pidOf d)

/-- What every request entry meets first (R421, R426, R431, R432): the primary, a hold, its shape and where it may come from, its
generation, and the state of its VI. -/
def healdGate (ins : Instr) (s : State) (from_ : List HostVia) (f : HostReq → State → State) : Out :=
  match s.arg with
  | .host q =>
    match s.heardBy q.pid with
    | none => .next s
    | some pid =>
    let r := { q with pid := pid }
    if s.healdHolds pid (r.via == .queue) then .next (s.holdMessage pid ⟨ins, .host r⟩)
    else if entryInstr r ≠ ins then .next (s.schedule s.cycle rankUnit (entryInstr r) (.host r))
    else
      let v := reqVi r
      if !from_.contains r.via || BitVec.ofNat 6 (fld (reqWord r 0) 53 48) ≠ v then .next (s.finishReq r hsBadreq)
      else if ins = .define then .next (f r s)
      else if ins = .merge then
        if fld (reqWord r 0) 47 32 ≠ s.guestGen r.pid v then .next (s.finishReq r hsStale) else .next (f r s)
      else
      let s := s.validate r.pid v
      if !s.viDefined r.pid v then .next (s.finishReq r hsBadreq)
      else if r.via ≠ .operator && s.vst r.pid v = 3 then .next (s.finishReq r hsVierr)
      else if fld (reqWord r 0) 47 32 ≠ s.guestGen r.pid v then .next (s.finishReq r hsStale)
      else .next (f r s)
  | _ => .next s

/-- NOTSUP_REQUEST (R432): TYPE 0 or 8 to 255. -/
def execNotsupRequest (s : State) : Out :=
  match s.arg with
  | .host q =>
    match s.heardBy q.pid with
    | none => .next s
    | some pid =>
    let r := { q with pid := pid }
    if s.healdHolds pid (r.via == .queue) then .next (s.holdMessage pid ⟨.notsupRequest, .host r⟩)
    else if entryInstr r ≠ .notsupRequest then .next (s.schedule s.cycle rankUnit (entryInstr r) (.host r))
    else .next (s.finishReq r hsNotsup)
  | _ => .next s

/-- UE_NOT_SUPPORTED (R429): an unreliable packet is discarded, any other operation answered with the error. -/
def execUeNotSupported (s : State) : Out :=
  match s.arg with
  | .ue x =>
    if x.unreliable || s.silent x.die then .next s
    else .next { s with replies := s.replies ++ [UeOut.notSupported x.ticket] }
  | _ => .next s

/-! ## RMA (R429) -/

/-- The port engine of a die would not deliver to a die outside DIES (R381). -/
def State.selvedgeStops (s : State) (die : Nat) (home : Nat) : Bool := !(s.engine die).dies.getLsbD (home / 64)

/-- The pieces of an RMA, cut at words as an engine's writes are (R253), each for its home slice by the copy of IMAP of the die's
first slice. -/
def State.rmaPieces (s : State) (r : RmaReq) : List RmaReq :=
  (pieces r.addr.toNat (widthBytes r.wd)).map fun p =>
    let off := p.1 - r.addr.toNat
    let va := BitVec.ofNat 64 p.1
    { r with addr := va, data := r.data >>> (8 * off), n := p.2, off := off,
             home := some (sliceUnit (s.homeOfSlice (sliceOfDie r.die) ⟨false, r.viid⟩ va)) }

/-- An RMA at its port goes to its homes; past the last address, or where the selvedge would not let it, it is refused (R381,
R429). -/
def State.rmaAtPort (s : State) (ins : Instr) (cls : Nat) (r : RmaReq) : State :=
  let ps := s.rmaPieces r
  let stopped := ps.filter fun p => s.selvedgeStops r.die (unitIdent (p.home.getD 0))
  if s.silent r.die then s
  else if 2 ^ 53 < r.addr.toNat + widthBytes r.wd then { s with replies := s.replies ++ [UeOut.rmaError r.ticket] }
  else if stopped ≠ [] then
    { stopped.foldl (fun s _ => s.dropAtEngine r.die) s with replies := s.replies ++ [UeOut.rmaError r.ticket] }
  else
    let (run, s) := s.fresh
    let s := s.modEngine r.die fun e => { e with rmas := e.rmas ++ [⟨run, r.ticket, ins == .rmaWrite, ps.length, 0, false⟩] }
    ps.foldl
      (fun s p =>
        let p := { p with run := run }
        s.send cls rankUnit (engineUnit r.die) (p.home.getD 0) ⟨false, r.viid⟩ false 0 ⟨ins, .rma p⟩
          (some ⟨ins, .rma { p with ans := some false }⟩)) s

/-- The answer of a piece comes back to the port; the last one answers the RMA (R429). -/
def State.rmaBack (s : State) (r : RmaReq) (ok : Bool) : State :=
  match (s.engine r.die).rmas.find? fun q => q.run == r.run with
  | none => s
  | some q =>
    let q := { q with left := q.left - 1, failed := q.failed || !ok, data := q.data ||| r.data <<< (8 * r.off) }
    if q.left = 0 then
      let s := s.modEngine r.die fun e => { e with rmas := e.rmas.filter fun x => x.run ≠ r.run }
      { s with replies := s.replies ++
          [if q.failed then UeOut.rmaError q.ticket else if q.write then UeOut.rmaDone q.ticket else UeOut.rmaData q.ticket q.data] }
    else s.modEngine r.die fun e => { e with rmas := e.rmas.map fun x => if x.run = r.run then q else x }

/-- RMA_WRITE (R429): a posted store of the port engine at the home; a BUSY word refuses it. -/
def execRmaWrite (s : State) : Out :=
  match s.arg with
  | .rma r =>
    match r.home, r.ans with
    | none, _ => .next (s.rmaAtPort .rmaWrite 2 r)
    | some _, some ok => .next (s.rmaBack r ok)
    | some u, none =>
      let id := unitIdent u
      let sp : Space := ⟨false, r.viid⟩
      let ev : Ev := ⟨.rmaWrite, .rma r⟩
      s.homeGate id sp r.addr .write false ev fun s pa e =>
        let (l, t, s) := s.getLine id sp r.addr pa
        let off := r.addr.toNat % 128
        if l.tag (off / 8) = 3 then .next (s.rmaAnswer .rmaWrite { r with ans := some false } t)
        else
          let l' := (l.put off r.n (r.data.toNat % 2 ^ (8 * r.n))).setTag (off / 8) 0
          .next (s.applyWrite id sp r.addr pa e ev l l' fun s => s.rmaAnswer .rmaWrite { r with ans := some true, data := 0 } t)
  | _ => .next s

/-- RMA_READ (R429): raw bits from the home, never from a replica. -/
def execRmaRead (s : State) : Out :=
  match s.arg with
  | .rma r =>
    match r.home, r.ans with
    | none, _ => .next (s.rmaAtPort .rmaRead 0 r)
    | some _, some ok => .next (s.rmaBack r ok)
    | some u, none =>
      let id := unitIdent u
      let sp : Space := ⟨false, r.viid⟩
      s.homeGate id sp r.addr .read false ⟨.rmaRead, .rma r⟩ fun s pa _ =>
        let (l, t, s) := s.getLine id sp r.addr pa
        let off := r.addr.toNat % 128
        let ok := !l.marked.getLsbD (off / 8)
        .next (s.rmaAnswer .rmaRead { r with ans := some ok, data := if ok then BitVec.ofNat 64 (l.bytes off r.n) else 0 } t)
  | _ => .next s

/-! ## Doorbells and queue setup (R433, R434) -/

/-- Every 8 KiB page of a range is mapped by a valid leaf with SYSP = 0 (R433). -/
def State.pagesMapped (s : State) (pid : Nat) (v : BitVec 6) (base n : Nat) : Bool :=
  (List.range ((base % 8192 + n + 8191) / 8192)).all fun k =>
    let va := BitVec.ofNat 64 (base / 8192 * 8192 + 8192 * k)
    match s.walkFrom ⟨false, v⟩ va 3 (s.rootOf (sliceOfDie pid) ⟨false, v⟩) with
    | .ok _ e => !e.sysp
    | _ => false

/-- A guest's send meets Heald (R424, R430): held, or for a VI that is not defined BADREQ. -/
def guestGate (ins : Instr) (s : State) (f : GuestSend → State → State) : Out :=
  match s.arg with
  | .guest q =>
    match s.heardBy q.pid with
    | none => .next s
    | some pid =>
    let g := { q with pid := pid }
    if s.healdHolds pid false then .next (s.holdMessage pid ⟨ins, .guest g⟩)
    else
    let s := s.validate g.pid g.viid
    if !s.viDefined g.pid g.viid then .next (s.replySend g.pid g.viid hsBadreq 0)
    else .next (f g s)
  | _ => .next s

/-- QSETUP (R433). -/
def execQsetup (s : State) : Out :=
  guestGate .qsetup s fun g s =>
    let v := g.viid
    let log := fld g.w0 12 8
    let base := g.w1.toNat
    let n := 64 * 2 ^ log
    if s.vst g.pid v = 3 then s.replySend g.pid v hsVierr 0
    else if fld g.w0 47 32 ≠ s.guestGen g.pid v then s.replySend g.pid v hsStale 0
    else if s.lqwr g.pid v ≠ s.lqrd g.pid v then s.replySend g.pid v hsBusyq 0
    else if log < 6 || 20 < log || base % 64 ≠ 0 || 2 ^ 53 < base + n || !s.pagesMapped g.pid v base n then
      (s.viError g.pid v).replySend g.pid v hsBounds 0
    else ((s.setVi g.pid v 2 (BitVec.ofNat 64 (log * 2 ^ 59 + base))).setVi g.pid v 3 0).replySend g.pid v hsDone 0

/-- DOORBELL (R434). -/
def execDoorbell (s : State) : Out :=
  guestGate .doorbell s fun g s =>
    let v := g.viid
    let new := fld g.w0 31 0
    let wr := s.lqwr g.pid v
    let size := 2 ^ fld (s.vi g.pid v 2) 63 59
    let back := (wr + 2 ^ 32 - new) % 2 ^ 32
    let fwd := (new + 2 ^ 32 - wr) % 2 ^ 32
    if s.vst g.pid v = 3 then s.replySend g.pid v hsVierr 0
    else if fld g.w0 47 32 ≠ s.guestGen g.pid v then s.replySend g.pid v hsStale 0
    else if back ≤ size then s.replySend g.pid v hsDone 0
    else if fwd ≤ size && (new + 2 ^ 32 - s.lqrd g.pid v) % 2 ^ 32 ≤ size then
      let s := s.setViField g.pid v 3 32 32 new
      ((s.replySend g.pid v hsDone 0).serveNext g.pid v).schedule s.cycle rankUnit .timeSliceEnd (.die g.pid)
    else (s.viError g.pid v).replySend g.pid v hsBounds 0

end Sys2Proof.Machine
end

