-- ==== Sys2Proof/Machine/Schedule.lean ====
section
/-! DEFINITION. Heald's launches and time slices (02_families R30, R65; 13_global R259; 17_rotation R302, R303;
23_traps R410, R412; 25_partitions R426, R427, R432; 26_program R437; 27_package R450). -/

namespace Sys2Proof.Machine

/-! ## Launches -/

/-- The core that Heald chooses for a launch without a place of its own (R30), by the index of its entry. -/
def State.chosenCore (s : State) (pid n : Nat) : UnitId :=
  let ds := s.partDies pid
  let k := Config.defaultCore pid n
  ds.getD (k / 1024 % ds.length) pid * 1024 + k % 1024

/-- The family a LAUNCH entry asks for (R432); none where FALLOC would refuse it (R140) or a bit outside its fields is set. -/
def State.launchSpec (s : State) (r : HostReq) : Option FamSpec :=
  let w4 := reqWord r 4
  let w5 := reqWord r 5
  let pl := reqWord r 3
  let x : FallocArgs :=
    { step := w5.extractLsb' 0 8, blk := w5.extractLsb' 8 8, g := w5.extractLsb' 16 3, s := w5.extractLsb' 19 3, l := w5.extractLsb' 22 5,
      prio := w5.extractLsb' 28 2, chain := false, unb := false }
  let own := s.chosenCore r.pid (s.lqrd r.pid (reqVi r))
  if fld w5 63 30 ≠ 0 || w5.getLsbD 27 || 27 < x.g.toNat + 2 * x.s.toNat + x.l.toNat || x.step = 0 || x.blk = 0 then none
  else match placeOf own 0 pl with
    | none => none
    | some (base, count) =>
      if !s.placeInside r.pid base count then none
      else some
        { start := w4.extractLsb' 0 32, limit := w4.extractLsb' 32 32, args := x, cls := 0, base := base, count := count,
          creator := ⟨healdUnit r.pid, 64, 0⟩, sys := false, root := true
          defPlace := if pl = 0 || pl.getLsbD 25 then BitVec.ofNat 64 (own + 2 ^ 12) else pl }

/-- The 14 words of a LAUNCH entry's table: globals 0 to 6, then initial shareds 0 to 6; none where one cannot be read as
VAL (R432). -/
def State.launchData (s : State) (r : HostReq) : Option (List Word) × State :=
  let at_ := (reqWord r 6).toNat
  if at_ = 0 then (some (List.replicate 14 0), s)
  else if at_ % 8 ≠ 0 then (none, s)
  else match s.viLoad r.pid (reqVi r) (pieces at_ 112) with
    | (some ws, s) => (if ws.all fun w => w.2 = 0 then some (ws.map fun w => BitVec.ofNat 64 w.1) else none, s)
    | (none, s) => (none, s)

/-- The VI's context is resident on every core of a place (R302). -/
def State.resident (s : State) (v : BitVec 6) (x : FamSpec) : Bool :=
  (List.range x.count).all fun k =>
    let c := s.core (x.base + k)
    c.assigned && c.viid == v && !c.retired

/-- Attempt 1 of R48 for Heald: every core of the place at once (R303). The owning entry when it succeeds; a failed attempt
leaves nothing reserved. -/
def State.attempt (s : State) (heald : UnitId) (x : FamSpec) : Option FamRef × State :=
  let (id, s0) := s.fresh
  let cores := (List.range x.count).map (x.base + ·)
  let (refused, es, s) := cores.foldl
    (fun (p : Bool × List FamRef × State) u =>
      let (r, e, s) := p.2.2.reserveAt u id heald false x
      (p.1 || r, p.2.1 ++ e.toList, s)) (false, [], s0)
  match refused, es.head? with
  | false, some own => (some own, cores.foldl (fun s u => s.settleAt u id heald (some own)) s)
  | _, _ => (none, s0)

/-- A family that Heald has reserved starts, with RNE, no flags and RKEY 0 (R65). -/
def State.startLaunch (s : State) (f : FamRef) (ws : List Word) (body : Word) (info : LaunchInfo) : State :=
  let put := fun (off : Nat) => (List.range 7).foldl (fun m k => aput m k (ws.getD (off + k) 0)) []
  let s := s.modFam f.owner f.entry fun e => { e with glob := put 0, inis := put 7, launch := some info }
  s.runFamily f.owner f.entry body 0 0

/-- A merge or split has stopped the running VI (R423 step 4, R440). -/
def State.mergeStops (s : State) (pid : Nat) : Bool :=
  match (s.part pid).merge with
  | .stopping .. | .saving .. | .saved .. | .splitting .. => true
  | _ => false

/-- Admission of the launch at the head of a VI's queue (R302, R303): in the VI's time slice, on its resident cores. -/
def State.admitVi (s : State) (pid : Nat) (v : BitVec 6) : State :=
  let p := s.part pid
  match afind p.heads v.toNat with
  | none => s
  | some r =>
    if entryInstr r ≠ .launch then s
    else if s.vst pid v = 3 then s.finishReq r hsVierr
    else if p.running ≠ some v || p.stopping || s.mergeStops pid then s
    else match s.launchSpec r, s.launchData r with
      | some x, (some ws, s) =>
        if !s.resident v x then s
        else match s.attempt (healdUnit pid) x with
        | (some f, s) =>
          (s.startLaunch f ws (reqWord r 2) ⟨pid, v, reqWord r 1, false⟩).entryServed pid v
        | (none, s) =>
          let t := s.cycle + 65536
          (s.modPart pid fun p => { p with retryAt := aput p.retryAt v.toNat t }).schedule t rankAssign .admissionRetryTimer (.vi pid v)
      | _, (_, s) => s.finishReq r hsBadreq

/-- LAUNCH (R432): a malformed one completes with BADREQ, any other waits for its admission. -/
def execLaunch (s : State) : Out :=
  healdGate .launch s [.queue] fun r s =>
    match s.launchSpec r, s.launchData r with
    | some _, (some _, s) => s.admitVi r.pid (reqVi r)
    | _, (_, s) => s.finishReq r hsBadreq

/-- A routine of a service launch runs: Heald does nothing else of the partition (R437). -/
def State.inRoutine (s : State) (pid : Nat) : Bool :=
  match (s.part pid).merge with
  | .routine .. => true
  | _ => false

/-- What Heald would do of its own waits with the messages while a routine runs (R437). -/
def State.unlessRoutine (s : State) (pid : Nat) (a : Arg) (f : State → State) : State :=
  if s.inRoutine pid then s.holdMessage pid ⟨.launchAdmission, a⟩ else f s

/-- ADMISSION_RETRY_TIMER (R303). -/
def execAdmissionRetryTimer (s : State) : Out :=
  match s.arg with
  | .vi pid v =>
    .next (if afind (s.part pid).retryAt v.toNat = some s.cycle then s.unlessRoutine pid s.arg fun s => s.admitVi pid v else s)
  | _ => .next s

/-! ## Service launches (R437) -/

/-- Heald loads the image of a service launch once, and measures it (R437, R450; assumption log 6, DESIGN CHOICE, when). -/
def State.loadService (s : State) (pid type : Nat) : State :=
  if (s.part pid).loaded.contains type then s
  else
    let (at_, ws) := Config.serviceImage pid type
    let s := (ws.zipIdx).foldl (fun s w => s.setTableWord ((at_ + w.2) % 2 ^ 37 * 8) w.1) s
    let s := s.modDie pid fun d => { d with m2 := extendM d.m2 (ws.flatMap fun w => bytesOf 8 w.toNat) }
    s.modPart pid fun p => { p with loaded := type :: p.loaded }

/-- Start the routine of an operator's request as one member in system mode on its service core; while that core waits for its
PZERO or has no place, later. -/
def State.startService (s : State) (r : HostReq) (svc : Nat) (g sh : BitVec 3) (l : BitVec 5) (body : Word) (regs : List Word) : State :=
  let u := svcUnit svc
  let x : FamSpec :=
    { start := 0, limit := 1, args := { step := 1, blk := 1, g := g, s := sh, l := l, prio := 0, chain := false, unb := false }, cls := 0,
      base := u, count := 1, creator := ⟨healdUnit r.pid, 64, 0⟩, sys := true, defPlace := 0x2000000, root := true }
  let later := fun (s : State) => s.schedule (s.cycle + 1024) rankUnit (entryInstr r) (.host r)
  if (s.part r.pid).reassign.contains svc then later s
  else match s.attempt (healdUnit r.pid) x with
    | (none, s) => later s
    | (some f, s) =>
      let (stamp, s) := (s.loadService r.pid (reqType r)).fresh
      let s := s.modPart r.pid fun p => { p with merge := .routine r svc f.entry stamp false false }
      s.startLaunch f regs body ⟨r.pid, 0, regs.getD 0 0, true⟩

/-- An operator's request whose TYPE has a service launch in Heald's image is served by its routine (R437). -/
def State.byRoutine (s : State) (r : HostReq) (f : State → State) : State :=
  match if r.via = .operator then Config.serviceRoutine r.pid (reqType r) else none with
  | some (svc, g, sh, l, body, regs) => s.startService r (svc % 32) g sh l body regs
  | none => f s

/-! ## Time slices (R427) -/

/-- The compute cores whose context is a VI's. -/
def State.viCores (s : State) (pid : Nat) (v : BitVec 6) : List (Nat × Core) :=
  s.cores.filter fun p => isCompute p.1 && (s.part pid).dies.contains (unitDie p.1) && p.2.assigned && p.2.viid == v
/-- A slot of the core is occupied. -/
def Core.occupied (c : Core) : Bool := c.slots.any fun x => x.2.work != .none
/-- An unserved queue entry. -/
def State.unserved (s : State) (pid : Nat) (v : BitVec 6) : Bool := s.lqwr pid v ≠ s.lqrd pid v
/-- The VI has an occupied slot, or an entry that could be served. -/
def State.hasWork (s : State) (pid : Nat) (v : BitVec 6) : Bool :=
  (s.viCores pid v).any (·.2.occupied) || (s.vst pid v ≠ 3 && s.unserved pid v)
/-- The saved contexts of a VI. -/
def Partition.savedOf (p : Partition) (v : BitVec 6) : List (Nat × Core) := p.saved.filter fun c => c.1 / 2 ^ 16 = v.toNat
/-- Eligible for a slice (R427). A VI in error is, while launches that it admitted before have yet to run to their end (R426;
assumption log 46, DEDUCED). -/
def State.eligible (s : State) (pid : Nat) (v : BitVec 6) : Bool :=
  s.viDefined pid v && 1 ≤ s.weight pid v &&
    ((s.vst pid v ≠ 3 && s.unserved pid v) || ((s.part pid).savedOf v).any (·.2.occupied))
/-- The next VI, in ascending VIID order after the last one that ran, wrapping round. -/
def State.nextVi (s : State) (pid : Nat) : Option (BitVec 6) :=
  let l := (s.part pid).last.toNat
  ((List.range 64).map fun k => BitVec.ofNat 6 (l + 1 + k)).find? (s.eligible pid)

/-- The dies of a partition as a mask. -/
def dieMask (ds : List Nat) : BitVec 4 := ds.foldl (fun m d => setBitN m d true) 0

/-- A SYS request of Heald's agent to each target; no answer comes back. -/
def State.agentSys (s : State) (pid : Nat) (ins : Instr) (targets : List UnitId) (c : Word) : State :=
  let u := healdUnit pid
  targets.foldl
    (fun s t => s.send (sysClass ins) (sysRank ins) u t ⟨true, 0⟩ true 0
      ⟨ins, .sys { who := ⟨u, 64, 0⟩, tid := 0, unit := t, b := BitVec.ofNat 64 t, c := c, d := 0, v := 0, ans := none }⟩ none) s

/-- Heald stops a VI with C = GCYC + 20,000 (R412 step 1). -/
def State.agentStop (s : State) (pid : Nat) (v : BitVec 6) : State :=
  let c := s.cycle + 20000
  let dies := dieMask (s.part pid).dies
  let ts := s.stopTargets (healdUnit pid) v dies
  let s := s.modPart pid fun p => { p with stopC := some c }
  (s.beginStop ⟨healdUnit pid, 64, 0⟩ v dies c ts).agentSys pid (.stopatStop .always 0 0 v dies) ts (BitVec.ofNat 64 c)

/-- Heald lets a VI's cores go on, and the stations put its packets back (R412 step 8). -/
def State.agentGo (s : State) (pid : Nat) (v : BitVec 6) : State :=
  let c := s.cycle + 20000
  let dies := dieMask (s.part pid).dies
  let ins : Instr := .stopatGo .always 0 0 v dies
  let s := (s.part pid).dies.foldl (fun s d => s.schedule c rankKill ins (.vi d v)) s
  s.agentSys pid ins (s.stopTargets (healdUnit pid) v dies) (BitVec.ofNat 64 c)

/-- The stop that Heald has begun is complete, and it has heard so (HKIND 4; R405, R440). -/
def State.stopDone (s : State) (pid : Nat) : Bool := (s.part pid).stopC.isNone

/-- Save a stopped VI (R412 step 5): the state of each of its cores, the pool with it. -/
def State.saveVi (s : State) (pid : Nat) (v : BitVec 6) : State :=
  let cs := s.viCores pid v
  let s := s.modPart pid fun p =>
    { p with saved := cs.foldl (fun m c => aput m (v.toNat * 2 ^ 16 + c.1) c.2) p.saved, running := none, stopping := false }
  if s.vst pid v = 1 then s.setVst pid v 2 else s

/-- Re-post the held posts of a VI's event log as it resumes (R399). -/
def State.repostHeld (s : State) (pid : Nat) (v : BitVec 6) : State :=
  let w6 := s.vi pid v 6
  let w7 := s.vi pid v 7
  let size := 2 ^ fld w6 63 59
  let n := (fld w7 63 32 + 2 ^ 32 - fld w7 31 0) % 2 ^ 32
  let s := (List.range (min n size)).foldl
    (fun s k =>
      let at_ := fld w6 47 6 * 64 + 16 * ((fld w7 31 0 + k) % size)
      let w0 := s.tableWord at_
      if fld w0 47 44 = 1 then
        s.agentSys pid (.evpost .always 0 0 0 v (w0.extractLsb' 48 16) false) [fld w0 36 20] (s.tableWord (at_ + 8))
      else s) s
  s.setViField pid v 7 0 32 (fld w7 63 32)

/-- A core takes a VI's context: the saved one, still stopped, after the zero-fill of an assignment (R198, R412 step 7), or a
fresh one by PZERO (R406). -/
def State.giveCore (s : State) (pid : Nat) (v : BitVec 6) (u : UnitId) : State :=
  let c := s.core u
  match afind (s.part pid).saved (v.toNat * 2 ^ 16 + u) with
  | some img =>
    let t := s.cycle + poolSize u / 2048
    (s.setCore u
      { img with
        nlog := c.nlog, imap := c.imap, perf := c.perf, sysQueue := c.sysQueue, retired := c.retired, halted := c.halted, stopped := true,
        zeroFillUntil := t }).schedule t rankUnit .zeroFillComplete (.unit u)
  | none =>
    (pzeroAt s { who := ⟨healdUnit pid, 64, 0⟩, tid := 0, unit := u, b := BitVec.ofNat 64 u, c := v.setWidth 64, d := 0, v := 0, ans := none }).s

/-- Heald begins or resumes a time slice of a VI of 50,000 × WEIGHT cycles (R426, R427). -/
def State.beginSlice (s : State) (pid : Nat) (v : BitVec 6) : State :=
  let us := (s.cores.map (·.1)).filter fun u => isCompute u && (s.part pid).dies.contains (unitDie u) && !(s.core u).retired
  let paused := !((s.part pid).savedOf v).isEmpty
  let s := us.foldl (fun s u => s.giveCore pid v u) s
  let t := s.cycle + 50000 * s.weight pid v
  let s := s.modPart pid fun p =>
    { p with running := some v, last := v, stopping := false, sliceStamp := p.sliceStamp + 1, sliceEnd := t,
             saved := p.saved.filter fun c => c.1 / 2 ^ 16 ≠ v.toNat }
  let s := (if s.vst pid v = 3 then s else s.setVst pid v 1).repostHeld pid v
  let s := if paused then s.agentGo pid v else s
  (s.schedule t rankUnit .timeSliceEnd (.part pid (s.part pid).sliceStamp)).schedule s.cycle rankAssign .launchAdmission (.vi pid v)

/-- Heald stops the Running VI; the scheduler looks again once the stop can be complete. -/
def State.beginPause (s : State) (pid : Nat) (v : BitVec 6) : State :=
  let s := (s.agentStop pid v).modPart pid fun p => { p with stopping := true, sliceStamp := p.sliceStamp + 1 }
  s.schedule (s.cycle + 20064) rankUnit .timeSliceEnd (.part pid (s.part pid).sliceStamp)

/-- Heald drains a VI's dirty-log ring (R259): it has read every entry. -/
def State.drainDirty (s : State) (pid : Nat) (v : BitVec 6) : State := s.setViField pid v 5 0 32 (fld (s.vi pid v 5) 63 32)

/-- A slice goes on for another 50,000 × WEIGHT cycles (R427). -/
def State.extendSlice (s : State) (pid : Nat) (v : BitVec 6) : State :=
  let t := s.cycle + 50000 * s.weight pid v
  let s := s.modPart pid fun p => { p with sliceEnd := t, sliceStamp := p.sliceStamp + 1 }
  s.schedule t rankUnit .timeSliceEnd (.part pid (s.part pid).sliceStamp)

/-- A compute core after PZERO and POOLPART, with no VI's context yet. -/
def State.prepareCore (s : State) (u : UnitId) : State :=
  let m : SysMsg := { who := ⟨healdUnit (unitDie u), 64, 0⟩, tid := 0, unit := u, b := BitVec.ofNat 64 u, c := 0, d := 0, v := 0, ans := none }
  let s := (pzeroAt s m).s
  let s := (poolpartAt 2 s { m with c := 0x44 }).s
  s.modCore u fun c => { c with assigned := false }

/-- A ring pair of a die that is lost (R339). -/
def State.pairLost (s : State) (die quad pair : Nat) : Bool := aget 0 s.degraded (8 * die + 2 * quad + pair) = 2
/-- A spare seat of a core's quadrant, on a pair that is not lost, that no logical core sits at (R382). -/
def State.spareSeat (s : State) (u : UnitId) : Option Nat :=
  let quad := u % 1024 / 256
  ((List.range 8).map (256 + ·)).find? fun c =>
    !s.pairLost (unitDie u) quad ((c - 256) / 4) && (s.die (unitDie u)).seats.all fun p => p.1 / 256 ≠ quad || p.2 ≠ c
/-- A spare slice of a die, on a pair that is not lost, that no slice identifier has (R382). -/
def State.spareSlice (s : State) (die : Nat) : Option Nat :=
  ((List.range 4).map (64 + ·)).find? fun c => !s.pairLost die (c - 64) 0 && (s.die die).sliceMap.all fun p => p.2 ≠ c
/-- Heald retires a unit that failed and remaps it to a spare seat or slice (R339, R411, R414). -/
def State.repairUnit (s : State) (pid : Nat) (u : UnitId) : State :=
  let m : SysMsg := { who := ⟨healdUnit pid, 64, 0⟩, tid := 0, unit := u, b := BitVec.ofNat 64 u, c := 0, d := 0, v := 0, ans := none }
  let s := (haltRetireAt s m).s
  match if unitKind u = 0 then s.spareSeat u else s.spareSlice (unitDie u) with
  | none => s
  | some c =>
    let s := (haltRemapAt s { m with c := BitVec.ofNat 64 c }).s
    if unitKind u = 0 then s.prepareCore u else s
/-- The failed units of a partition are repaired while its VI is stopped. -/
def State.repairCores (s : State) (pid : Nat) : State :=
  if (s.part pid).repairs = [] then s
  else ((s.part pid).repairs.foldl (fun s u => s.repairUnit pid u) s).modPart pid fun p => { p with repairs := [] }

/-- The scheduler of a partition (R427): nothing while a merge goes on. A VI whose WEIGHT is 0 does not run on; one whose core has
failed is stopped, the core repaired, and the VI resumed (R414). -/
def State.reschedule (s : State) (pid : Nat) (ended : Bool) : State :=
  let p := s.part pid
  if p.dies = [] then s
  else if p.merge ≠ .idle then (if ended then s.schedule (s.cycle + 1024) rankUnit .timeSliceEnd (.part pid p.sliceStamp) else s)
  else match p.running with
    | none =>
      let s := s.repairCores pid
      match s.nextVi pid with
      | some v => s.beginSlice pid v
      | none => s
    | some v =>
      if p.stopping then
        if !ended then s
        else if s.stopDone pid then
          let s := ((s.repairCores pid).saveVi pid v).drainDirty pid v
          match if p.repairs ≠ [] ∧ 1 ≤ s.weight pid v then some v else s.nextVi pid with
          | some w => s.beginSlice pid w
          | none => s
        else s.schedule (s.cycle + 64) rankUnit .timeSliceEnd (.part pid p.sliceStamp)
      else if p.repairs ≠ [] || s.weight pid v = 0 then s.beginPause pid v
      else if s.cycle < p.sliceEnd && s.hasWork pid v then s
      else if (s.nextVi pid).any (· ≠ v) then s.beginPause pid v
      else if p.sliceEnd ≤ s.cycle then s.extendSlice pid v
      else s

/-- TIME_SLICE_END (R259, R427): the end of a slice, a look at the scheduler, or a pause for a full dirty log. -/
def execTimeSliceEnd (s : State) : Out :=
  match s.arg with
  | .part pid stamp => .next (if (s.part pid).sliceStamp = stamp then s.reschedule pid true else s)
  | .die pid => .next (s.reschedule pid false)
  | .vi pid v =>
    if (s.part pid).merge ≠ .idle then .next (s.schedule (s.cycle + 1024) rankUnit .timeSliceEnd s.arg)
    else if (s.part pid).running = some v then .next (if (s.part pid).stopping then s else s.beginPause pid v)
    else .next (s.drainDirty pid v)
  | _ => .next s

/-- LAUNCH_ADMISSION (R65, R302, R303): admission of a VI's head, a launch's completion word, or the completion of a request whose
word a full dirty log held (R259). After a merge the merged partition's primary does it (R425). -/
def execLaunchAdmission (s : State) : Out :=
  match s.arg with
  | .vi q v =>
    let pid := s.pidOf q
    .next (s.unlessRoutine pid s.arg fun s => (s.admitVi pid v).reschedule pid false)
  | .guest g =>
    let pid := s.pidOf g.pid
    .next (s.unlessRoutine pid s.arg fun s => s.writeCompletion pid g.viid g.w0 g.w1)
  | .finish r status =>
    let pid := s.pidOf r.pid
    .next (s.unlessRoutine pid s.arg fun s => s.finishReq { r with pid := pid } status)
  | _ => .next s

end Sys2Proof.Machine
end

