-- ==== Sys2Proof/Machine/Requests.lean ====
section
/-! DEFINITION. The requests of guests and of the operator, but for LAUNCH and MERGE (18_rings R334; 25_partitions R426,
R428, R432, R436; 27_package R450, R451). -/

namespace Sys2Proof.Machine

/-! ## COPYIN and COPYOUT (R432) -/

/-- No tag map. -/
def noMap : Word := 0xFFFFFFFFFFFFFFFF

/-- A request that a full dirty log stopped is served again later (R259). -/
def State.retryRequest (s : State) (ins : Instr) (r : HostReq) : State :=
  (s.healdEvent (sliceUnit (sliceOfDie r.pid)) (hkind 3 (reqVi r).toNat)).schedule (s.cycle + 256) rankUnit ins (.host r)

/-- Write pieces for a request and complete it: a BUSY word gives `busy`, one that does not translate BOUNDS (assumption
log 6, DESIGN CHOICE); the words before it are written. -/
def State.storeFor (s : State) (ins : Instr) (r : HostReq) (ws : List ViWrite) (after : State → State) : State :=
  match s.viStore r.pid (reqVi r) ws with
  | (.done, s) => after s
  | (.busy, s) => s.finishReq r hsTagbusy
  | (.failed, s) => s.finishReq r hsBounds
  | (.full, s) => s.retryRequest ins r

/-- Tag of word `k` in a tag map (R432). -/
def mapTag (m : List Byte) (k : Nat) : BitVec 2 := (m.getD (k / 4) 0).extractLsb' (2 * (k % 4)) 2

/-- The bytes of a tag map over some tags. -/
def tagMap (ts : List (BitVec 2)) : List Byte :=
  (List.range ((ts.length + 3) / 4)).map fun b =>
    BitVec.ofNat 8 ((List.range 4).foldl (fun n k => n + (ts.getD (4 * b + k) 0).toNat * 4 ^ k) 0)

/-- A copy's shape: a count below 2^40, and with a map whole words. -/
def copyShape (va n : Nat) (mapped : Bool) : Bool := n < 2 ^ 40 && (!mapped || (va % 8 = 0 && n % 8 = 0))

/-- COPYIN (R432): each word is written whole with its tag. -/
def execCopyin (s : State) : Out :=
  healdGate .copyin s [.queue] fun r s =>
    let v := reqVi r
    let va := (reqWord r 2).toNat
    let n := (reqWord r 4).toNat
    let mapped := reqWord r 5 ≠ noMap
    if !copyShape va n mapped then s.finishReq r hsBadreq
    else match s.hostAt r.pid v (reqWord r 3).toNat n, if mapped then s.hostAt r.pid v (reqWord r 5).toNat ((n / 8 + 3) / 4) else some 0 with
      | some src, some at_ =>
        if 2 ^ 53 < va + n then s.finishReq r hsBounds
        else
          let map := if mapped then hostRead s.hostMem at_ ((n / 8 + 3) / 4) else []
          let ws := (pieces va n).zipIdx.map fun p =>
            (⟨p.1.1, p.1.2, ofBytes (hostRead s.hostMem (src + (p.1.1 - va)) p.1.2), mapTag map p.2⟩ : ViWrite)
          if ws.any fun w => w.tag = 3 then s.finishReq r hsBadreq
          else s.storeFor .copyin r ws fun s => s.finishReq r hsDone
      | _, _ => s.finishReq r hsBounds

/-- COPYOUT (R432): raw bits, and the tags when a map is wanted. -/
def execCopyout (s : State) : Out :=
  healdGate .copyout s [.queue] fun r s =>
    let v := reqVi r
    let va := (reqWord r 2).toNat
    let n := (reqWord r 4).toNat
    let mapped := reqWord r 5 ≠ noMap
    if !copyShape va n mapped then s.finishReq r hsBadreq
    else match s.hostAt r.pid v (reqWord r 3).toNat n, if mapped then s.hostAt r.pid v (reqWord r 5).toNat ((n / 8 + 3) / 4) else some 0 with
      | some dst, some at_ =>
        match if 2 ^ 53 < va + n then (none, s) else s.viLoad r.pid v (pieces va n) with
        | (none, s) => s.finishReq r hsBounds
        | (some ws, s) =>
          let bs := (ws.zip (pieces va n)).flatMap fun w => bytesOf w.2.2 w.1.1
          let m := hostWrite s.hostMem dst bs
          let m := if mapped then hostWrite m at_ (tagMap (ws.map (·.2))) else m
          ({ s with hostMem := m } : State).finishReq r hsDone
      | _, _ => s.finishReq r hsBounds

/-! ## VICTL (R426, R428, R432) -/

/-- The sum of a quota field over the defined VIs but one. -/
def State.quotaSum (s : State) (pid : Nat) (but : BitVec 6) (hi lo : Nat) : Nat :=
  ((allViids.filter fun v => v ≠ but && s.viDefined pid v).map fun v => fld (s.vi pid v 0) hi lo).sum

/-- R428 for a VI with these quotas. -/
def State.quotaOk (s : State) (pid : Nat) (v : BitVec 6) (rq pq : Nat) : Bool :=
  let n := (s.part pid).dies.length
  s.quotaSum pid v 47 40 + rq ≤ 128 * n && s.quotaSum pid v 23 16 + pq ≤ 64 * n

/-- What an operator's request meets: the gate, then the routine of a service launch for its TYPE, if there is one (R432, R437). -/
def operatorGate (ins : Instr) (s : State) (from_ : List HostVia) (f : HostReq → State → State) : Out :=
  healdGate ins s from_ fun r s => s.byRoutine r (f r)

/-- DEFINE (R426, R432): values in the ranges of R378; GEN stays as earlier resets left it. -/
def execDefine (s : State) : Out :=
  operatorGate .define s [.operator] fun r s =>
    let v := reqVi r
    let w3 := reqWord r 3
    let w4 := reqWord r 4
    let w5 := reqWord r 5
    let w6 := reqWord r 6
    let rq := fld w4 15 8
    let pq := fld w4 39 32
    let dl := fld w4 20 16
    let ev := fld w4 28 24
    if fld (reqWord r 2) 7 0 ≠ 1 || s.viDefined r.pid v then s.finishReq r hsBadreq
    else if w3.toNat % 8192 ≠ 0 || 2 ^ 48 ≤ w3.toNat || 128 < rq || 64 < pq || dl < 3 || 20 < dl || ev < 3 || 16 < ev ||
        w5.toNat % 8 ≠ 0 || 2 ^ 48 ≤ w5.toNat || w6.toNat % 64 ≠ 0 || 2 ^ 48 ≤ w6.toNat then s.finishReq r hsBadreq
    else if !s.quotaOk r.pid v rq pq then s.finishReq r hsQuota
    else
      let w0 := BitVec.ofNat 64 (2 ^ 63 + fld w4 7 0 * 2 ^ 48 + rq * 2 ^ 40 + pq * 2 ^ 16 + s.guestGen r.pid v)
      let ws := [w0, w3, 0, 0, BitVec.ofNat 64 (dl * 2 ^ 59 + w5.toNat), 0, BitVec.ofNat 64 (ev * 2 ^ 59 + w6.toNat)]
      let s := (List.range 16).foldl (fun s k => s.setVi r.pid v k (ws.getD k 0)) s
      s.finishReq r hsDone

/-- WEIGHT (R428, R432): WEIGHT, RQUOTA and PQUOTA alone. -/
def execWeight (s : State) : Out :=
  operatorGate .weight s [.operator] fun r s =>
    let v := reqVi r
    let w4 := reqWord r 4
    let rq := fld w4 15 8
    let pq := fld w4 39 32
    if 128 < rq || 64 < pq then s.finishReq r hsBadreq
    else if !s.quotaOk r.pid v rq pq then s.finishReq r hsQuota
    else
      let w0 := setFld (setFld (setFld (s.vi r.pid v 0) 48 8 (fld w4 7 0)) 40 8 rq) 16 8 pq
      ((s.setVi r.pid v 0 w0).finishReq r hsDone).schedule s.cycle rankUnit .timeSliceEnd (.die r.pid)

/-- Free every reduction of a VI on some dies (R426). -/
def State.freeReductions (s : State) (ds : List Nat) (v : BitVec 6) : State :=
  let mine := fun (m : List (Nat × RedContext)) => m.filter fun x => x.2.viid ≠ v
  { s with
    stations := s.stations.map fun p => if ds.contains (p.1 / 16) then (p.1, { p.2 with ctx := mine p.2.ctx }) else p
    engines := s.engines.map fun p => if ds.contains p.1 then (p.1, { p.2 with ctx := mine p.2.ctx }) else p
    slices := s.slices.map fun p =>
      if ds.contains (p.1 / 64) then (p.1, { p.2 with dir := p.2.dir.filter fun x => x.2.viid ≠ v }) else p }

/-- Heald forgets what it keeps of a VI's queue and contexts. -/
def State.forgetVi (s : State) (pid : Nat) (v : BitVec 6) : State :=
  s.modPart pid fun p =>
    { p with heads := adel p.heads v.toNat, retryAt := adel p.retryAt v.toNat, saved := p.saved.filter fun c => c.1 / 2 ^ 16 ≠ v.toNat }

/-- RESET and UNDEFINE take an Idle VI or one in error (R426); while launches admitted before the error still run, they wait
(assumption log 6, DESIGN CHOICE). -/
def State.whenAtRest (s : State) (ins : Instr) (r : HostReq) (f : State → State) : State :=
  let v := reqVi r
  if s.vst r.pid v ≠ 0 && s.vst r.pid v ≠ 3 then s.finishReq r hsBadreq
  else if (s.part r.pid).running = some v && (s.viCores r.pid v).any (·.2.occupied) then
    s.schedule (s.cycle + 1024) rankUnit ins (.host r)
  else
    let s := if (s.part r.pid).running = some v then s.modPart r.pid fun p => { p with running := none } else s
    (f s).finishReq r hsDone

/-- RESET (R426). -/
def execReset (s : State) : Out :=
  operatorGate .reset s [.operator] fun r s =>
    s.whenAtRest .reset r fun s =>
      let v := reqVi r
      let w0 := setFld (setFld (setFld (setFld (s.vi r.pid v 0) 0 16 (s.guestGen r.pid v + 1)) 61 2 0) 32 8 0) 24 8 0
      let s := (((s.setVi r.pid v 0 w0).setVi r.pid v 3 0).setVi r.pid v 5 0).setVi r.pid v 7 0
      (s.freeReductions (s.part r.pid).dies v).forgetVi r.pid v

/-- UNDEFINE (R426). -/
def execUndefine (s : State) : Out :=
  operatorGate .undefine s [.operator] fun r s =>
    s.whenAtRest .undefine r fun s => (s.setViField r.pid (reqVi r) 0 63 1 0).forgetVi r.pid (reqVi r)

/-- HOSTREG (R432). -/
def execHostreg (s : State) : Out :=
  operatorGate .hostreg s [.operator] fun r s =>
    let k := (reqVi r).toNat
    (s.modPart r.pid fun p =>
      { p with hostReg := aput p.hostReg k (reqWord r 3), hostLen := aput p.hostLen k (reqWord r 4),
               hostKey := aput p.hostKey k (zextN 32 (reqWord r 5)) }).finishReq r hsDone

/-- STORE (R432, R436). -/
def execStore (s : State) : Out :=
  operatorGate .store s [.operator] fun r s =>
    let k := (reqVi r).toNat
    (s.modPart r.pid fun p =>
      { p with winFirst := aput p.winFirst k (reqWord r 3), winCount := aput p.winCount k (reqWord r 4) }).finishReq r hsDone

/-- A cross-device reduction of a VI uses a group. -/
def State.groupUsed (s : State) (ds : List Nat) (v : BitVec 6) (g : Nat) : Bool :=
  ds.any fun d => (s.engine d).ctx.any fun x => x.2.viid = v && x.2.xdev && x.2.group.toNat = g

/-- GROUP (R334, R432): every port engine of the partition holds the list. -/
def execGroup (s : State) : Out :=
  operatorGate .group s [.operator] fun r s =>
    let v := reqVi r
    let g := fld (reqWord r 3) 3 0
    let n := (reqWord r 4).toNat
    let ds := (s.part r.pid).dies
    if 15 < n then s.finishReq r hsBadreq
    else if s.groupUsed ds v g then s.finishReq r hsBusyq
    else match if n = 0 then some 0 else s.hostAt r.pid v (reqWord r 5).toNat (16 * n) with
      | none => s.finishReq r hsBounds
      | some a =>
        let ps := (List.range n).map fun k => BitVec.ofNat 128 (ofBytes (hostRead s.hostMem (a + 16 * k) 16))
        let key := groupKey v g
        let s := ds.foldl
          (fun s d => s.modEngine d fun e => { e with groups := if n = 0 then e.groups.filter (·.1 ≠ key) else aput e.groups key ps }) s
        s.finishReq r hsDone

/-! ## ATTEST (R450, R451) -/

/-- The report of a die (R451): all three registers in one step. -/
def State.report544 (s : State) (die : Nat) (dies : BitVec 4) (nonce : List Byte) : List Byte :=
  let d := s.die die
  let body :=
    bytesOf 8 (1 + dies.toNat * 2 ^ 16) ++ bytesOf 8 (s.cycle % 2 ^ 64) ++ nonce ++
      bigEndian 32 d.m0.toNat ++ bigEndian 32 d.m1.toNat ++ bigEndian 32 d.m2.toNat ++
      bytesOf 8 (d.retiredCores % 512 + d.retiredSlices % 8 * 512) ++ bytesOf 8 0
  body ++ bigEndian 384 (Config.rsaPssSign die body).toNat

/-- ATTEST where the host's nonce and report lie. The certificate of the die's key goes out with the report (R451; assumption log 6,
DESIGN CHOICE, how). -/
def State.attestTo (s : State) (r : HostReq) (nonce report : Option Nat) (finish : State → Word → State) : State :=
  match if (reqWord r 4).toNat < 544 then none else nonce, report with
  | some a, some b =>
    let bs := s.report544 r.pid (dieMask (s.partDies r.pid)) (hostRead s.hostMem a 32)
    finish { s with hostMem := hostWrite s.hostMem b bs, replies := s.replies ++ [UeOut.certificate r.pid (Config.certificate r.pid)] } hsDone
  | _, _ => finish s hsBounds

/-- ATTEST (R451). A die that stays halted answers it alone; it has no Heald and no host region, so the offsets are taken as
they stand (assumption log 6, DESIGN CHOICE). -/
def execAttest (s : State) : Out :=
  match s.arg with
  | .host r =>
    if (s.die r.pid).power = .halted then
      .next (s.attestTo r (some (reqWord r 2).toNat) (some (reqWord r 3).toNat) fun s st =>
        { s with replies := s.replies ++ [UeOut.reply r.pid (reqVi r) st (BitVec.ofNat 64 (fld (reqWord r 0) 31 0))] })
    else
      operatorGate .attest s [.queue, .operator] fun r s =>
        s.attestTo r (s.hostAt r.pid (reqVi r) (reqWord r 2).toNat 32) (s.hostAt r.pid (reqVi r) (reqWord r 3).toNat 544)
          fun s st => s.finishReq r st
  | _ => .next s

/-! ## STORAGE (R436) -/

/-- Transfer blocks in ascending order; an error of the namespace ends it, and the blocks already transferred stand. -/
def State.blocks (s : State) (r : HostReq) (write : Bool) (va lba : Nat) : List Nat → State
  | [] => s.finishReq r hsDone
  | k :: ks =>
    let n := s.freeCtr
    let s := { s with freeCtr := n + 1 }
    let here := va + 4096 * k
    let at_ := (lba + k) * 4096
    if Config.storageError n then s.finishReq r hsStorerr
    else if write then
      match s.viLoad r.pid (reqVi r) (pieces here 4096) with
      | (none, s) => s.finishReq r hsBounds
      | (some ws, s) =>
        (s.writeSpace r.pid at_ (ws.flatMap fun w => bytesOf 8 w.1)).blocks r write va lba ks
    else
      let ws := (pieces here 4096).map fun p => (⟨p.1, p.2, ofBytes (hostRead (s.namespaceOf r.pid) (at_ + (p.1 - here)) p.2), 0⟩ : ViWrite)
      match s.viStore r.pid (reqVi r) ws with
      | (.done, s) => s.blocks r write va lba ks
      | (.busy, s) => s.finishReq r hsTagbusy
      | (.failed, s) => s.finishReq r hsBounds
      | (.full, s) => s.retryRequest .storage r

/-- STORAGE (R436). -/
def execStorage (s : State) : Out :=
  healdGate .storage s [.queue] fun r s =>
    let p := s.part r.pid
    let k := (reqVi r).toNat
    let va := (reqWord r 2).toNat
    let lba := (reqWord r 3).toNat
    let n := (reqWord r 4).toNat
    if va % 4096 ≠ 0 then s.finishReq r hsBadreq
    else if (aget 0 p.winCount k).toNat < lba + n || aget 0 p.winCount k = 0 || 2 ^ 53 < va + 4096 * n then s.finishReq r hsBounds
    else s.blocks r ((reqWord r 5).getLsbD 0) va ((aget 0 p.winFirst k).toNat + lba) (List.range n)

end Sys2Proof.Machine
end

