-- ==== Sys2Proof/Machine/Merge.lean ====
section
/-! DEFINITION. Merging and splitting partitions (25_partitions R420 to R425; 26_program R437 to R441). -/

namespace Sys2Proof.Machine

/-! ## Messages (R439) -/

/-- A merge message's DATA. -/
def mergeData (mkind : Nat) (dies : BitVec 4) (rsvc half bits : Nat) : Word :=
  BitVec.ofNat 64 (mkind * 2 ^ 56 + dies.toNat * 2 ^ 52 + rsvc * 2 ^ 47 + half * 2 ^ 32 + bits % 2 ^ 32)

/-- Heald of a die posts a merge message to a service core; it passes every selvedge (R438, R439). -/
def State.postMerge (s : State) (die : Nat) (dest : UnitId) (data : Word) : State :=
  s.send 0 rankUnit (healdUnit die) dest ⟨true, 0⟩ true 0 ⟨.healdEventRetry, .unitWord dest data⟩ none

/-- A message of a partition's Heald, with replies to itself. -/
def State.tellHeald (s : State) (pid : Nat) (dest : UnitId) (mkind half bits : Nat) : State :=
  s.postMerge pid dest (mergeData mkind (dieMask (s.part pid).dies) (8 * pid) half bits)

/-! ## Checks (R420, R423) -/

/-- A legal merge: two neighbouring single dies, or two legal pairs. -/
def canMerge (a b : List Nat) : Bool :=
  match a, b with
  | [x], [y] => (x + 1) % 4 = y || (y + 1) % 4 = x
  | [x, y], [z, w] => [x, y, z, w].eraseDups.length = 4
  | _, _ => false

/-- A defined VI of the partition has LQWR ≠ LQRD. -/
def State.queuesBusy (s : State) (pid : Nat) : Bool := allViids.any fun v => s.viDefined pid v && s.unserved pid v
/-- The bitmap of the defined VIIDs. -/
def State.definedMap (s : State) (pid : Nat) : BitVec 64 :=
  allViids.foldl (fun m v => if s.viDefined pid v then setBitN m v.toNat true else m) 0

/-- The other partition that a MERGE names (R423, R432): one whose lowest die is above the primary's, since the partition that
takes the request is to remain the primary (R421; assumption log 46, DEDUCED). -/
def State.mergeOther (s : State) (r : HostReq) : Option Nat :=
  let want := bitsBelow 4 (fld (reqWord r 2) 3 0)
  (s.parts.find? fun p => r.pid < p.1 && sortOn id p.2.dies = want && canMerge (s.part r.pid).dies p.2.dies).map (·.1)

/-- Heald goes on after a merge or split: its messages, its scheduler, and the launches that wait. -/
def State.goOn (s : State) (pid : Nat) : State :=
  let s := (s.freeMessages pid).schedule s.cycle rankUnit .timeSliceEnd (.die pid)
  match (s.part pid).running with
  | some v => s.schedule s.cycle rankAssign .launchAdmission (.vi pid v)
  | none => s

/-- A merge is over for the primary: the request completes and all goes on. -/
def State.endMerge (s : State) (r : HostReq) (status : Word) : State :=
  let s := s.modPart r.pid fun p => { p with merge := .idle }
  (s.finishReq r status).goOn r.pid

/-! ## One partition of two (R424, R425, R450) -/

/-- The dies of a partition after its merge with another. -/
def State.joinDies (s : State) (pid : Nat) (more : List Nat) : State :=
  s.modPart pid fun p => { p with dies := sortOn id (p.dies ++ more).eraseDups }

/-- Every port engine of the dies holds the groups of all. -/
def State.shareGroups (s : State) (ds : List Nat) : State :=
  let all := ds.foldl (fun m d => (s.engine d).groups.foldl (fun m g => aput m g.1 g.2) m) []
  ds.foldl (fun s d => s.modEngine d fun e => { e with groups := all }) s

/-- Heald measures the configuration of a partition that it has applied, on each of its dies (R450). -/
def State.measureConfig (s : State) (ds : List Nat) : State :=
  ds.foldl (fun s d => s.modDie d fun x => { x with m1 := extendM x.m1 (Config.configBytes ds) }) s

/-- A map's entries for some VIIDs, by `vi` of a key. -/
def pickVis {α : Type} (vi : Nat → Nat) (vis : BitVec 64) (m : List (Nat × α)) : List (Nat × α) :=
  m.filter fun p => vis.getLsbD (vi p.1)
/-- A map's entries but those. -/
def dropVis {α : Type} (vi : Nat → Nat) (vis : BitVec 64) (m : List (Nat × α)) : List (Nat × α) :=
  m.filter fun p => !vis.getLsbD (vi p.1)
/-- Two maps in one. -/
def joinMaps {α : Type} (m n : List (Nat × α)) : List (Nat × α) := n.foldl (fun m c => aput m c.1 c.2) m

/-- Another partition becomes part of a primary's, once: what its Heald kept of its VIs goes to the primary, but for the storage
windows, which are then empty (R424, R425). What it holds of messages it passes on at DONE. -/
def State.absorb (s : State) (pid other : Nat) : State :=
  let p := s.part other
  if p.dies = [] then s
  else
    let vis := match p.merge with
      | .saved vis => vis
      | _ => 0
    let s := s.joinDies pid p.dies
    let s := s.modPart pid fun q =>
      { q with
        saved := joinMaps q.saved p.saved
        hostReg := joinMaps q.hostReg p.hostReg
        hostLen := joinMaps q.hostLen p.hostLen
        hostKey := joinMaps q.hostKey p.hostKey
        winFirst := dropVis id vis q.winFirst
        winCount := dropVis id vis q.winCount
        repairs := q.repairs ++ p.repairs
        reassign := q.reassign ++ p.reassign }
    let s := s.modPart other fun p => { ({} : Partition) with merge := p.merge, heldReqs := p.heldReqs }
    let ds := (s.part pid).dies
    (s.shareGroups ds).measureConfig ds

/-! ## Service launches (R437) -/

/-- The root of a service launch has ended: once its stores have been applied, the request completes with the word at g0, or BADREQ
when the root ended faulted. A merge that is done has made one partition of two. -/
def State.serviceOver (s : State) (g : GuestSend) : State :=
  match (s.part g.pid).merge with
  | .routine r svc _ _ _ _ =>
    if !(s.core (svcUnit svc)).journal.isEmpty then s.schedule (s.cycle + 1) rankUnit .merge (.guest g)
    else
      let st := if fld g.w1 7 0 = 3 then hsBadreq else (s.imageGet (svcUnit svc) ⟨true, 0⟩ g.w0).getD hsBadreq
      let s := match if st = hsDone && reqType r = 7 then s.mergeOther r else none with
        | some other => s.absorb g.pid other
        | none => s
      s.endMerge r st
  | _ => s

/-! ## The primary (R423) -/

/-- Steps 1 and 2: QUIESCE in two halves, the check of the primary's own queues, and 10,000,000 cycles for the ANSWER. -/
def State.askMerge (s : State) (r : HostReq) (other : Nat) : State :=
  let (stamp, s) := s.fresh
  let m := (s.definedMap r.pid).toNat
  let dest := healdUnit other
  let s := s.modPart r.pid fun p => { p with merge := .asked r other stamp (s.queuesBusy r.pid) }
  ((s.tellHeald r.pid dest 8 0 (m % 2 ^ 32)).tellHeald r.pid dest 8 1 (m / 2 ^ 32)).schedule (s.cycle + 10000000) rankUnit .mergeTimeout
    (.part r.pid stamp)

/-- Heald stops the VI that runs in its partition (R423 step 4): it becomes Paused, unless it is in error (R426). -/
def State.stopRunning (s : State) (pid : Nat) : State :=
  match (s.part pid).running with
  | some v =>
    let s := if (s.part pid).stopping then s else s.agentStop pid v
    if s.vst pid v = 1 then s.setVst pid v 2 else s
  | none => s

/-- ANSWER (R423 steps 2 and 3): the first failure ends the merge with ABORT, its own queues' first; else both stop. -/
def execAnswer (s : State) : Out :=
  match s.arg with
  | .merge m =>
    let pid := s.pidOf m.die
    match (s.part pid).merge with
    | .asked r other _ busy =>
      let st := if busy then hsBusyq else zextN 8 m.data
      if st ≠ hsDone then .next ((s.tellHeald pid (healdUnit other) 12 0 0).endMerge r st)
      else
        let s := (s.stopRunning pid).modPart pid fun p => { p with merge := .stopping r other false }
        .next (s.tellHeald pid (healdUnit other) 10 0 0)
    | _ => .next s
  | _ => .next s

/-- Step 5: IMAP, PASS and DIES of a partition's dies, as Heald sets them by default (R380, R422). -/
def State.openPartition (s : State) (ds : List Nat) : State :=
  let n := ds.length
  let s := s.writeImap ds 256 (if n = 1 then 0 else if n = 2 then 1 else 2)
  let s := (List.range (64 * n)).foldl
    (fun s k => s.writeImap ds k (BitVec.ofNat 64 (ds.getD (k / 64) 0 * 64 + k % 64))) s
  let s := (List.range 4).foldl
    (fun s d =>
      let e := (d + 1) % 4
      if ds.contains d && ds.contains e then (s.modPort (2 * d) fun p => { p with pass := true }).modPort (2 * e + 1) fun p => { p with pass := true }
      else s) s
  ds.foldl (fun s d => s.modEngine d fun e => { e with dies := dieMask ds }) s

/-- Step 6: translation caches emptied, and VTB on the dies of the other partition. -/
def State.takeSlices (s : State) (ds more : List Nat) (vtb : Word) : State :=
  let s := ds.foldl (fun s d => (List.range 64).foldl (fun s k => s.modSlice (64 * d + k) fun x => { x with tcache := [] }) s) s
  more.foldl (fun s d => (List.range 64).foldl (fun s k => s.modSlice (64 * d + k) fun x => { x with vtb := vtb }) s) s

/-- Step 7: the other partition's defined VI entries at the same VIIDs. `from_` and `to` are the two tables. -/
def State.copyEntries (s : State) (vis : List (BitVec 6)) (from_ dest : Nat) : State :=
  vis.foldl
    (fun s v => (List.range 16).foldl
      (fun s k => s.setPhysWord (dest + 128 * v.toNat + 8 * k) (s.physWord (from_ + 128 * v.toNat + 8 * k))) s) s

/-- Steps 5 to 7 (R423, R425), then DONE. -/
def State.joinPartitions (s : State) (r : HostReq) (other : Nat) : State :=
  let pid := r.pid
  let more := (s.part other).dies
  let ds := sortOn id ((s.part pid).dies ++ more)
  let vtb := (s.slice (sliceOfDie pid)).vtb
  let from_ := (s.slice (sliceOfDie other)).vtb.toNat
  let vis := allViids.filter (s.viDefined other)
  let s := ((s.openPartition ds).takeSlices ds more vtb).copyEntries vis from_ vtb.toNat
  let s := s.absorb pid other
  let s := match (s.part pid).running with
    | some v => ((if s.vst pid v = 2 then s.setVst pid v 1 else s).agentGo pid v).modPart pid fun p => { p with stopping := false }
    | none => s
  (s.tellHeald pid (healdUnit other) 13 0 0).endMerge r hsDone

/-! ## A split (R423) -/

/-- The VIIDs that both tables define: what a merge has copied (R423 step 7). -/
def State.sharedVis (s : State) (a b : Nat) : List (BitVec 6) :=
  allViids.filter fun v => (s.tableWord (a + 128 * v.toNat)).getLsbD 63 && (s.tableWord (b + 128 * v.toNat)).getLsbD 63

/-- Where Heald keeps a partition's VI table: 8 KiB of its first stack. -/
def viTableAt (pid : Nat) : Nat := pid * 2 ^ 38 + Config.viTable pid % 2 ^ 20 * 8192

/-- The links between two parts of a partition close (R422). -/
def State.closeLinks (s : State) (ds : List Nat) : State :=
  (List.range 4).foldl
    (fun s d =>
      let e := (d + 1) % 4
      if ds.contains d ≠ ds.contains e then
        (s.modPort (2 * d) fun p => { p with pass := false }).modPort (2 * e + 1) fun p => { p with pass := false }
      else s) s

/-- The steps of a merge in reverse (R423): the VIs whose entries the other table still has go back to it, then the translation
caches and VTB, then IMAP, PASS and DIES. -/
def State.splitOff (s : State) (pid : Nat) (ds : List Nat) : State :=
  let p := s.part pid
  let rest := p.dies.filter (!ds.contains ·)
  let other := ds.headD 0
  let from_ := (s.slice (sliceOfDie pid)).vtb.toNat
  let dest := viTableAt other
  let vis := s.sharedVis from_ dest
  let map := vis.foldl (fun m v => setBitN m v.toNat true) (0 : BitVec 64)
  let s := ((s.openPartition rest).openPartition ds).closeLinks ds
  let s := s.copyEntries vis from_ dest
  let s := vis.foldl (fun s v => s.setPhysWord (from_ + 128 * v.toNat) (s.physWord (from_ + 128 * v.toNat) &&& 0x7FFFFFFFFFFFFFFF)) s
  let s := ((s.takeSlices rest [] 0).takeSlices ds ds (BitVec.ofNat 64 dest)).modPart other fun _ =>
    { dies := ds
      saved := pickVis (· / 2 ^ 16) map p.saved
      hostReg := pickVis id map p.hostReg
      hostLen := pickVis id map p.hostLen
      hostKey := pickVis id map p.hostKey
      reassign := p.reassign.filter fun k => ds.contains (k / 8)
      repairs := p.repairs.filter fun u => ds.contains (unitDie u) }
  let s := s.modPart pid fun p =>
    { p with
      dies := rest, merge := .idle
      saved := dropVis (· / 2 ^ 16) map p.saved
      hostReg := dropVis id map p.hostReg
      hostLen := dropVis id map p.hostLen
      hostKey := dropVis id map p.hostKey
      winFirst := dropVis id map p.winFirst
      winCount := dropVis id map p.winCount
      reassign := p.reassign.filter fun k => !ds.contains (k / 8)
      repairs := p.repairs.filter fun u => !ds.contains (unitDie u) }
  ((s.measureConfig rest).measureConfig ds).goOn pid |>.goOn other

/-- The operator's order to split dies off a partition, which no request of R432 gives (assumption log 45, DESIGN CHOICE): the
same check of its queues as for a merge, the stop of its running VI, and the merge's steps in reverse. -/
def State.split (s : State) (pid : Nat) (dies : BitVec 4) : State :=
  let p := s.part pid
  let ds := bitsBelow 4 dies.toNat
  match p.merge with
  | .splitting _ =>
    if !s.stopDone pid then s.schedule (s.cycle + 64) rankUnit .merge (.split pid dies)
    else
      let s := match p.running with
        | some v => (s.saveVi pid v).drainDirty pid v
        | none => s
      (s.splitOff pid ds).replySend pid 0 hsDone 0
  | .idle =>
    if ds.contains pid || !ds.all p.dies.contains || !canMerge (p.dies.filter (!ds.contains ·)) ds then s.replySend pid 0 hsBadreq 0
    else if s.queuesBusy pid then s.replySend pid 0 hsBusyq 0
    else
      ((s.stopRunning pid).modPart pid fun p => { p with merge := .splitting ds }).schedule (s.cycle + 64) rankUnit .merge (.split pid dies)
  | _ => s.schedule (s.cycle + 1024) rankUnit .merge (.split pid dies)

/-- MERGE (R423, R432, R437): the request, the end of its routine's root, or a split. -/
def execMerge (s : State) : Out :=
  match s.arg with
  | .guest g => .next (s.serviceOver g)
  | .split pid dies => .next (s.split pid dies)
  | _ =>
    healdGate .merge s [.operator] fun r s =>
      match s.mergeOther r with
      | none => s.finishReq r hsBadreq
      | some other => s.byRoutine r fun s => s.askMerge r other

/-- READY (R440): once the primary's own stop is complete too, the merge is carried out. -/
def execReady (s : State) : Out :=
  match s.arg with
  | .merge m =>
    let pid := s.pidOf m.die
    match (s.part pid).merge with
    | .stopping r other _ =>
      if s.stopDone pid then .next (s.joinPartitions r other)
      else
        let s := s.modPart pid fun p => { p with merge := .stopping r other true }
        .next (s.schedule (s.cycle + 64) rankUnit .ready (.merge m))
    | _ => .next s
  | _ => .next s

/-- MERGE_TIMEOUT (R423, R437): no ANSWER within 10,000,000 cycles of the first QUIESCE. -/
def execMergeTimeout (s : State) : Out :=
  match s.arg with
  | .part pid stamp =>
    match (s.part pid).merge with
    | .asked r other st _ =>
      .next (if st = stamp then (s.tellHeald pid (healdUnit other) 12 0 0).endMerge r hsTimeout else s)
    | .routine r svc e st _ answered =>
      if st ≠ stamp || answered then .next s
      else
        let s := s.serveKill (svcUnit svc) e
        let s := match s.mergeOther r with
          | some other => s.tellHeald pid (healdUnit other) 12 0 0
          | none => s
        let s := (s.endMerge r hsTimeout).modPart pid fun p => { p with reassign := svc :: p.reassign }
        .next (s.schedule (s.cycle + 10000000) rankUnit .serviceCoreReassign (.unit (svcUnit svc)))
    | _ => .next s
  | _ => .next s

/-- SERVICE_CORE_REASSIGN (R437): PZERO of the service core, which clears its event area. -/
def execServiceCoreReassign (s : State) : Out :=
  match s.arg with
  | .unit u =>
    let s := (pzeroAt s
      { who := ⟨healdUnit (unitDie u), 64, 0⟩, tid := 0, unit := u, b := BitVec.ofNat 64 u, c := 0x40, d := 0, v := 0, ans := none }).s
    let s := s.modCore u fun c => { c with assigned := false }
    .next (s.modPart (s.pidOf (unitDie u)) fun p => { p with reassign := p.reassign.filter (svcUnit · ≠ u) })
  | _ => .next s

/-! ## The other Heald (R440) -/

/-- A first QUIESCE that names a routine's service core starts its 10,000,000 cycles (R437). -/
def State.noteQuiesce (s : State) (rsvc : Nat) : State :=
  match s.parts.find? fun p => match p.2.merge with
      | .routine _ svc _ _ q _ => svc = rsvc && !q
      | _ => false with
  | none => s
  | some (pid, p) =>
    match p.merge with
    | .routine r svc e st _ a =>
      (s.modPart pid fun p => { p with merge := .routine r svc e st true a }).schedule (s.cycle + 10000000) rankUnit .mergeTimeout
        (.part pid st)
    | _ => s

/-- QUIESCE (R440): the first half holds the messages, the second answers. -/
def execQuiesce (s : State) : Out :=
  match s.arg with
  | .merge m =>
    let pid := s.pidOf m.die
    let rsvc := fld m.data 51 47
    let bits : BitVec 64 := m.data &&& 0xFFFFFFFF#64
    let s := s.noteQuiesce rsvc
    match (s.part pid).merge, m.data.getLsbD 32 with
    | .idle, false => .next (s.modPart pid fun p => { p with merge := .quiesced rsvc bits })
    | .quiesced _ _, false => .next (s.modPart pid fun p => { p with merge := .quiesced rsvc bits })
    | .quiesced _ low, true =>
      let vis := low ||| (bits <<< 32)
      let st := if s.queuesBusy pid then hsBusyq else if s.definedMap pid &&& vis ≠ 0 then hsClash else hsDone
      let s := s.modPart pid fun p => { p with merge := .quiesced rsvc vis }
      .next (s.tellHeald pid (svcUnit rsvc) 9 0 st.toNat)
    | _, _ => .next s
  | _ => .next s

/-- PROCEED (R440): the running VI stops and is saved, then READY. -/
def execProceed (s : State) : Out :=
  match s.arg with
  | .merge m =>
    let pid := s.pidOf m.die
    let p := s.part pid
    let ready := fun (s : State) (rsvc : Nat) =>
      (s.modPart pid fun p => { p with merge := .saved (s.definedMap pid) }).tellHeald pid (svcUnit rsvc) 11 0 0
    match p.merge, p.running with
    | .quiesced rsvc _, none => .next (ready s rsvc)
    | .quiesced rsvc _, some v =>
      let s := if p.stopping then s else s.agentStop pid v
      let s := s.modPart pid fun p => { p with merge := .saving rsvc }
      .next (s.schedule (s.cycle + 20064) rankUnit .proceed (.merge m))
    | .saving rsvc, some v =>
      if s.stopDone pid then .next (ready (s.saveVi pid v) rsvc)
      else .next (s.schedule (s.cycle + 64) rankUnit .proceed (.merge m))
    | _, _ => .next s
  | _ => .next s

/-- ABORT (R440): the held messages are answered, and all goes on. -/
def execAbort (s : State) : Out :=
  match s.arg with
  | .merge m =>
    let pid := s.pidOf m.die
    match (s.part pid).merge with
    | .quiesced _ _ | .saved _ => .next ((s.modPart pid fun p => { p with merge := .idle }).goOn pid)
    | .saving _ =>
      let s := s.modPart pid fun p => { p with merge := .idle, stopping := true, sliceStamp := p.sliceStamp + 1 }
      .next ((s.freeMessages pid).schedule (s.cycle + 64) rankUnit .timeSliceEnd (.part pid (s.part pid).sliceStamp))
    | _ => .next s
  | _ => .next s

/-- A held message with another partition's primary. -/
def retarget (pid : Nat) (e : Ev) : Ev :=
  match e.arg with
  | .host r => ⟨e.ins, .host { r with pid := pid }⟩
  | .guest g => ⟨e.ins, .guest { g with pid := pid }⟩
  | .finish r st => ⟨e.ins, .finish { r with pid := pid } st⟩
  | .vi _ v => ⟨e.ins, .vi pid v⟩
  | _ => e

/-- DONE (R424, R425, R440): the partition's Heald is no longer a primary, and passes its held messages to the one that is. -/
def execDone (s : State) : Out :=
  match s.arg with
  | .merge m =>
    let pid := m.die
    let dest := s.pidOf (fld m.data 51 47 / 8)
    match (s.part pid).merge with
    | .saved _ =>
      if dest = pid then .next s
      else
        let es := (s.part pid).heldReqs
        let s := (s.absorb dest pid).modPart pid fun _ => {}
        .next (es.foldl (fun s e => let e := retarget dest e; s.schedule s.cycle rankUnit e.ins e.arg) s)
    | _ => .next s
  | _ => .next s

end Sys2Proof.Machine
end

