-- ==== Sys2Proof/Machine/Boot.lean ====
section
/-! DEFINITION. Power-on, release, and what Heald does before the first launch (21_tables R382; 25_partitions R420, R422;
27_package R447 to R452). -/

namespace Sys2Proof.Machine

/-! ## Boot images (R447) -/

/-- Bytes of an image. -/
def imageBytes (img : List Byte) (at_ n : Nat) : List Byte := (img.drop at_).take n
/-- Word `k` of the header. -/
def headerWord (img : List Byte) (k : Nat) : Word := BitVec.ofNat 64 (ofBytes (imageBytes img (8 * k) 8))
/-- LEN, ENTRY and SVN. -/
def imageLen (img : List Byte) : Nat := fld (headerWord img 1) 31 0
def imageEntry (img : List Byte) : Nat := fld (headerWord img 2) 19 0
def imageSvn (img : List Byte) : BitVec 16 := (headerWord img 3).extractLsb' 0 16
/-- What the signature covers and M0 measures: header bytes 0x000 to 0x03F, then the body. -/
def imageSigned (img : List Byte) : List Byte := imageBytes img 0 64 ++ imageBytes img 1024 (imageLen img)

/-- An image is valid for a die. -/
def imageValid (die : Nat) (img : List Byte) : Bool :=
  let mod := imageBytes img 0x40 384
  headerWord img 0 = 1 && (List.range 4).all (fun k => headerWord img (4 + k) = 0) &&
    (imageBytes img 0x340 0xC0).all (· = 0) && img.length = 1024 + imageLen img && imageLen img ≤ 0x100000 - 0x1000 &&
    sha256 mod = Config.keyHash die &&
    pssVerify (ofBigEndian mod) (imageSigned img) (ofBigEndian (imageBytes img 0x1C0 384)) &&
    (Config.rollback die).ule (imageSvn img)

/-- The image a die's ROM takes: the valid one with the higher SVN, slot A on a tie (R448 step 2). -/
def chosenImage (die : Nat) : Option (List Byte) :=
  let a := Config.bootImage die 0
  let b := Config.bootImage die 1
  match imageValid die a, imageValid die b with
  | true, true => if (imageSvn a).ult (imageSvn b) then some b else some a
  | true, false => some a
  | false, true => some b
  | false, false => none

/-! ## The boot region (R449) -/

/-- The base of a die's boot region. -/
def bootBase (die : Nat) : Nat := die * 2 ^ 38 + 2 ^ 36 - 2 ^ 26 - 2 ^ 23
/-- The root of its first service page table. -/
def bootRoot (die : Nat) : Nat := bootBase die + 0x100000

/-- A leaf of the service page table: valid, W, X, SYSP (R237). -/
def bootLeaf (pa : Nat) : Word := BitVec.ofNat 64 (pa + 0x8F)
/-- An entry that names a table. -/
def bootTable (pa : Nat) : Word := BitVec.ofNat 64 (pa + 1)

/-- The entries of the first service page table: 8 GiB leaves over HBM, 8 MiB leaves over the control and counter spaces. -/
def bootEntries (die : Nat) : List (Nat × Word) :=
  let root := bootRoot die
  let t := fun (k : Nat) => root + 8192 * k
  [(root, bootTable (t 1)), (root + 8 * 31, bootTable (t 2))] ++
    (List.range 128).map (fun k => (t 1 + 8 * k, bootLeaf (k * 2 ^ 33))) ++
    [(t 2 + 8 * 896, bootTable (t 3)), (t 2 + 8 * 897, bootTable (t 4))] ++
    (List.range 1024).map (fun k => (t 3 + 8 * k, bootLeaf (ctrlBase + k * 2 ^ 23))) ++
    [(t 4, bootLeaf (ctrlBase + 2 ^ 33))]

/-- The IMAP entries that the ROM writes (R449); those above it does not use are 0 (R444). -/
def bootImap (d : Nat) : List (Nat × BitVec 8) := (List.range 256).map fun k => (k, if k < 64 then bootPsid d k else 0)

/-- The ROM of a die runs (R448 steps 1 to 4). A unit that the fused map puts on a spare counts as retired (R382, R451). -/
def State.runRom (s : State) (d : Nat) : State :=
  let seats := (List.range 1024).map fun k => (k, Config.fuseSeat d k % 264)
  let sliceMap := (List.range 64).map fun k => (k, Config.fuseSlice d k % 68)
  let s := s.modDie d fun x =>
    { x with
      power := .rom, seats := seats, sliceMap := sliceMap, nlog := 0, imap := bootImap d
      retiredCores := min 32 (seats.countP fun p => 256 ≤ p.2), retiredSlices := min 4 (sliceMap.countP fun p => 64 ≤ p.2) }
  let s : State := { s with cores := s.cores.map fun p => if unitDie p.1 = d then (p.1, p.2.zeroFill) else p }
  let s := (bootEntries d).foldl (fun s e => s.setPhysWord e.1 e.2) s
  let s := (List.range 64).foldl
    (fun s k => s.modSlice (64 * d + k) fun x =>
      { x with hroot := BitVec.ofNat 64 (bootRoot d), imap := bootImap d }) s
  if !Config.hbmTrains d then s.modDie d fun x => { x with power := .halted }
  else match chosenImage d with
    | none => s.modDie d fun x => { x with power := .halted }
    | some img =>
      let s := s.physWrite (bootBase d) (imageBytes img 0 (1024 + imageLen img))
      let s := s.modDie d fun x => { x with m0 := extendM x.m0 (imageSigned img) }
      s.schedule (s.cycle + min (Config.romTime d) 999999998) rankUnit .computeDieRelease (.die d)

/-- When the last ROM has reported, at most 1 s after power-on (R448 step 5). -/
def releaseTime : Nat := 1 + ((List.range 4).map fun d => min (Config.romTime d) 999999998).foldl max 0

/-- POWER_ON (R448): a die's ROM runs; die 0's also sets the release. -/
def execPowerOn (s : State) : Out :=
  match s.arg with
  | .die d =>
    if (s.die d).power ≠ .off then .next s
    else
      let s := s.runRom d
      .next (if d = 0 then s.schedule (s.cycle + releaseTime) rankAssign .computeDieRelease .none else s)
  | _ => .next s

/-! ## Release (R448 steps 5 and 6) -/

/-- Service core 8·d begins its image: POOLW 0x44, two frames per slot, slot 0 in system mode (assumption log 8, DESIGN CHOICE). -/
def State.startHeald (s : State) (d : Nat) : State :=
  let u := healdUnit d
  let entry := match chosenImage d with
    | some img => imageEntry img
    | none => 0
  let c := (s.core u).divide (poolSize u) 0x44 2
  let c := { c with sysMode := true, assigned := false, halted := false, nlog := 0, imap := (s.die d).imap }
  let x := (c.slot 0).begin s.cycle (.member 0) (BitVec.ofNat 64 (bootBase d + 0x400 + entry)) 0 0 0 0 0 0 0 27
  s.setCore u (c.setSlot 0 x)

/-- The eight shapes of R420: partitions as lists of dies. -/
def shapes : List (List (List Nat)) :=
  [[[0], [1], [2], [3]], [[0, 1], [2], [3]], [[0], [1, 2], [3]], [[0], [1], [2, 3]], [[0, 3], [1], [2]], [[0, 1], [2, 3]],
   [[0, 3], [1, 2]], [[0, 1, 2, 3]]]

/-- The partitions of the dies that run: a group with a die that does not run falls into single dies. -/
def State.bootGroups (s : State) : List (List Nat) :=
  let up := fun (d : Nat) => (s.die d).power = .running
  (shapes.getD (Config.shape % 8) []).flatMap fun g => if g.all up then [g] else (g.filter up).map fun d => [d]

/-- The release: GCYC is 0 on every die, every reporting die runs, and Heald will prepare each partition. -/
def State.release (s : State) : State :=
  let t := s.cycle
  let s : State := { s with
    cycle := 0, cursor := 0, fifo := [], released := true
    agenda := s.agenda.map fun p => { p with due := p.due - t } }
  let ds := (List.range 4).filter fun d => (s.die d).power = .ready
  let s := ds.foldl (fun (s : State) d => (s.modDie d fun x => { x with power := .running }).startHeald d) s
  s.bootGroups.foldl
    (fun (s : State) (g : List Nat) => s.schedule (s.cycle + 1 + Config.healdDelay (g.headD 0)) rankUnit .computeDieRelease (.part (g.headD 0) 0)) s

/-! ## Before the first launch (R452) -/

/-- A service core other than Heald's, divided as Heald's own: it runs in the service space, with no context that PZERO assigned
(R239, R405). -/
def State.prepareService (s : State) (u : UnitId) : State :=
  let d := s.die (unitDie u)
  s.setCore u { (s.core u).divide (poolSize u) 0x44 2 with sysMode := true, assigned := false, halted := false, nlog := d.nlog, imap := d.imap }

/-- Heald prepares its partition, and then serves requests (R452). -/
def State.prepare (s : State) (pid : Nat) : State :=
  match s.bootGroups.find? fun g => g.headD 4 = pid with
  | none => s
  | some ds =>
    if (s.part pid).dies ≠ [] then s
    else
      let s := s.openPartition ds
      let s := ds.foldl
        (fun s d => (List.range 64).foldl
          (fun s k => s.modSlice (64 * d + k) fun x =>
            { x with vtb := BitVec.ofNat 64 (viTableAt pid), w := Config.combiningWindow (64 * d + k), tcache := [] }) s) s
      let s := ds.foldl (fun s d => (List.range 1024).foldl (fun s k => s.prepareCore (1024 * d + k)) s) s
      let s := ds.foldl (fun s d => (List.range 7).foldl (fun s k => s.prepareService (svcUnit (8 * d + 1 + k))) s) s
      let s := s.measureConfig ds
      (s.modPart pid fun p => { p with dies := ds }).freeMessages pid

/-- COMPUTE_DIE_RELEASE (R448, R452): a die's report, the release, and Heald's preparation of a partition. -/
def execComputeDieRelease (s : State) : Out :=
  match s.arg with
  | .die d => .next (if (s.die d).power = .rom then s.modDie d fun x => { x with power := .ready } else s)
  | .none => .next (if s.released then s else s.release)
  | .part pid _ => .next (s.prepare pid)
  | _ => .next s

end Sys2Proof.Machine
end

