-- ==== Sys2Proof/Machine/Control.lean ====
section
/-! DEFINITION. Branches, calls, the jump table, ends and traps (03_lines R77, R78; 05_integer R127 to R136). -/

namespace Sys2Proof.Machine

/-- BACKBRANCH (R78). -/
def backBranch (t : Word) : Stop := .fault { code := 4, addr := t }

/-- BR goes forward only (R78, R127). -/
def execBr (g : Guard) (i : BitVec 27) (s : State) : Out :=
  issue g s fun s => do
    let t := codeTarget s.cur.pc i
    need (s.cur.pc.toNat < t.toNat) (backBranch t)
    .ok (s.jump t)

/-- A call writes the return head to ln, which waits for an outstanding write to ln (R75, R128). -/
def callTo (s : State) (t : Word) : Iss State := do
  s.waitDst 31
  let ret := s.cur.nextPc
  .ok ((s.jump t).writeDst 31 ret)

/-- CALL (R128). -/
def execCall (g : Guard) (i : BitVec 27) (s : State) : Out :=
  issue g s fun s => callTo s (codeTarget s.cur.pc i)

/-- JR (R128). -/
def execJr (g : Guard) (b : Reg) (s : State) : Out :=
  issue g s fun s => do
    s.checkRegs [b] [] false
    let (t, s) ← s.read1 b
    .ok (s.jump t)

/-- CALLR reads its target before it writes ln (R75, R128). -/
def execCallr (g : Guard) (b : Reg) (s : State) : Out :=
  issue g s fun s => do
    s.checkRegs [b] [] false
    let (t, s) ← s.read1 b
    callTo s t

/-- JTAB (R131, R132): an index at or above the length falls through; otherwise the entry is read as LD.w reads. Words of qi
are taken when the JTAB takes effect: a fault leaves them (R7, R394). -/
def execJtab (g : Guard) (b c : Reg) (len : BitVec 16) (s : State) : Out :=
  issue g s fun s => do
    s.checkRegs [b, c] [] false
    let vs ← s.peekSrcs [b, c]
    let i := vs.getD 0 0
    let n := [b, c].count 28
    let take := fun (s : State) => s.takeQi s.curUnit s.curSlot n
    if len.toNat ≤ i.toNat then .ok ((take s).modCur fun x => x.setP 0 false).advance
    else
      let a := vs.getD 1 0 + (i <<< 2)
      let read := fun (s : State) =>
        let (tid, s) := s.fresh
        let s := (s.beginTrip .reply 0).modCur fun x => { x with jtab := some tid, jpop := n }
        s.trackAccess (s.mkAccess tid .jtab a 0 0 0) none
      match targetOf s.curUnit a with
      | none => .error (alignFault a)
      | some t =>
        need (a.toNat % 4 = 0) (alignFault a)
        match t with
        | .own off =>
          s.ownCheck a off 4 false
          match jtabJudge s.cur.pc (BitVec.ofNat 64 (s.curCore.poolRead off 4)) with
          | .error f => .error (.fault f)
          | .ok t => .ok ((take s).modCur fun x => x.jtabJump t)
        | .pool v _ => do
          need (!isService v || s.sysOf s.curUnit) privFault
          .ok (read s)
        | .global _ => .ok (read s)

/-- EXIT waits for pending shareds and empty dependents of unwritten ones, then ends the work (R40, R134). -/
def execExit (g : Guard) (s : State) : Out :=
  issue g s fun s =>
    match s.cur.endWait with
    | some _ => .error (.wait .pass)
    | none => .ok (s.endWork s.curUnit s.curSlot .exit)

/-- NOP (R135). -/
def execNop (g : Guard) (s : State) : Out := issue g s fun s => .ok s.advance

/-- TRAP takes the exact fault TRAP with its code and value (R136). -/
def execTrap (g : Guard) (b : Reg) (code : BitVec 16) (s : State) : Out :=
  issue g s fun s => do
    s.checkRegs [b] [] false
    let (v, _) ← s.read1 b
    .error (.fault { code := 17, ucode := code, val := v })

end Sys2Proof.Machine
end

