-- ==== Sys2Proof/Machine/Family.lean ====
section
/-! DEFINITION. The family instructions (06_family R137 to R153; 02_families R48 to R60). -/

namespace Sys2Proof.Machine

/-! ## FALLOC (R142) -/

/-- The family a FALLOC asks for. -/
def State.fallocSpec (s : State) (x : FallocArgs) (cls : BitVec 2) (rng : Word) (base count : Nat) : FamSpec :=
  { start := rng.setWidth 32, limit := rng.extractLsb' 32 32, args := x, cls := cls, base := base, count := count,
    creator := s.curWho, sys := s.sysOf s.curUnit, defPlace := s.cur.defPlace, root := false }

/-- The place of the family a piece of work belongs to (R58): base and count; none for launch roots. For a folded member, a
handler member or an evaluator, which R58 gives no place, the core that runs it (R140; assumption log 23, DESIGN CHOICE). -/
def State.ownPlace (s : State) : Option (UnitId × Nat) :=
  match s.cur.work with
  | .member q =>
    match afind s.curCore.cq q with
    | some e => if e.root then none else some (e.base, e.count)
    | none => some (s.curUnit, 1)
  | _ => some (s.curUnit, 1)

/-- Cause 8: a bound family's creator is a launch root, or a member of a family whose place shares no core with the
requested one (R58). -/
def State.badCreator (s : State) (base count : Nat) : Bool :=
  match s.ownPlace with
  | none => false
  | some (b, n) => overlap b (b + n - 1) base (base + count - 1)

/-- The checks of R140, causes 1 to 8 in order, and the resolved place. -/
def State.fallocCheck (s : State) (x : FallocArgs) (cls : BitVec 2) (pl rng : Word) : Iss FamSpec := do
  need (x.g.toNat + 2 * x.s.toNat + x.l.toNat ≤ 27) (badFamily 1)
  need (x.step ≠ 0) (badFamily 2)
  need (x.blk ≠ 0 && (!x.chain || x.blk == 1)) (badFamily 3)
  match placeOf s.curUnit s.cur.defPlace pl with
  | none => .error (badFamily 4)
  | some (base, count) =>
    need (s.placeInside (unitDie s.curUnit) base count) (badFamily 5)
    need (!(x.chain && cls == 2) && !(x.unb && cls == 1)) (badFamily 6)
    let spec := s.fallocSpec x cls rng base count
    need (cls ≠ 1 || (specN spec).getD 0 ≤ count * x.blk.toNat) (badFamily 7)
    need (cls ≠ 1 || !s.badCreator base count) (badFamily 8)
    .ok spec

/-- The operands of FALLOC, read and checked. -/
def State.fallocOperands (s : State) (a b c : Reg) (x : FallocArgs) (cls : BitVec 2) : Iss (FamSpec × State) := do
  s.checkRegs [b, c] [a] false
  let (pl, rng, s) ← s.read2 b c
  let spec ← s.fallocCheck x cls pl rng
  s.waitDst a
  .ok (spec, s)

/-- FALLOC.free: attempts 1 to 3 (R48). -/
def execFallocFree (g : Guard) (a b c : Reg) (x : FallocArgs) (s : State) : Out :=
  issue g s fun s => do
    let (spec, s) ← s.fallocOperands a b c x 0
    .ok (s.fallocAsk a spec)

/-- FALLOC.bound: an entry on the lowest core of the place that has one free, then the request (R58, R59, R305). -/
def execFallocBound (g : Guard) (a b c : Reg) (x : FallocArgs) (s : State) : Out :=
  issue g s fun s => do
    let (spec, s) ← s.fallocOperands a b c x 1
    match (List.range spec.count).find? fun k => (s.core (spec.base + k)).freeFam.isSome with
    | none => .error (.wait .boundEntry)
    | some k =>
      let u := spec.base + k
      let e := (s.core u).freeFam.getD 0
      let s := s.modFam u e fun f => f.fresh .queued spec false (s.curUnit, 0) s.cycle
      let gen := (s.fam u e).gen
      let s := s.enqueueBound ⟨⟨u, e, gen⟩, s.cycle, s.curUnit, spec.base, spec.count⟩
      .ok (s.fallocDone s.curUnit s.curSlot a (famHandle u e gen) true)

/-- FALLOC.seq always folds (R51, R56). -/
def execFallocSeq (g : Guard) (a b c : Reg) (x : FallocArgs) (s : State) : Out :=
  issue g s fun s => do
    let (spec, s) ← s.fallocOperands a b c x 2
    .ok (s.fallocFold s.curUnit s.curSlot a spec)

/-! ## Folded handles (R52 to R55, R139, R144 to R149) -/

/-- A folded handle's frame offset, if the handle is well formed and names a live frame of this slot (R137, R139). -/
def State.foldFrame (s : State) (h : Word) : Option Nat :=
  let frame := fld h 28 17 * 256
  if fld h 63 41 = 0 && !h.getLsbD 33 && fld h 31 29 = 0 && fld h 16 12 = 0 && (!h.getLsbD 40 || fld h 11 5 = 0) &&
      handleUnit h = s.curUnit && fld h 39 34 = s.curSlot && frame < s.cur.ffrm.toNat && s.curCore.frameEnd frame ≠ 2 then some frame
  else none

/-- Run the fold loop of a staged frame (R53). -/
def State.foldGo (s : State) (frame : Nat) (body : Word) : State :=
  let u := s.curUnit
  let i := s.curSlot
  let c := s.curCore
  let x := s.cur
  let f : Fold :=
    { frame := frame, eval := false, work := x.work, sgen := x.sgen, ix := x.ix, g := x.g, s := x.s, l := x.l, ord := x.ord,
      prio := x.prio, run := .ready, holds := [], pushed := x.pushed, created := x.created,
      handler := (x.frameInfo.find? (·.frame == frame)).bind (·.handler), mode := x.mode, rkey := x.rkey, defPlace := x.defPlace,
      flt := none, killed := false, dead := false, held := [], eos := x.eos, target := false, branchPc := none,
      replyDest := 0 }
  let ret := x.nextPc
  let c := c.swapWindow i frame
  let w27 := c.frameWord frame 27
  let w27 := setFld (setFld (setFld w27 27 8 x.pred.toNat) 35 7 x.frm.toNat) 42 15 x.sgen.toNat
  let c := ((c.setFrameWord frame 27 w27).setFrameWord frame 28 ret).setFrameWord frame 29 body
  let c := c.setFrameEnd frame 1
  let y := c.slot i
  let s := s.setCore u (c.setSlot i { y with folds := f :: y.folds, pushed := [], created := [] })
  let w31 := (s.core u).frameWord frame 31
  if !w31.getLsbD 52 && fld w31 31 0 = 0 then s.swapBack u i false else s.startFolded u i frame 0

/-- FKILL of a running fold: every fold above it ends first, then its loop swaps back (R54). -/
def State.killFold (s : State) (u : UnitId) (i frame : Nat) : Nat → State
  | 0 => s
  | n + 1 =>
    let x := s.slot u i
    match x.folds with
    | [] => s
    | f :: _ =>
      let s := (s.leaveFamilies u (s.who u i) x.created).freeRecords u x.holds
      let s := s.dropRefusals u (heldFaults x.holds)
      if f.eval then
        let s := match x.work with
          | .evaluator e => s.endNotice (s.who u i) e
          | _ => s
        (s.swapBackEval u i).killFold u i frame n
      else
        let s := s.modSlot u i fun x => { x with folds := x.folds.modify 0 fun f => { f with killed := true } }
        let s := s.swapBack u i false
        if f.frame = frame then s else s.killFold u i frame n


/-- FLT index of a frame's fold, for the status word (R45, R54). -/
def State.foldStatus (s : State) (frame : Nat) : Word :=
  let c := s.curCore
  let code := c.frameEnd frame - 4
  let ord := fld (c.frameWord frame 30) 63 32
  let start := BitVec.ofNat 32 (fld (c.frameWord frame 30) 31 0)
  let step := BitVec.ofNat 8 (fld (c.frameWord frame 31) 40 33)
  let flt := ((s.cur.frameInfo.find? (·.frame == frame)).bind (·.flt)).getD 0
  let ix : BitVec 32 := if code = 3 then flt else if code = 1 then (ixOf start step ord).setWidth 32 else 0
  ix ++ BitVec.ofNat 32 code

/-- The status word that FSYNC reads of a frame (R53, R146). While the fold runs, which only work inside it can ask, the
word is free: the spec has the answer come at once and gives no running status (assumption log 1, DESIGN CHOICE). -/
def State.foldSync (s : State) (frame : Nat) : Word × State :=
  if s.curCore.frameEnd frame < 4 then
    (Config.runningStatus s.freeCtr, { s with freeCtr := s.freeCtr + 1 })
  else (s.foldStatus frame, s)

/-- A handle instruction on a folded handle completes at once, except FGO (R53, R144 to R149). -/
def State.foldOp (s : State) (h : Word) (op : HandleOp) (a : Reg) : Iss State :=
  match s.foldFrame h with
  | none => .error (.fault { code := 7, addr := h })
  | some frame =>
    let u := s.curUnit
    let i := s.curSlot
    let c := s.curCore
    let w31 := c.frameWord frame 31
    let g := fld w31 43 41
    let sh := fld w31 46 44
    let st := c.frameEnd frame
    let put := fun (c : Core) => Except.ok (s.setCore u c).advance
    match op with
    | .fsetg k v =>
      if g ≤ k then .error (badFamily 9) else if st ≠ 0 then .error (badFamily 10) else put (c.setFrameWord frame k v)
    | .fsets k v =>
      if sh ≤ k then .error (badFamily 9)
      else if st ≠ 0 then .error (badFamily 10)
      else
        let w := g + sh + k
        let w27 := c.frameWord frame 27
        put ((c.setFrameWord frame w v).setFrameWord frame 27 (setFld w27 w 1 1))
    | .fhand b =>
      if st ≠ 0 then .error (badFamily 10)
      else .ok (s.modCur fun x =>
        { x with frameInfo := ⟨frame, some b, none⟩ :: x.frameInfo.filter (·.frame ≠ frame) }).advance
    | .fgo b _ _ =>
      if st ≠ 0 then .error (badFamily 10)
      else if s.cur.pend ≠ 0 then .error (.wait .allPend)
      else
        let info := (s.cur.frameInfo.find? (·.frame == frame)).getD ⟨frame, none, none⟩
        let s := s.modCur fun x => { x with frameInfo := info :: x.frameInfo.filter (·.frame ≠ frame) }
        .ok (s.foldGo frame b)
    | .fsync =>
      if st = 0 then .error (badFamily 10)
      else
        let (v, s) := s.foldSync frame
        .ok (s.writeDst a v).advance
    | .fgets k =>
      if sh ≤ k then .error (badFamily 9)
      else if st = 0 then .error (badFamily 10)
      else .ok (s.writeDst a (if st = 6 || st = 7 then 0 else c.frameWord frame (g + sh + k))).advance
    | .fkill =>
      if st = 0 then put (c.setFrameEnd frame 6)
      else if st = 1 then .ok (s.killFold u i frame (s.cur.folds.length))
      else .ok s.advance
    | .frel =>
      let c := c.setFrameEnd frame 2
      put (c.lowerFrames i (1 + (c.slot i).pushed.length + ((c.slot i).folds.map fun f => f.pushed.length).sum))
    | _ => .ok s.advance

/-! ## Handle instructions (R139) -/

/-- A handle instruction after its operands are read: at its own core at once, else a round trip (R139). -/
def State.handleOp (s : State) (h : Word) (op : HandleOp) (a : Reg) (form : Bool) : Iss State := do
  let u := s.curUnit
  let i := s.curSlot
  let owner := handleUnit h
  let stale : Stop := .fault { code := 7, addr := h }
  need (form && s.inPart (unitDie u) owner) stale

  if owner = u then
    let w := s.curWho
    match s.serveHandle u w op h with
    | (some (.ok v), t) =>
      if (t.slot u i).seat w.sgen = .occupant then .ok ((t.writeDstAt u i a v).advanceAt u i) else .ok t
    | (some (.stale _), _) => .error stale
    | (some (.bad c), _) => .error (badFamily c)
    | (none, t) => .ok (t.beginTrip .reply a)
  else
    let w := s.curWho
    .ok ((s.beginTrip .reply a).send 0 rankReply u owner (s.spaceOf u) false 0 ⟨.handleReply, .handle (.serve owner w op h)⟩
      (some ⟨.handleReply, .handle (.answer w (.stale h))⟩))

/-- A family-handle instruction on a handle of either form. -/
def State.familyOp (s : State) (h : Word) (op : HandleOp) (a : Reg) : Iss State :=
  if h.getLsbD 32 && !h.getLsbD 33 then s.foldOp h op a else s.handleOp h op a (handleParts h).isSome

/-- FSETG (R144). -/
def execFsetg (g : Guard) (a b : Reg) (k : BitVec 3) (s : State) : Out :=
  issue g s fun s => do
    s.checkRegs [a, b] [] false
    let (h, v, s) ← s.read2 a b
    s.familyOp h (.fsetg k.toNat v) 0

/-- FSETS (R144). -/
def execFsets (g : Guard) (a b : Reg) (k : BitVec 3) (s : State) : Out :=
  issue g s fun s => do
    s.checkRegs [a, b] [] false
    let (h, v, s) ← s.read2 a b
    s.familyOp h (.fsets k.toNat v) 0

/-- FHAND (R144). -/
def execFhand (g : Guard) (a : Reg) (i : BitVec 27) (s : State) : Out :=
  issue g s fun s => do
    s.checkRegs [a] [] false
    let (h, s) ← s.read1 a
    s.familyOp h (.fhand (codeTarget s.cur.pc i)) 0

/-- FGO carries the creator's rounding mode and RKEY (R24, R145). -/
def execFgo (g : Guard) (a : Reg) (i : BitVec 27) (s : State) : Out :=
  issue g s fun s => do
    s.checkRegs [a] [] false
    let (h, s) ← s.read1 a
    s.familyOp h (.fgo (codeTarget s.cur.pc i) s.cur.mode s.cur.rkey) 0

/-- FSYNC (R146). -/
def execFsync (g : Guard) (a b : Reg) (s : State) : Out :=
  issue g s fun s => do
    s.checkRegs [b] [a] false
    let (h, s) ← s.read1 b
    s.waitDst a
    s.familyOp h .fsync a

/-- FGETS (R146). -/
def execFgets (g : Guard) (a b : Reg) (k : BitVec 3) (s : State) : Out :=
  issue g s fun s => do
    s.checkRegs [b] [a] false
    let (h, s) ← s.read1 b
    s.waitDst a
    s.familyOp h (.fgets k.toNat) a

/-- FBRK breaks its member's family and ends the member with pass-through. Where the end must wait for that, the break is told
already, and FBRK suspends and issues again with its guard once it need not wait (R42, R148, R188, R307, R310). -/
def execFbrk (g : Guard) (s : State) : Out :=
  issue g s fun s =>
    let wait := s.cur.endWait
    let s := s.tellBreak s.curUnit s.curSlot
    match wait with
    | some _ => .ok (s.suspendCur .pass)
    | none => .ok (s.endWork s.curUnit s.curSlot .brk)

/-- FKILL (R149). -/
def execFkill (g : Guard) (b : Reg) (s : State) : Out :=
  issue g s fun s => do
    s.checkRegs [b] [] false
    let (h, s) ← s.read1 b
    s.familyOp h .fkill 0

/-- FREL (R147). -/
def execFrel (g : Guard) (b : Reg) (s : State) : Out :=
  issue g s fun s => do
    s.checkRegs [b] [] false
    let (h, s) ← s.read1 b
    s.familyOp h .frel 0

/-- FSELF (R150). -/
def execFself (g : Guard) (a : Reg) (s : State) : Out :=
  issue g s fun s => do
    s.checkRegs [] [a] false
    s.waitDst a
    .ok (s.writeDst a (s.memberHandle s.curUnit s.curSlot)).advance

/-- The issuer is a member of a bound family (R60, R151). -/
def State.inBound (s : State) : Bool :=
  match s.cur.work with
  | .member q => match afind s.curCore.cq q with
    | some e => e.bound
    | none => false
  | _ => false

/-- FBAR waits for the member's posted stores at its scope, then for its round (R151). -/
def execFbar (g : Guard) (die : Bool) (s : State) : Out :=
  issue g s fun s => do
    need s.inBound (.fault { code := 9 })
    .ok (s.beginFence ⟨3, if die then .die else .core, false, none, none⟩)

/-- FRSM on a member handle (R153). -/
def frsmOp (op : BitVec 2) (b : Reg) (s : State) : Iss State := do
  s.checkRegs [b] [] false
  let (h, s) ← s.read1 b
  s.handleOp h (.frsm op) 0 (memberForm h)

/-- FRSM.retry (R153). -/
def execFrsmRetry (g : Guard) (b : Reg) (s : State) : Out := issue g s (frsmOp 0 b)
/-- FRSM.skip (R153). -/
def execFrsmSkip (g : Guard) (b : Reg) (s : State) : Out := issue g s (frsmOp 1 b)
/-- FRSM.kill (R153). -/
def execFrsmKill (g : Guard) (b : Reg) (s : State) : Out := issue g s (frsmOp 2 b)

end Sys2Proof.Machine
end

