-- ==== Sys2Proof/Machine/FamilyEvents.lean ====
section
/-! DEFINITION. The steps by which work starts, lands, is told and ends (02_families R38, R46; 04_register R104;
06_family R139, R148, R152; 17_rotation R305, R306; 21_tables R370; 23_traps R394). A step whose argument is another
step's does nothing. -/

namespace Sys2Proof.Machine

/-- SLOT_ASSIGNMENT (R306). -/
def execSlotAssignment (s : State) : Out :=
  match s.arg with
  | .slot u i => .next (s.assign u i)
  | _ => .next s

/-- HANDLER_MEMBER_START (R152): the first waiting handler member takes a Free slot, the slot named or another. -/
def execHandlerMemberStart (s : State) : Out :=
  match s.arg with
  | .slot u i =>
    let c := s.core u
    let x := c.slot i
    match c.hq, if x.work = .none && x.anchor.isNone then some i else c.firstFree with
    | h :: hs, some i => .next ((s.setCore u { c with hq := hs }).startHandler u i h)
    | _, _ => .next s
  | _ => .next s

/-- ASYNC_FAULT_DELIVERY (R200, R394). -/
def execAsyncFaultDelivery (s : State) : Out :=
  match s.arg with
  | .slot u i => .next (s.deliverKept u i)
  | _ => .next s

/-- FORWARDED_SHARED_ARRIVAL (R38). -/
def execForwardedSharedArrival (s : State) : Out :=
  match s.arg with
  | .forward f => .next (s.arriveForward f)
  | .slot u i => .next (s.resumeEnding u i)
  | _ => .next s

/-- FAMILY_END (R46). -/
def execFamilyEnd (s : State) : Out :=
  match s.arg with
  | .entry u e => .next (s.endFamily u e)
  | _ => .next s

/-- KILL_ARRIVAL (R148): the members go, and the owning core hears that they have. -/
def execKillArrival (s : State) : Out :=
  match s.arg with
  | .kill k => .next ((s.killLocal k).report k.unit k.fam (.killDone k.unit))
  | _ => .next s

/-- BREAK_KILL_FAULT_REPORT (R370). -/
def execBreakKillFaultReport (s : State) : Out :=
  match s.arg with
  | .report r => .next (s.applyReport r)
  | _ => .next s

/-- RESERVATION_REPLY (R48, R49): the traffic of reservations, starts and releases. -/
def execReservationReply (s : State) : Out :=
  match s.arg with
  | .reserve (.ask u id sender x) =>
    let (refused, e, s) := s.reserveAt u id sender false x
    .next (s.send 6 rankReply u sender (s.spaceOf u) false 0 ⟨.reservationReply, .reserve (.answer sender id u (!refused) e)⟩ none)
  | .reserve (.answer u id src anchor e) => .next (s.fallocAnswer u id src anchor e)
  | .reserve (.settle u id sender fam) => .next (s.settleAt u id sender fam)
  | .reserve (.start u id sender fam x) => .next (s.startAt u id sender fam x)
  | .reserve (.release u id sender fam) => .next (s.releaseAt u fam sender id)
  | _ => .next s

/-- HANDLE_REPLY (R139): the request at its owning core, and its reply at the issuer. -/
def execHandleReply (s : State) : Out :=
  match s.arg with
  | .handle (.serve u w op h) =>
    match s.serveHandle u w op h with
    | (some r, s) => .next (s.answer u w r)
    | (none, s) => .next s
  | .handle (.answer w r) => .next (s.finishHandle w r)
  | _ => .next s

/-- BOUND_GRANT (R59). -/
def execBoundGrant (s : State) : Out :=
  match s.arg with
  | .bound b => .next (s.grantBound b)
  | _ => .next s

/-- BOUND_ENQUEUE_RETRY (R305): with the original stamp, while the entry is still Queued. -/
def execBoundEnqueueRetry (s : State) : Out :=
  match s.arg with
  | .bound b =>
    let f := s.fam b.fam.owner b.fam.entry
    .next (if f.st == .queued && f.gen == b.fam.gen then s.enqueueBound b else s)
  | _ => .next s

end Sys2Proof.Machine
end

