-- ==== Sys2Proof/Machine/Float.lean ====
section
/-! DEFINITION. Scalar floating point, conversion and random numbers (07_number_formats R165 to R174). -/

namespace Sys2Proof.Machine

/-- A result with flags, completing in rotation (R159). -/
def State.writeFp (s : State) (a : Reg) (r : Word × FpFlags) : State :=
  ((s.modCur fun x => x.orFlags r.2).writeDst a r.1).advance

/-- A two-operand form (R165). -/
def fpOp2 (s : State) (d : Bool) (a b c : Reg) (f : FpFmt → RMode → Word → Word → Word × FpFlags) : Iss State := do
  s.checkRegs [b, c] [a] false
  let (x, y, s) ← s.read2 b c
  s.waitDst a
  .ok (s.writeFp a (f (fpOf d) s.cur.mode x y))

/-- A one-operand form (R165). -/
def fpOp1 (s : State) (d : Bool) (a b : Reg) (f : FpFmt → RMode → Word → Word × FpFlags) : Iss State := do
  s.checkRegs [b] [a] false
  let (x, s) ← s.read1 b
  s.waitDst a
  .ok (s.writeFp a (f (fpOf d) s.cur.mode x))

/-- Take the FP64 divide unit for `n` cycles; a busy unit suspends the issuer (R166, R301). -/
def fp64Unit (s : State) (n : Nat) (a : Reg) (r : Word × FpFlags) : Iss State := do
  s.waitDst a
  need (s.curCore.fpFree ≤ s.cycle) (.wait (.busy s.curCore.fpFree))
  let s := s.modCurCore fun c => { c with fpFree := s.cycle + n }
  .ok (s.landLater (s.cycle + n) a none r.1 0 r.2).advance

/-- FADD (R165). -/
def execFadd (g : Guard) (d : Bool) (a b c : Reg) (s : State) : Out := issue g s fun s => fpOp2 s d a b c FpFmt.add
/-- FSUB (R165). -/
def execFsub (g : Guard) (d : Bool) (a b c : Reg) (s : State) : Out := issue g s fun s => fpOp2 s d a b c FpFmt.sub
/-- FMUL (R165). -/
def execFmul (g : Guard) (d : Bool) (a b c : Reg) (s : State) : Out := issue g s fun s => fpOp2 s d a b c FpFmt.mul

/-- FDIV; FDIV.d lands 24 cycles after the unit takes it up (R165, R166). -/
def execFdiv (g : Guard) (d : Bool) (a b c : Reg) (s : State) : Out :=
  issue g s fun s =>
    if d then do
      s.checkRegs [b, c] [a] true
      let (x, y, s) ← s.read2 b c
      fp64Unit s 24 a (FpFmt.div (fpOf true) s.cur.mode x y)
    else fpOp2 s false a b c FpFmt.div

/-- FSQRT; FSQRT.d lands after 32 cycles (R165, R166). -/
def execFsqrt (g : Guard) (d : Bool) (a b : Reg) (s : State) : Out :=
  issue g s fun s =>
    if d then do
      s.checkRegs [b] [a] true
      let (x, s) ← s.read1 b
      fp64Unit s 32 a (FpFmt.sqrt (fpOf true) s.cur.mode x)
    else fpOp1 s false a b FpFmt.sqrt

/-- FMIN (R166). -/
def execFmin (g : Guard) (d : Bool) (a b c : Reg) (s : State) : Out :=
  issue g s fun s => fpOp2 s d a b c fun f _ x y => f.minMax false x y
/-- FMAX (R166). -/
def execFmax (g : Guard) (d : Bool) (a b c : Reg) (s : State) : Out :=
  issue g s fun s => fpOp2 s d a b c fun f _ x y => f.minMax true x y
/-- FABS (R166). -/
def execFabs (g : Guard) (d : Bool) (a b : Reg) (s : State) : Out :=
  issue g s fun s => fpOp1 s d a b fun f _ x => (f.signOp false x, 0)
/-- FNEG (R166). -/
def execFneg (g : Guard) (d : Bool) (a b : Reg) (s : State) : Out :=
  issue g s fun s => fpOp1 s d a b fun f _ x => (f.signOp true x, 0)

/-- FMA: A is the addend and the destination; qi, qo and ix are SPR (R166). -/
def execFma (g : Guard) (d : Bool) (a b c : Reg) (s : State) : Out :=
  issue g s fun s => do
    s.checkRegs [b, c, a] [a] false
    let (x, y, z, s) ← s.read3 b c a
    s.waitDst a
    .ok (s.writeFp a ((fpOf d).fma s.cur.mode x y z))

/-- FCLASS (R167). -/
def execFclass (g : Guard) (d : Bool) (a b : Reg) (s : State) : Out :=
  issue g s fun s => fpOp1 s d a b fun f _ x => (BitVec.ofNat 64 (2 ^ f.classOf x), 0)

/-- FCMP (R168). -/
def execFcmp (g : Guard) (cond : FCond) (d : Bool) (p : Pred) (b c : Reg) (s : State) : Out :=
  issue g s fun s => do
    s.checkRegs [b, c] [] false
    let (x, y, s) ← s.read2 b c
    let (r, fl) := (fpOf d).cmp cond x y
    .ok (s.modCur fun z => (z.orFlags fl).setP p r).advance

/-- The formats' context of a core (R109). -/
def Core.fmtCtx (c : Core) : FmtCtx := ⟨c.lxm, c.cbk0, c.cbk1⟩

/-- CVT (R169 to R171). -/
def execCvt (g : Guard) (dst src : Fmt) (a b : Reg) (sh : BitVec 8) (s : State) : Out :=
  issue g s fun s => do
    s.checkRegs [b] [a] false
    let (x, s) ← s.read1 b
    s.waitDst a
    .ok (s.writeFp a (convert s.curCore.fmtCtx dst src s.cur.mode sh.toInt x))

/-- FRND (R172). -/
def execFrnd (g : Guard) (mode : BitVec 2) (d : Bool) (a b : Reg) (s : State) : Out :=
  issue g s fun s => fpOp1 s d a b fun f _ x => f.toIntegral mode x

/-- RNGP: both destinations land together 12 cycles after issue (R173). -/
def execRngp (g : Guard) (a b c d : Reg) (s : State) : Out :=
  issue g s fun s => do
    s.checkRegs [c, d] [a, b] true
    let (x, y, s) ← s.read2 c d
    s.waitDst a
    s.waitDst b
    let (v0, v1) := philox s.cur.rkey x y
    let due := s.cycle + 12
    .ok (if a = b then s.landLater due b none v1 0 0 else s.landLater due a (some b) v0 v1 0).advance

/-- RNGF (R174). -/
def execRngf (g : Guard) (a b : Reg) (s : State) : Out :=
  issue g s fun s => do
    s.checkRegs [b] [a] false
    let (x, s) ← s.read1 b
    s.waitDst a
    .ok (s.writeDst a (uniforms x)).advance

end Sys2Proof.Machine
end

