-- ==== Sys2Proof/Machine/Rotation.lean ====
section
/-! DEFINITION. Which step comes next: the first due entry of the agenda, else the next core's issue of this cycle by
the rotation, else the next cycle (17_rotation R309 to R311; 22_counters R388, R391). -/

namespace Sys2Proof.Machine

/-- The first agenda entry, when it is due (R311). -/
def State.due (s : State) : Option Pending :=
  match firstPending s.agenda with
  | some p => if p.due ≤ s.cycle then some p else none
  | none => none

/-- The state with an agenda entry taken for its step. -/
def State.take (s : State) (p : Pending) : State :=
  let s := { s with agenda := s.agenda.filter (·.seq ≠ p.seq), arg := p.ev.arg }
  if p.packet then s.countEnd p.dst false (flitsOf p.ev) else s

/-- The core issues: released, in service, not stopped, its pool not being cleared (R198, R405, R411). -/
def State.issues (s : State) (c : Core) : Bool :=
  s.released && !c.halted && !c.stopped && !c.retired && c.zeroFillUntil ≤ s.cycle

/-- The slot is in its phase's ready list for this cycle (R307, R309, R311). -/
def Slot.eligible (x : Slot) (now : Nat) : Bool :=
  x.work ≠ .none && x.run == .ready && x.holds.isEmpty && x.readyAt ≤ now

/-- The slots of the current phase that may issue, ascending (R309). -/
def State.readySlots (s : State) (c : Core) : List Nat :=
  (List.range c.nslots).filter fun i => i % 8 == s.cycle % 8 && (c.slot i).eligible s.cycle

/-- The key of the round robin of a phase and priority. -/
def rrKey (phase : Nat) (prio : BitVec 2) : Nat := phase * 4 + prio.toNat

/-- The choice of R309 among ready slots: the highest aging counter of at least 2,048, else the highest priority in
round robin. -/
def State.choose (s : State) (c : Core) (ready : List Nat) : Option Nat :=
  match ready with
  | [] => none
  | r :: rs =>
    let old := rs.foldl (fun b i => if (c.slot b).aging.toNat < (c.slot i).aging.toNat then i else b) r
    if 2048 ≤ (c.slot old).aging.toNat then some old
    else
      let top := rs.foldl (fun m i => max m (c.slot i).prio.toNat) (c.slot r).prio.toNat
      let same := ready.filter fun i => (c.slot i).prio.toNat == top
      let last := aget 0 c.rr (rrKey (s.cycle % 8) (BitVec.ofNat 2 top))
      match same.find? fun i => last ≤ i with
      | some i => some i
      | none => same.head?

/-- The next core, from the cursor on, that has a slot to issue in this cycle. -/
def State.pickFrom (s : State) : List (Nat × Core) → Option (UnitId × Nat)
  | [] => none
  | (u, c) :: cs =>
    if s.cursor ≤ u && s.issues c then
      match s.choose c (s.readySlots c) with
      | some i => some (u, i)
      | none => s.pickFrom cs
    else s.pickFrom cs

/-- The issue that comes next in this cycle. -/
def State.pick (s : State) : Option (UnitId × Nat) := s.pickFrom s.cores

/-- The state in which a slot issues; `used` says that its core's cycle is used up by it. -/
def State.atSlot (s : State) (u : UnitId) (i : Nat) (used : Bool) (a : Arg) : State :=
  { s with curUnit := u, curSlot := i, cursor := if used then u + 1 else u, arg := a }

/-- The counts of an issue (R309, R310, R388, R391). -/
def State.countIssue (s : State) (u : UnitId) (i : Nat) : State :=
  let c := s.core u
  let slots := c.slots.map fun p =>
    if p.1 = i then (p.1, { p.2 with aging := 0 })
    else if p.2.work ≠ .none && p.2.run == .ready && p.2.holds.isEmpty && p.2.readyAt ≤ s.cycle && p.2.aging ≠ 4095 then
      (p.1, { p.2 with aging := p.2.aging + 1 })
    else p
  let prio := (c.slot i).prio
  s.setCore u { c with slots := slots, rr := aset 0 c.rr (rrKey (s.cycle % 8) prio) (i + 1), issuedAt := some s.cycle, perf := bumpPerf c.perf 0 1 }

/-- What a chosen slot does: deliver a kept fault, fetch its line, judge a PC that is no head of the line it holds, issue
again the instruction it has begun, or issue the head at its PC. -/
inductive Turn
  | deliver
  | fetch
  | judge
  | illegal (e : Ill)
  | again (g : Guard)
  | issue (i : Instr)
deriving DecidableEq, Repr

/-- The turn of a slot (R72, R73, R79, R82, R310, R394). -/
def Slot.turn (x : Slot) : Turn :=
  if x.nextAsync.isSome then .deliver
  else match x.line with
    | some (a, line) =>
      if a ≠ lineOf x.pc then .fetch
      else if x.pc.getLsbD 0 || lineHeads line ≤ headOf x.pc then .judge
      else match decodeLine line (headOf x.pc) with
        | .ok i => if x.trip = .none then .issue i else .again (headG (lineHalf line (headOf x.pc)))
        | .error e => .illegal e
    | none => .fetch

/-- The head at a slot's PC has a matrix opcode: MZERO, MMAC, MXF, MLDA or MSTA (R215). -/
def Slot.matrixHead (x : Slot) : Bool :=
  match x.line with
  | some (_, line) => [0x78, 0x79, 0x7A, 0x7B, 0x7C].contains (headOp (lineHalf line (headOf x.pc))).toNat
  | none => false

/-- ILLEGAL of an encoding: the lowest sub-code that applies. A matrix opcode on a service core is OPC (R82, R83 step 1,
R215). -/
def State.illegal (s : State) (e : Ill) : State :=
  s.exactFault { code := 1, sub := if isService s.curUnit && s.cur.matrixHead then 1 else e.code }

/-- The agenda empty, the module released and one member alone on compute core 0, ready to issue the instruction `w`
from the line its slot holds; its window is 27 locals (assumption log 8, DESIGN CHOICE). -/
def State.withWord (s : State) (nbits w : Nat) : State :=
  let slot : Slot :=
    { work := .member 0, l := 27, sgen := 1, scnt := 1, bobRm := 0x17000, bobLim := 0x17200, ffrm := 0x17000, fflim := 0x17200,
      line := some (0, mkLine (tableWords nbits w)) }
  let e : CqEntry :=
    { fam := ⟨0, 0, 1⟩, g := 0, s := 0, l := 27, prio := 0, blk := 1, step := 1, start := 0, n := some 1, base := 0, count := 1,
      chain := false, bound := false, started := true, body := 0, handler := none, mode := 0, rkey := 0, glob := [], inis := [],
      next := 1, resident := 1, fwd := [], anchors := [], stop := none, seq := 0, defPlace := 0, root := true }
  { s with
    released := true, agenda := [], cycle := 0, cursor := 0
    cores := aput s.cores 0
      { s.core 0 with halted := false, stopped := false, retired := false, zeroFillUntil := 0, poolw := 0x44,
                      slots := [(0, slot)], cq := [(0, e)] } }

end Sys2Proof.Machine
end

