-- ==== Sys2Proof/Machine/Hardware.lean ====
section
/-! DEFINITION. The clock, power, and errors of the hardware (18_rings R339; 22_counters R384, R388, R391;
23_traps R396, R397, R413, R414; 27_package R446). -/

namespace Sys2Proof.Machine

/-! ## GCYC (R384) -/

/-- EVAGE of a slot after one more cycle (R388). -/
def Slot.aged (x : Slot) : Slot := if x.evc = 0 then x else { x with evage := satInc x.evage }

/-- What a core counts of a cycle (R388, R391). -/
def State.countCycle (s : State) (c : Core) : Core :=
  let c := if c.stopped then c else { c with slots := c.slots.map fun p => (p.1, p.2.aged) }
  if !s.issues c then c
  else
    let idle := c.issuedAt ≠ some s.cycle && (s.readySlots c).isEmpty
    let full := c.slots.any fun p => p.2.run == .wait .journal
    let perf := if idle then bumpPerf c.perf 8 1 else c.perf
    { c with perf := if full then bumpPerf perf 0x18 1 else perf }

/-- The stations that tap a degraded ring pair or spine count the cycle (R391). -/
def State.countDegraded (s : State) : State :=
  let ks := (s.degraded.filter fun p => p.2 = 1).flatMap fun p =>
    if p.1 < 32 then (List.range 4).map fun k => p.1 / 8 * 16 + p.1 % 8 / 2 * 4 + k else (List.range 16).map fun k => (p.1 - 32) * 16 + k
  ks.eraseDups.foldl (fun s k => s.modStation k fun x => { x with perf := bumpPerf x.perf 0x38 1 }) s

/-- The tests that fall due at a cycle: the watchdogs' (R274) and the power controllers' (R446). -/
def State.periodic (s : State) : State :=
  let s := if s.cycle % 4096 ≠ 0 then s
    else (s.cores.filter fun p => p.2.slots.any fun x => x.2.evc ≠ 0).foldl
      (fun s p => s.schedule s.cycle rankUnit .watchdogTest (.unit p.1)) s
  if s.cycle % 10000 ≠ 0 then s
  else ((List.range 4).filter fun d => (s.die d).power = .running).foldl
    (fun s d =>
      let (hi, lo, hot, cool) := Config.powerReading d (s.cycle / 10000)
      s.schedule s.cycle rankUnit .throttleUpdate (.power d ⟨hi, lo, hot, cool⟩)) s

/-- GCYC_ADVANCE (R384): the cycle is over. -/
def execGcycAdvance (s : State) : Out :=
  if !s.released then .next { s with cycle := s.cycle + 1, cursor := 0 }
  else
    let s := ({ s with cores := s.cores.map fun p => (p.1, s.countCycle p.2) } : State).countDegraded
    .next ({ s with cycle := s.cycle + 1, cursor := 0 } : State).periodic

/-! ## Power (R446) -/

/-- THROTTLE_UPDATE (R446). -/
def execThrottleUpdate (s : State) : Out :=
  match s.arg with
  | .power d x =>
    let l := (s.die d).throttle
    let up := x.powerHigh || x.hot
    let down := x.powerLow && x.cool
    .next (s.modDie d fun y =>
      { y with throttle := if up then (if l = 7 then 7 else l + 1) else if down then (if l = 0 then 0 else l - 1) else l })
  | _ => .next s

/-- The unit of a local step, if it is one unit's. -/
def argUnit : Arg → Option UnitId
  | .unit u | .unitWord u _ | .slot u _ | .entry u _ | .ack u _ _ | .tid u _ _ | .chan u _ | .chain u _ _ _ | .credit u _
  | .delivery u _ | .parity u _ _ => some u
  | .land x => some x.unit
  | .forward x => some x.unit
  | .kill x => some x.unit
  | .window id _ | .line id _ _ | .held id _ => some (sliceUnit id)
  | .sys m => some m.unit
  | _ => none

/-- THERMAL_TRIP (R446): all state of the die is lost, with what its Heald knew and the packets on their way over it. -/
def execThermalTrip (s : State) : Out :=
  match s.arg with
  | .die d =>
    let off := fun (u : UnitId) => unitDie u = d
    let inStack := fun (pa : Nat) => decide (pa / 2 ^ 38 = d)
    let s : State := { s with
      cores := s.cores.filter fun p => !off p.1
      slices := s.slices.filter fun p => !off (sliceUnit p.1)
      stations := s.stations.filter fun p => !off (stationUnit p.1)
      engines := s.engines.filter fun p => p.1 ≠ d
      ports := s.ports.filter fun p => p.1 / 2 ≠ d
      mem := s.mem.filter fun c => !inStack c.1
      tags := s.tags.filter fun c => !inStack (8 * c.1)
      marks := s.marks.filter fun c => !inStack (8 * c.1)
      parts := s.parts.filter fun p => p.1 ≠ d
      unsent := s.unsent.filter fun x => !s.crosses d x.src x.dst
      mcasts := s.mcasts.filter fun x => !off x.mc.src
      agenda := s.agenda.filter fun p => !(if p.packet then s.crosses d p.src p.dst else (argUnit p.ev.arg).any off) }
    .next (s.modDie d fun _ => { power := .tripped })
  | _ => .next s

/-! ## Errors (R339, R397, R413, R414) -/

/-- The fields of a unit in HKIND 5 to 7 (R397). -/
def unitField (u : UnitId) : Nat := unitKind u * 2 ^ 53 + unitIdent u * 2 ^ 39

/-- What is on its way over a lost ring pair or spine waits at its source until a remap gives it another route (R339; assumption
log 40, DESIGN CHOICE). -/
def State.waitLost (s : State) : State :=
  let ps := sortOn (·.seq) (s.agenda.filter fun p => p.packet && s.routeLost p.src p.dst)
  { s with
    agenda := s.agenda.filter fun p => !ps.contains p
    unsent := s.unsent ++ ps.map fun p =>
      (⟨p.cls, p.rank, p.src, p.dst, ⟨p.svs, p.viid⟩, p.exempt, s.travel p.src p.dst, p.ev, p.back⟩ : Unsent) }

/-- A ring pair is lost (R339): it carries nothing, and the cores and slices on it are to be retired and remapped to spares (R411,
R414). A spine has no spares. -/
def State.losePair (s : State) (pair : Nat) : State :=
  let s := s.waitLost
  if 32 ≤ pair then s
  else
    let die := pair / 8
    let on := fun (u : UnitId) => match s.locOf u with
      | .ring d q p _ => d = die && 2 * q + p = pair % 8
      | _ => false
    let us := ((List.range 1024).map (1024 * die + ·) ++ (List.range 64).map fun k => sliceUnit (64 * die + k)).filter on
    let pid := s.pidOf die
    (s.modPart pid fun p => { p with repairs := p.repairs ++ us }).schedule s.cycle rankUnit .timeSliceEnd (.die pid)

/-- LINK_BUNDLE_FAILURE (R339): the pair goes to single-direction mode, or is lost when both bundles of a place have
failed; HKIND 7 reports the change. `second` names ring −. -/
def execLinkBundleFailure (s : State) : Out :=
  match s.arg with
  | .link pair place second =>
    let key := pair * 64 + place
    let bad := aget 0 s.bundles key ||| (if second then 2 else 1)
    let mode := max (aget 0 s.degraded pair) (if bad = 3 then 2 else 1)
    let u := stationUnit (if pair < 32 then pair / 8 * 16 + pair % 8 / 2 * 4 else (pair - 32) * 16)
    let changed := mode ≠ aget 0 s.degraded pair
    let s := { s with bundles := aput s.bundles key bad, degraded := aput s.degraded pair mode }
    let s := if mode = 2 && changed then s.losePair pair else s
    .next (if changed then s.healdEvent u (hkind 7 (unitField u + mode)) else s)
  | _ => .next s

/-- A core stops issuing at once and Heald hears: its agent stops the VI, repairs the core and resumes the VI (R414). -/
def State.coreFails (s : State) (u : UnitId) (what : Nat) : State :=
  let s := (s.modCore u fun c => { c with stopped := true }).healdEvent u (hkind 5 (unitField u + what))
  if isCompute u then
    let pid := s.pidOf (unitDie u)
    (s.modPart pid fun p => { p with repairs := p.repairs ++ [u] }).schedule s.cycle rankUnit .timeSliceEnd (.die pid)
  else s

/-- UNCORRECTABLE_ERROR (R414). -/
def execUncorrectableError (s : State) : Out :=
  match s.arg with
  | .memError (.pool u) => .next (s.coreFails u 1)
  | .memError (.slice id sp va) =>
    let s := match (s.slice id).lineAt sp (va.toNat / 128) with
      | some l => s.putLine id { l with marked := setBitN l.marked (va.toNat % 128 / 8) true }
      | none => s
    .next (s.healdEvent (sliceUnit id) (hkind 5 (unitField (sliceUnit id) + 2)))
  | .memError (.station id) => .next (s.healdEvent (stationUnit id) (hkind 5 (unitField (stationUnit id) + 3)))
  | _ => .next s

/-- A unit's count of corrected errors goes up (R391); what it is now. -/
def State.corrected (s : State) (u : UnitId) : Nat × State :=
  let i := unitIdent u
  match unitKind u with
  | 1 =>
    let s := s.modSlice i fun x => { x with perf := bumpPerf x.perf 0x30 1 }
    (fld (aget 0 (s.slice i).perf 0x30) 47 0, s)
  | 3 =>
    let s := s.modStation i fun x => { x with perf := bumpPerf x.perf 0x48 1 }
    (fld (aget 0 (s.station i).perf 0x48) 47 0, s)
  | _ =>
    let s := s.modCore u fun c => { c with perf := bumpPerf c.perf 0x20 1 }
    (fld (aget 0 (s.core u).perf 0x20) 47 0, s)

/-- PARITY_REPLAY (R413): an operand read is replayed from the pool once, and a second error counts as uncorrectable. It is
also the correction of a pool, of a slice and of a station's buffer. Every 1,024th correction of a unit is reported (R396). -/
def execParityReplay (s : State) : Out :=
  match s.arg with
  | .parity u _ again =>
    if again && unitKind u ≠ 1 && unitKind u ≠ 3 then .next (s.coreFails u 4)
    else
      let (n, s) := s.corrected u
      .next (if n % 1024 = 0 then s.healdEvent u (hkind 6 (unitField u + n % 2 ^ 32)) else s)
  | _ => .next s

end Sys2Proof.Machine
end

