-- ==== Sys2Proof/Machine/Integer.lean ====
section
/-! DEFINITION. Integer, packed, bit-field, select and predicate instructions (05_integer R113 to R125). -/

namespace Sys2Proof.Machine

/-! ## The computations (R113 to R119) -/

/-- The 64-bit operation, or with .w the 32-bit one, sign-extended (R114). -/
def byWidth (w : Bool) (f : (n : Nat) → BitVec n → BitVec n → BitVec n) (b c : Word) : Word :=
  if w then (f 32 (b.setWidth 32) (c.setWidth 32)).signExtend 64 else f 64 b c

/-- A unary operation under .w (R114). -/
def byWidth1 (w : Bool) (f : (n : Nat) → BitVec n → BitVec n) (b : Word) : Word :=
  if w then (f 32 (b.setWidth 32)).signExtend 64 else f 64 b

/-- The high half of the signed product (R113). -/
def mulHigh (n : Nat) (b c : BitVec n) : BitVec n := (b.signExtend (2 * n) * c.signExtend (2 * n)).extractLsb' n n
/-- The high half of the unsigned product (R113). -/
def mulHighZ (n : Nat) (b c : BitVec n) : BitVec n := (b.setWidth (2 * n) * c.setWidth (2 * n)).extractLsb' n n
/-- Signed quotient, truncated towards zero; all ones for a divisor of 0 (R115). -/
def divS (n : Nat) (b c : BitVec n) : BitVec n := if c = 0 then BitVec.allOnes n else b.sdiv c
/-- Unsigned quotient (R115). -/
def divU (n : Nat) (b c : BitVec n) : BitVec n := if c = 0 then BitVec.allOnes n else b / c
/-- Signed remainder, with the sign of b (R113, R115). -/
def remS (n : Nat) (b c : BitVec n) : BitVec n := if c = 0 then b else b.srem c
/-- Unsigned remainder (R115). -/
def remU (n : Nat) (b c : BitVec n) : BitVec n := if c = 0 then b else b % c
/-- Shifts and rotates by the low bits of c (R113, R114). -/
def shlOp (n : Nat) (b c : BitVec n) : BitVec n := b <<< (c.toNat % n)
def shrOp (n : Nat) (b c : BitVec n) : BitVec n := b >>> (c.toNat % n)
def sraOp (n : Nat) (b c : BitVec n) : BitVec n := b.sshiftRight (c.toNat % n)
def rolOp (n : Nat) (b c : BitVec n) : BitVec n := b.rotateLeft (c.toNat % n)
def rorOp (n : Nat) (b c : BitVec n) : BitVec n := b.rotateRight (c.toNat % n)
/-- Minima and maxima (R113). -/
def minS (n : Nat) (b c : BitVec n) : BitVec n := if c.slt b then c else b
def maxS (n : Nat) (b c : BitVec n) : BitVec n := if b.slt c then c else b
def minU (n : Nat) (b c : BitVec n) : BitVec n := if c.ult b then c else b
def maxU (n : Nat) (b c : BitVec n) : BitVec n := if b.ult c then c else b
/-- Leading zeros, trailing zeros, ones (R113). -/
def clzOp (n : Nat) (b : BitVec n) : BitVec n :=
  BitVec.ofNat n (((List.range n).find? fun i => b.getLsbD (n - 1 - i)).getD n)
def ctzOp (n : Nat) (b : BitVec n) : BitVec n := BitVec.ofNat n (((List.range n).find? fun i => b.getLsbD i).getD n)
def popcOp (n : Nat) (b : BitVec n) : BitVec n := BitVec.ofNat n ((List.range n).filter fun i => b.getLsbD i).length
/-- Bit k moves to bit n - 1 - k (R113). -/
def brevOp (n : Nat) (b : BitVec n) : BitVec n :=
  BitVec.ofNat n (((List.range n).map fun i => if b.getLsbD i then 2 ^ (n - 1 - i) else 0).sum)
/-- Byte k moves to byte n / 8 - 1 - k (R113). -/
def bswapOp (n : Nat) (b : BitVec n) : BitVec n := BitVec.ofNat n (ofBytes (bytesOf (n / 8) b.toNat).reverse)

/-- Lane width of PKOP (R118). -/
def laneBits : Lane → Nat | .b => 8 | .h => 16 | .w => 32

/-- A packed operation, lane by lane (R118). -/
def lanes (l : Lane) (f : (n : Nat) → BitVec n → BitVec n → BitVec n) (b c : Word) : Word :=
  let w := laneBits l
  BitVec.ofNat 64 (((List.range (64 / w)).map fun j =>
    (f w (b.extractLsb' (j * w) w) (c.extractLsb' (j * w) w)).toNat * 2 ^ (j * w)).sum)

/-- Rounded-up unsigned average, formed in one bit more (R118). -/
def avgU (n : Nat) (a e : BitVec n) : BitVec n := BitVec.ofNat n ((a.toNat + e.toNat + 1) / 2)
/-- Signed addition clamped to the lane (R118). -/
def addSat (n : Nat) (a e : BitVec n) : BitVec n :=
  BitVec.ofInt n (max (-(2 ^ (n - 1) : Int)) (min (2 ^ (n - 1) - 1) (a.toInt + e.toInt)))

/-- The mask of a field of len1 + 1 bits (R119). -/
def fieldMask (len1 : BitVec 6) : Word := BitVec.ofNat 64 (2 ^ (len1.toNat + 1) - 1)
/-- BFXZ (R119). -/
def extractZ (b : Word) (pos len1 : BitVec 6) : Word := (b >>> pos.toNat) &&& fieldMask len1
/-- BFX (R119). -/
def extractS (b : Word) (pos len1 : BitVec 6) : Word := sextN (len1.toNat + 1) (extractZ b pos len1)
/-- BFI (R119). -/
def insertField (b c : Word) (pos len1 : BitVec 6) : Word :=
  (c &&& ~~~(fieldMask len1 <<< pos.toNat)) ||| ((b &&& fieldMask len1) <<< pos.toNat)

/-! ## The forms -/

/-- A three-register instruction that completes in rotation: A takes a value computed from b and c. -/
def regOp2 (s : State) (a b c : Reg) (f : Word → Word → Word) : Iss State := do
  s.checkRegs [b, c] [a] false
  let (x, y, s) ← s.read2 b c
  s.waitDst a
  .ok (s.writeDst a (f x y)).advance

/-- A two-register instruction that completes in rotation: A takes a value computed from b. -/
def regOp1 (s : State) (a b : Reg) (f : Word → Word) : Iss State := do
  s.checkRegs [b] [a] false
  let (x, s) ← s.read1 b
  s.waitDst a
  .ok (s.writeDst a (f x)).advance

/-- An instruction without sources that writes A. -/
def regOp0 (s : State) (a : Reg) (v : Word) : Iss State := do
  s.checkRegs [] [a] false
  s.waitDst a
  .ok (s.writeDst a v).advance

/-- A divide: one at a time in the core's divider, A pending until it lands (R115, R301). -/
def divOp (s : State) (w : Bool) (a b c : Reg) (f : (n : Nat) → BitVec n → BitVec n → BitVec n) : Iss State := do
  s.checkRegs [b, c] [a] true
  let (x, y, s) ← s.read2 b c
  s.waitDst a
  need (s.curCore.divFree ≤ s.cycle) (.wait (.busy s.curCore.divFree))
  let due := s.cycle + (if w then 20 else 36)
  let s := s.modCurCore fun c => { c with divFree := due }
  .ok (s.landLater due a none (byWidth w f x y) 0 0).advance

/-- A predicate written from two values (R121). -/
def cmpOp (s0 s : State) (cond : Cond) (comb : Comb) (w : Bool) (p : Pred) (x y : Word) : State :=
  let res := condHolds cond (condNarrow cond w x) (condNarrow cond w y)
  (s.modCur fun z => z.setP p (combApply comb (s0.cur.p p) res)).advance


/-! ## IOP (R113 to R115) -/

/-- ADD (R113). -/
def execAdd (g : Guard) (w : Bool) (a b c : Reg) (s : State) : Out :=
  issue g s fun s => regOp2 s a b c (byWidth w (fun _ b c => b + c))

/-- SUB (R113). -/
def execSub (g : Guard) (w : Bool) (a b c : Reg) (s : State) : Out :=
  issue g s fun s => regOp2 s a b c (byWidth w (fun _ b c => b - c))

/-- MUL (R113). -/
def execMul (g : Guard) (w : Bool) (a b c : Reg) (s : State) : Out :=
  issue g s fun s => regOp2 s a b c (byWidth w (fun _ b c => b * c))

/-- MULH (R113). -/
def execMulh (g : Guard) (w : Bool) (a b c : Reg) (s : State) : Out :=
  issue g s fun s => regOp2 s a b c (byWidth w mulHigh)

/-- MULHZ (R113). -/
def execMulhz (g : Guard) (w : Bool) (a b c : Reg) (s : State) : Out :=
  issue g s fun s => regOp2 s a b c (byWidth w mulHighZ)

/-- DIV (R113). -/
def execDiv (g : Guard) (w : Bool) (a b c : Reg) (s : State) : Out := issue g s fun s => divOp s w a b c divS

/-- DIVZ (R113). -/
def execDivz (g : Guard) (w : Bool) (a b c : Reg) (s : State) : Out := issue g s fun s => divOp s w a b c divU

/-- REM (R113). -/
def execRem (g : Guard) (w : Bool) (a b c : Reg) (s : State) : Out := issue g s fun s => divOp s w a b c remS

/-- REMZ (R113). -/
def execRemz (g : Guard) (w : Bool) (a b c : Reg) (s : State) : Out := issue g s fun s => divOp s w a b c remU

/-- AND (R113). -/
def execAnd (g : Guard) (w : Bool) (a b c : Reg) (s : State) : Out :=
  issue g s fun s => regOp2 s a b c (byWidth w (fun _ b c => b &&& c))

/-- OR (R113). -/
def execOr (g : Guard) (w : Bool) (a b c : Reg) (s : State) : Out :=
  issue g s fun s => regOp2 s a b c (byWidth w (fun _ b c => b ||| c))

/-- XOR (R113). -/
def execXor (g : Guard) (w : Bool) (a b c : Reg) (s : State) : Out :=
  issue g s fun s => regOp2 s a b c (byWidth w (fun _ b c => b ^^^ c))

/-- ANDN (R113). -/
def execAndn (g : Guard) (w : Bool) (a b c : Reg) (s : State) : Out :=
  issue g s fun s => regOp2 s a b c (byWidth w (fun _ b c => b &&& ~~~c))

/-- ORN (R113). -/
def execOrn (g : Guard) (w : Bool) (a b c : Reg) (s : State) : Out :=
  issue g s fun s => regOp2 s a b c (byWidth w (fun _ b c => b ||| ~~~c))

/-- SHL (R113). -/
def execShl (g : Guard) (w : Bool) (a b c : Reg) (s : State) : Out :=
  issue g s fun s => regOp2 s a b c (byWidth w shlOp)

/-- SHR (R113). -/
def execShr (g : Guard) (w : Bool) (a b c : Reg) (s : State) : Out :=
  issue g s fun s => regOp2 s a b c (byWidth w shrOp)

/-- SRA (R113). -/
def execSra (g : Guard) (w : Bool) (a b c : Reg) (s : State) : Out :=
  issue g s fun s => regOp2 s a b c (byWidth w sraOp)

/-- ROL (R113). -/
def execRol (g : Guard) (w : Bool) (a b c : Reg) (s : State) : Out :=
  issue g s fun s => regOp2 s a b c (byWidth w rolOp)

/-- ROR (R113). -/
def execRor (g : Guard) (w : Bool) (a b c : Reg) (s : State) : Out :=
  issue g s fun s => regOp2 s a b c (byWidth w rorOp)

/-- MIN (R113). -/
def execMin (g : Guard) (w : Bool) (a b c : Reg) (s : State) : Out :=
  issue g s fun s => regOp2 s a b c (byWidth w minS)

/-- MAX (R113). -/
def execMax (g : Guard) (w : Bool) (a b c : Reg) (s : State) : Out :=
  issue g s fun s => regOp2 s a b c (byWidth w maxS)

/-- MINZ (R113). -/
def execMinz (g : Guard) (w : Bool) (a b c : Reg) (s : State) : Out :=
  issue g s fun s => regOp2 s a b c (byWidth w minU)

/-- MAXZ (R113). -/
def execMaxz (g : Guard) (w : Bool) (a b c : Reg) (s : State) : Out :=
  issue g s fun s => regOp2 s a b c (byWidth w maxU)

/-- CLZ (R113). -/
def execClz (g : Guard) (w : Bool) (a b : Reg) (s : State) : Out :=
  issue g s fun s => regOp1 s a b (byWidth1 w clzOp)

/-- CTZ (R113). -/
def execCtz (g : Guard) (w : Bool) (a b : Reg) (s : State) : Out :=
  issue g s fun s => regOp1 s a b (byWidth1 w ctzOp)

/-- POPC (R113). -/
def execPopc (g : Guard) (w : Bool) (a b : Reg) (s : State) : Out :=
  issue g s fun s => regOp1 s a b (byWidth1 w popcOp)

/-- BREV (R113). -/
def execBrev (g : Guard) (w : Bool) (a b : Reg) (s : State) : Out :=
  issue g s fun s => regOp1 s a b (byWidth1 w brevOp)

/-- BSWAP (R113). -/
def execBswap (g : Guard) (w : Bool) (a b : Reg) (s : State) : Out :=
  issue g s fun s => regOp1 s a b (byWidth1 w bswapOp)

/-! ## IOPI, LDI, LDQ (R116, R117) -/

/-- ADDI (R116). -/
def execAddi (g : Guard) (w : Bool) (a b : Reg) (imm : BitVec 16) (s : State) : Out :=
  issue g s fun s => regOp1 s a b fun x => byWidth w (fun _ b c => b + c) x (imm.signExtend 64)

/-- ANDI (R116). -/
def execAndi (g : Guard) (w : Bool) (a b : Reg) (imm : BitVec 16) (s : State) : Out :=
  issue g s fun s => regOp1 s a b fun x => byWidth w (fun _ b c => b &&& c) x (imm.signExtend 64)

/-- ORI (R116). -/
def execOri (g : Guard) (w : Bool) (a b : Reg) (imm : BitVec 16) (s : State) : Out :=
  issue g s fun s => regOp1 s a b fun x => byWidth w (fun _ b c => b ||| c) x (imm.signExtend 64)

/-- XORI (R116). -/
def execXori (g : Guard) (w : Bool) (a b : Reg) (imm : BitVec 16) (s : State) : Out :=
  issue g s fun s => regOp1 s a b fun x => byWidth w (fun _ b c => b ^^^ c) x (imm.signExtend 64)

/-- MULI (R116). -/
def execMuli (g : Guard) (w : Bool) (a b : Reg) (imm : BitVec 16) (s : State) : Out :=
  issue g s fun s => regOp1 s a b fun x => byWidth w (fun _ b c => b * c) x (imm.signExtend 64)

/-- MINI (R116). -/
def execMini (g : Guard) (w : Bool) (a b : Reg) (imm : BitVec 16) (s : State) : Out :=
  issue g s fun s => regOp1 s a b fun x => byWidth w minS x (imm.signExtend 64)

/-- MAXI (R116). -/
def execMaxi (g : Guard) (w : Bool) (a b : Reg) (imm : BitVec 16) (s : State) : Out :=
  issue g s fun s => regOp1 s a b fun x => byWidth w maxS x (imm.signExtend 64)

/-- SHLI (R116). -/
def execShli (g : Guard) (w : Bool) (a b : Reg) (sh : BitVec 6) (s : State) : Out :=
  issue g s fun s => regOp1 s a b fun x => byWidth w shlOp x (sh.setWidth 64)

/-- SHRI (R116). -/
def execShri (g : Guard) (w : Bool) (a b : Reg) (sh : BitVec 6) (s : State) : Out :=
  issue g s fun s => regOp1 s a b fun x => byWidth w shrOp x (sh.setWidth 64)

/-- SRAI (R116). -/
def execSrai (g : Guard) (w : Bool) (a b : Reg) (sh : BitVec 6) (s : State) : Out :=
  issue g s fun s => regOp1 s a b fun x => byWidth w sraOp x (sh.setWidth 64)

/-- LDI (R117). -/
def execLdi (g : Guard) (a : Reg) (imm : BitVec 27) (s : State) : Out := issue g s fun s => regOp0 s a (imm.signExtend 64)

/-- LDQ (R117). -/
def execLdq (g : Guard) (a : Reg) (imm : Word) (s : State) : Out := issue g s fun s => regOp0 s a imm

/-! ## PKOP (R118) -/

/-- PADD (R118). -/
def execPadd (g : Guard) (ln : Lane) (a b c : Reg) (s : State) : Out :=
  issue g s fun s => regOp2 s a b c (lanes ln (fun _ b c => b + c))

/-- PSUB (R118). -/
def execPsub (g : Guard) (ln : Lane) (a b c : Reg) (s : State) : Out :=
  issue g s fun s => regOp2 s a b c (lanes ln (fun _ b c => b - c))

/-- PMIN (R118). -/
def execPmin (g : Guard) (ln : Lane) (a b c : Reg) (s : State) : Out :=
  issue g s fun s => regOp2 s a b c (lanes ln minS)

/-- PMAX (R118). -/
def execPmax (g : Guard) (ln : Lane) (a b c : Reg) (s : State) : Out :=
  issue g s fun s => regOp2 s a b c (lanes ln maxS)

/-- PMINZ (R118). -/
def execPminz (g : Guard) (ln : Lane) (a b c : Reg) (s : State) : Out :=
  issue g s fun s => regOp2 s a b c (lanes ln minU)

/-- PMAXZ (R118). -/
def execPmaxz (g : Guard) (ln : Lane) (a b c : Reg) (s : State) : Out :=
  issue g s fun s => regOp2 s a b c (lanes ln maxU)

/-- PAVG (R118). -/
def execPavg (g : Guard) (ln : Lane) (a b c : Reg) (s : State) : Out :=
  issue g s fun s => regOp2 s a b c (lanes ln avgU)

/-- PADDS (R118). -/
def execPadds (g : Guard) (ln : Lane) (a b c : Reg) (s : State) : Out :=
  issue g s fun s => regOp2 s a b c (lanes ln addSat)

/-! ## BF, LEA, SEL (R119, R120, R124) -/

/-- BFX (R119). -/
def execBfx (g : Guard) (a b : Reg) (pos len1 : BitVec 6) (s : State) : Out :=
  issue g s fun s => regOp1 s a b fun x => extractS x pos len1

/-- BFXZ (R119). -/
def execBfxz (g : Guard) (a b : Reg) (pos len1 : BitVec 6) (s : State) : Out :=
  issue g s fun s => regOp1 s a b fun x => extractZ x pos len1

/-- BFI (R119). -/
def execBfi (g : Guard) (a b c : Reg) (pos len1 : BitVec 6) (s : State) : Out :=
  issue g s fun s => regOp2 s a b c fun x y => insertField x y pos len1

/-- LEA (R120). -/
def execLea (g : Guard) (a b c : Reg) (sh : BitVec 2) (imm : BitVec 16) (s : State) : Out :=
  issue g s fun s => regOp2 s a b c fun x y => x + (y <<< sh.toNat) + imm.signExtend 64

/-- SEL reads both b and c and chooses by a predicate (R124), read after the sources (assumption log 9, DEDUCED). -/
def execSel (g : Guard) (a b c : Reg) (p : Pred) (neg : Bool) (s : State) : Out :=
  issue g s fun s => do
    s.checkRegs [b, c] [a] false
    let (x, y, s) ← s.read2 b c
    s.waitDst a
    .ok (s.writeDst a (if (s.cur.p p).xor neg then x else y)).advance

/-! ## Predicates (R121 to R123, R125) -/

/-- CMP (R121). -/
def execCmp (g : Guard) (cond : Cond) (comb : Comb) (w : Bool) (p : Pred) (b c : Reg) (s : State) : Out :=
  issue g s fun s0 => do
    s0.checkRegs [b, c] [] false
    let (x, y, s) ← s0.read2 b c
    .ok (cmpOp s0 s cond comb w p x y)

/-- CMPI (R121). -/
def execCmpi (g : Guard) (cond : Cond) (comb : Comb) (w : Bool) (p : Pred) (b : Reg) (imm : BitVec 16) (s : State) : Out :=
  issue g s fun s0 => do
    s0.checkRegs [b] [] false
    let (x, s) ← s0.read1 b
    .ok (cmpOp s0 s cond comb w p x (condImm cond imm))

/-- PLOG reads all predicates before it writes (R122). -/
def execPlog (g : Guard) (pk pj pi : Pred) (tt : BitVec 4) (s : State) : Out :=
  issue g s fun s => .ok (s.modCur fun x => x.setP pk (plogBit tt (x.p pj) (x.p pi))).advance

/-- PSETW (R123). -/
def execPsetw (g : Guard) (b : Reg) (s : State) : Out :=
  issue g s fun s => do
    s.checkRegs [b] [] false
    let (x, s) ← s.read1 b
    .ok (s.modCur fun y => { y with pred := x.setWidth 8 }).advance

/-- PGETW (R123). -/
def execPgetw (g : Guard) (a : Reg) (s : State) : Out := issue g s fun s => regOp0 s a (s.cur.pred.setWidth 64)

end Sys2Proof.Machine
end

