-- ==== Sys2Proof/Machine/VecOps.lean ====
section
/-! DEFINITION. The arithmetic of the vector unit (11_pool R204, R207 to R212). Elements are raw bits in the low end
of a word. -/

namespace Sys2Proof.Machine

/-- The binary format of an element, for f-formats. -/
def fpFmtOf (f : Fmt) : Option FpFmt := (fpBits f).map fun p => ⟨p.1, p.2⟩

/-- A signed integer format. -/
def fmtSigned : Fmt → Bool
  | .i64 | .i32 | .i8 => true
  | _ => false

/-- An integer element's value. -/
def intElem (f : Fmt) (x : Word) : Int :=
  if fmtSigned f then (sextN (fmtBits f) x).toInt else (zextN (fmtBits f) x).toNat

/-- An integer wrapped to the element's width. -/
def wrapElem (f : Fmt) (x : Int) : Word := zextN (fmtBits f) (BitVec.ofInt 64 x)

/-- The register image of an element (R155). -/
def elemImage (f : Fmt) (x : Word) : Word := if fmtSigned f then sextN (fmtBits f) x else zextN (fmtBits f) x

/-- An operation by an integer and a floating-point meaning (R204). -/
def byFmt (f : Fmt) (i : Int → Int → Int) (g : FpFmt → Word → Word → Word × FpFlags) (c e : Word) : Word × FpFlags :=
  match fpFmtOf f with
  | some x => g x c e
  | none => (wrapElem f (i (intElem f c) (intElem f e)), 0)

/-! ## Transcendental functions (R208) -/

/-- Bits kept below the point. -/
def expBits : Nat := 320

/-- The product over the set bits of `b` (bit `n - 1` first, weights 1/2, 1/4, …) of the successive square roots of 2,
in fixed point. -/
def expProd (b : Nat) : Nat → Nat → Nat → Nat
  | 0, _, acc => acc
  | n + 1, r, acc =>
    let r := isqrt (expBits + 2) (r * 2 ^ expBits)
    expProd b n r (if b.testBit n then acc * r / 2 ^ expBits else acc)

/-- 2^c for a finite c (R208): exact for an integer, else more than 300 bits of it with a sticky part. -/
def exp2Fin (neg : Bool) (m : Nat) (e : Int) : Nat × Int × Bool :=
  let big := 32768
  if e ≥ 0 then
    let k := if 20 ≤ e then (if m = 0 then 0 else big) else min big (m * 2 ^ e.toNat)
    (1, if neg then -(k : Int) else k, false)
  else
    let d := (-e).toNat
    let t : Int := if neg then -(m : Int) else m
    let k := t / 2 ^ d
    let r := (t % 2 ^ d).toNat
    let k := if k < -32768 then -32768 else if 32768 < k then 32768 else k
    if r = 0 then (1, k, false) else (expProd r d (2 ^ (expBits + 1)) (2 ^ expBits), k - expBits, true)

/-- VEXP2 (R208). -/
def vexp2 (f : FpFmt) (mode : RMode) (c : Word) : Word × FpFlags :=
  match f.num c with
  | .nan s => (f.qnan, sigs [.nan s])
  | .inf neg => f.pack mode (if neg then .fin false 0 0 else .inf false)
  | .fin neg m e =>
    let (n, x, st) := exp2Fin neg m e
    let (b, fl) := packFin f.eb f.fb mode false n x st
    (BitVec.ofNat 64 b, fl)
  | _ => (f.qnan, 0)

/-- Bits of a logarithm kept below the point, and of the squares it is formed from. -/
def logBits : Nat := 160
def logWork : Nat := 420

/-- The first `n` bits below the point of log2 x, for x in [1, 2) in fixed point. -/
def logFrac : Nat → Nat → Nat → Nat
  | 0, _, acc => acc
  | n + 1, x, acc =>
    let y := x * x / 2 ^ logWork
    if 2 ^ (logWork + 1) ≤ y then logFrac n (y / 2) (2 * acc + 1) else logFrac n y (2 * acc)

/-- VLOG2 (R208). -/
def vlog2 (f : FpFmt) (mode : RMode) (c : Word) : Word × FpFlags :=
  match f.num c with
  | .nan s => (f.qnan, sigs [.nan s])
  | .inf neg => if neg then (f.qnan, flagNV) else f.pack mode (.inf false)
  | .fin neg m e =>
    if m = 0 then ((f.pack mode (.inf true)).1, flagDZ)
    else if neg then (f.qnan, flagNV)
    else
      let l := m.log2
      let k : Int := e + l
      if m = 2 ^ l then f.pack mode (intNum k)
      else
        let t : Int := k * 2 ^ logBits + logFrac logBits (m * 2 ^ (logWork - l)) 0
        let neg := decide (t < 0)
        let mag := if neg then (-t - 1).toNat else t.toNat
        let (b, fl) := packFin f.eb f.fb mode neg mag (-(logBits : Int)) true
        (BitVec.ofNat 64 b, fl)
  | _ => (f.qnan, 0)

/-- VRSQ (R208). -/
def vrsq (f : FpFmt) (mode : RMode) (c : Word) : Word × FpFlags :=
  match f.num c with
  | .nan s => (f.qnan, sigs [.nan s])
  | .inf neg => if neg then (f.qnan, flagNV) else f.pack mode (.fin false 0 0)
  | .fin neg m e =>
    if m = 0 then ((f.pack mode (.inf neg)).1, flagDZ)
    else if neg then (f.qnan, flagNV)
    else
      let odd := e % 2 ≠ 0
      let m := if odd then 2 * m else m
      let e := if odd then e - 1 else e
      let q := isqrt 220 (2 ^ 400 / m)
      let (b, fl) := packFin f.eb f.fb mode false q (-200 - e / 2) (q * q * m ≠ 2 ^ 400)
      (BitVec.ofNat 64 b, fl)
  | _ => (f.qnan, 0)

/-- VRCP (R208). -/
def vrcp (f : FpFmt) (mode : RMode) (c : Word) : Word × FpFlags := f.div mode (f.pack mode (.fin false 1 0)).1 c

/-! ## Sums (R210) -/

/-- The exact sum of a prefix, before rounding: kept as a value and what has been met. -/
structure SumAcc where
  v : Num := .fin false 0 0
  started : Bool := false
  nan : Bool := false
  sig : Bool := false
  pinf : Bool := false
  ninf : Bool := false
deriving DecidableEq, Repr

/-- One more element. -/
def SumAcc.push (mode : RMode) (a : SumAcc) (x : Num) : SumAcc :=
  match x with
  | .nan s => { a with nan := true, sig := a.sig || s }
  | .inf n => { a with pinf := a.pinf || !n, ninf := a.ninf || n }
  | x => { a with started := true, v := if a.started then (addNum mode a.v x).getD a.v else x }

/-- The rounded sum (R210). -/
def SumAcc.done (f : FpFmt) (mode : RMode) (a : SumAcc) : Word × FpFlags :=
  if a.nan || (a.pinf && a.ninf) then (f.qnan, if a.sig || (a.pinf && a.ninf) then flagNV else 0)
  else if a.pinf then f.pack mode (.inf false)
  else if a.ninf then f.pack mode (.inf true)
  else f.pack mode a.v

/-- A single term, added to nothing (R210). -/
def FpFmt.single (f : FpFmt) (c : Word) : Word × FpFlags :=
  if (f.num c).isNaN then (f.qnan, sigs [f.num c]) else (f.image c, 0)

/-- The largest power of two below n. -/
def halfBelow (n : Nat) : Nat := 2 ^ (n - 1).log2

/-- The pairwise sum of f64 (R210); `fuel` is the depth. -/
def pairSum (f : FpFmt) (mode : RMode) : Nat → List Word → Word × FpFlags
  | 0, _ => (0, 0)
  | fuel + 1, xs =>
    match xs with
    | [] => (0, 0)
    | [x] => f.single x
    | _ =>
      let h := halfBelow xs.length
      let (a, fa) := pairSum f mode fuel (xs.take h)
      let (b, fb) := pairSum f mode fuel (xs.drop h)
      let (r, fl) := f.add mode a b
      (r, fa ||| fb ||| fl)

/-- VSUM over at least one element (R210). -/
def vsum (fmt : Fmt) (mode : RMode) (xs : List Word) : Word × FpFlags :=
  match fpFmtOf fmt with
  | none => (wrapElem fmt ((xs.map (intElem fmt)).foldl (· + ·) 0), 0)
  | some f =>
    if fmt == .f64 then pairSum f mode 20 xs
    else (xs.foldl (fun a x => a.push mode (f.num x)) ({} : SumAcc)).done f mode

/-- VSCAN on f64, left to right (R210). -/
def scan64 (f : FpFmt) (mode : RMode) : List Word → Option Word → List (Word × FpFlags)
  | [], _ => []
  | x :: xs, none => let r := f.single x; r :: scan64 f mode xs (some r.1)
  | x :: xs, some a => let r := f.add mode a x; r :: scan64 f mode xs (some r.1)

/-- VSCAN on the narrower formats: each prefix formed exactly and rounded once (R210). -/
def scanExact (f : FpFmt) (mode : RMode) : List Word → SumAcc → List (Word × FpFlags)
  | [], _ => []
  | x :: xs, a => let a := a.push mode (f.num x); a.done f mode :: scanExact f mode xs a

/-- VSCAN on integers (R210). -/
def scanInt (fmt : Fmt) : List Word → Int → List (Word × FpFlags)
  | [], _ => []
  | x :: xs, a => let a := a + intElem fmt x; (wrapElem fmt a, 0) :: scanInt fmt xs a

/-- VSCAN (R210). -/
def vscan (fmt : Fmt) (mode : RMode) (xs : List Word) : List (Word × FpFlags) :=
  match fpFmtOf fmt with
  | none => scanInt fmt xs 0
  | some f => if fmt == .f64 then scan64 f mode xs none else scanExact f mode xs {}

/-! ## Element by element (R204, R207, R209) -/

/-- The condition of VCMP as FCMP's (R209). -/
def vcondF : VCond → FCond
  | .eq => .eq | .ne => .ne | .lt => .lt | .le => .le

/-- One comparison (R209). -/
def vcmp (fmt : Fmt) (k : VCond) (c e : Word) : Bool × FpFlags :=
  match fpFmtOf fmt with
  | some f => f.cmp (vcondF k) c e
  | none =>
    let x := intElem fmt c
    let y := intElem fmt e
    (match k with
      | .eq => decide (x = y)
      | .ne => decide (x ≠ y)
      | .lt => decide (x < y)
      | .le => decide (x ≤ y), 0)

/-- The element that a lane of VRNG gives (R212). -/
def rngElem (fmt : Fmt) (lane : BitVec 32) : Word :=
  if fmt == .f32 then (unit24 (lane.toNat / 256)).setWidth 64 else lane.setWidth 64

/-- The elements of VRNG: blocks of four lanes (R212). -/
def vrng (fmt : Fmt) (key c d : Word) (len : Nat) : List Word :=
  ((List.range ((len + 3) / 4)).flatMap fun j =>
    let (a, b) := philox key (c + BitVec.ofNat 64 j) d
    [rngElem fmt (a.extractLsb' 0 32), rngElem fmt (a.extractLsb' 32 32), rngElem fmt (b.extractLsb' 0 32),
     rngElem fmt (b.extractLsb' 32 32)]).take len

end Sys2Proof.Machine
end

