-- ==== Sys2Proof/Machine/Vector.lean ====
section
/-! DEFINITION. The vector unit: issue and completion of its commands (11_pool R203 to R212; 28_errata R457). -/

namespace Sys2Proof.Machine

/-! ## Vectors in the pool (R205): element i lies at bit (element width) · i from its base. -/

/-- The bytes that `n` elements occupy. -/
def vecBytes (f : Fmt) (n : Nat) : Nat := (fmtBits f * n + 7) / 8
/-- The multiple a base must be. -/
def vecAlign (f : Fmt) : Nat := max 1 (fmtBits f / 8)

/-- The elements of a vector. -/
def Core.vecRead (c : Core) (f : Fmt) (base n : Nat) : List Word :=
  let w := fmtBits f
  let v := c.poolRead base (vecBytes f n)
  (List.range n).map fun i => BitVec.ofNat 64 (v / 2 ^ (w * i) % 2 ^ w)

/-- The bytes of a vector with its elements replaced; bits of the last byte beyond them stay. -/
def Core.vecImage (c : Core) (f : Fmt) (base : Nat) (xs : List Word) : List Byte :=
  let w := fmtBits f
  let nb := vecBytes f xs.length
  let old := c.poolRead base nb
  let new := (xs.zipIdx.map fun x => x.1.toNat % 2 ^ w * 2 ^ (w * x.2)).sum
  bytesOf nb (old / 2 ^ (w * xs.length) * 2 ^ (w * xs.length) + new)

/-! ## Operands of a command -/

/-- The format of source 1. -/
def VCmd.srcFmt (x : VCmd) : Fmt :=
  match x.op with
  | .cvt f => f
  | _ => x.fmt

/-- Source 1 is a vector of LEN elements. -/
def vecSrc1 : VOp → Bool
  | .gath | .rng | .clr => false
  | _ => true

/-- D is a vector of the element format when it is no scalar. -/
def vecSrc2 : VOp → Bool
  | .add | .sub | .mul | .fma | .min | .max | .sel | .cmp _ => true
  | _ => false

/-- VGATH and VSCAT. -/
def vecIndexed : VOp → Bool
  | .gath | .scat => true
  | _ => false

/-- The end of the scratchpad. -/
def scratchEnd (u : UnitId) : Nat := poolSize u - 4096

/-- The destination's elements. -/
def VCmd.dstLen (x : VCmd) : Nat :=
  match x.op with
  | .sum => min 1 x.len
  | _ => x.len

/-- The ranges of a command: destination, offset, bytes (R205, R206, R211). -/
def VCmd.ranges (x : VCmd) (u : UnitId) : List (Bool × Nat × Nat) :=
  if x.len = 0 then []
  else
    (if x.op == .scat then [(true, x.b, scratchEnd u - x.b)] else [(true, x.b, vecBytes x.fmt x.dstLen)]) ++
    (if x.op == .gath then [(false, x.c, scratchEnd u - x.c)]
     else if vecSrc1 x.op then [(false, x.c, vecBytes x.srcFmt x.len)] else []) ++
    (if vecIndexed x.op then [(false, x.d.toNat, 4 * x.len)]
     else if vecSrc2 x.op && !x.bcast then [(false, x.d.toNat, vecBytes x.fmt x.len)] else [])

/-- The bases a command must have aligned: value and multiple. With LEN = 0 a table has none (R205, R211). -/
def VCmd.bases (x : VCmd) : List (Nat × Nat) :=
  (if x.op == .scat && x.len = 0 then [] else [(x.b, vecAlign x.fmt)]) ++
  (if x.op == .gath then (if x.len = 0 then [] else [(x.c, vecAlign x.fmt)])
   else if vecSrc1 x.op then [(x.c, vecAlign x.srcFmt)] else []) ++
  (if vecIndexed x.op then [(x.d.toNat, 4)] else if vecSrc2 x.op && !x.bcast then [(x.d.toNat, vecAlign x.fmt)] else [])

/-- Cycles a command takes (R206). -/
def VCmd.time (x : VCmd) : Nat :=
  if vecIndexed x.op then 4 + x.len
  else
    let src := if vecSrc1 x.op then vecBytes x.srcFmt x.len else 0
    let src2 := if vecSrc2 x.op && !x.bcast then vecBytes x.fmt x.len else 0
    4 + (max (max src src2) (vecBytes x.fmt x.dstLen) + 63) / 64

/-! ## Issue (R205, R206) -/

/-- The checks of R205 on the offset registers. -/
def VCmd.check (x : VCmd) (c : Core) (u : UnitId) (b cc d : Word) : Iss Unit := do
  discard (offsetOf b)
  if vecSrc1 x.op || x.op == .gath then discard (offsetOf cc)
  if vecIndexed x.op || (vecSrc2 x.op && !x.bcast) then discard (offsetOf d)
  match x.bases.find? fun p => p.1 % p.2 ≠ 0 with
  | some p => .error (alignFault (BitVec.ofNat 64 p.1))
  | none =>
    match (x.ranges u).find? fun r => !(c.inScratch (poolSize u) r.2.1 (max 1 r.2.2) && r.2.1 < scratchEnd u) with
    | some r => .error (boundsFault (BitVec.ofNat 64 r.2.1))
    | none => .ok ()

/-- Start the unit on the command at the head of its queue. -/
def State.startVector (s : State) (u : UnitId) : State :=
  match (s.core u).vq with
  | x :: _ => s.schedule (s.cycle + s.slowed u x.time) rankUnit .vectorCommandCompletion (.tid u x.tid 0)
  | [] => s

/-- Issue a VOP (R203, R206). -/
def vecIssue (s : State) (op : VOp) (x : VArgs) (d : Reg) (bcast : Bool) : Iss State := do
  s.checkRegs [x.b, x.c, d] [x.a] true
  let (vb, vc, vd, s) ← s.read3 x.b x.c d
  let u := s.curUnit
  let c := s.curCore
  let (tid, s) := s.fresh
  let cmd : VCmd :=
    { tid := tid, op := op, fmt := x.fmt, b := vb.toNat, c := vc.toNat, d := vd, c1 := vc, bcast := bcast, len := x.len.toNat,
      mode := s.cur.mode, lxm := c.lxm, cbk0 := c.cbk0, cbk1 := c.cbk1, rkey := s.cur.rkey }
  cmd.check c u vb vc vd
  s.waitDst x.a
  let ls := cmd.ranges u
  need (c.vq.length < 8) (.wait .vecQueue)
  c.needLocks ls.length
  let s := s.addLocks u (ls.map fun r => poolLock r.1 ownerVec tid r.2.1 r.2.2)
  let s := s.modCore u fun c => { c with vq := c.vq ++ [cmd] }
  let s := if c.vq = [] then s.startVector u else s
  .ok (s.addToken tid x.a).advance

/-! ## Execution (R204, R207 to R212) -/

/-- What a command does to its pool: bytes written, in order; its token; its flags. -/
structure VRes where
  writes : List (Nat × List Byte)
  token : Word
  flags : FpFlags
deriving DecidableEq, Repr

/-- One element of an element-wise operation from c, e and d. -/
def VCmd.elem (x : VCmd) (c e d : Word) : Word × FpFlags :=
  match x.op with
  | .add => byFmt x.fmt (· + ·) (fun f => f.add x.mode) c e
  | .sub => byFmt x.fmt (· - ·) (fun f => f.sub x.mode) c e
  | .mul => byFmt x.fmt (· * ·) (fun f => f.mul x.mode) c e
  | .fma =>
    match fpFmtOf x.fmt with
    | some f => f.fma x.mode c e d
    | none => (wrapElem x.fmt (intElem x.fmt c * intElem x.fmt e + intElem x.fmt d), 0)
  | .min => byFmt x.fmt min (fun f => f.minMax false) c e
  | .max => byFmt x.fmt max (fun f => f.minMax true) c e
  | .abs => byFmt x.fmt (fun a _ => a.natAbs) (fun f a _ => (f.signOp false a, 0)) c 0
  | .neg => byFmt x.fmt (fun a _ => -a) (fun f a _ => (f.signOp true a, 0)) c 0
  | .cvt src => convert ⟨x.lxm, x.cbk0, x.cbk1⟩ x.fmt src x.mode 0 c
  | .exp2 => byFmt x.fmt (fun a _ => a) (fun f a _ => vexp2 f x.mode a) c 0
  | .log2 => byFmt x.fmt (fun a _ => a) (fun f a _ => vlog2 f x.mode a) c 0
  | .rsq => byFmt x.fmt (fun a _ => a) (fun f a _ => vrsq f x.mode a) c 0
  | .rcp => byFmt x.fmt (fun a _ => a) (fun f a _ => vrcp f x.mode a) c 0
  | .sel => (if zextN (fmtBits x.fmt) d ≠ 0 then c else e, 0)
  | .cmp k => let (r, fl) := vcmp x.fmt k c e; (if r then zextN (fmtBits x.fmt) (BitVec.allOnes 64) else 0, fl)
  | .cpy => (c, 0)
  | _ => (0, 0)

/-- An element-wise operation (R204). -/
def VCmd.elementWise (x : VCmd) (c : Core) : VRes :=
  let n := x.len
  let cs := if vecSrc1 x.op then c.vecRead x.srcFmt x.c n else List.replicate n 0
  let es := if !vecSrc2 x.op then List.replicate n 0 else if x.bcast then List.replicate n (zextN (fmtBits x.fmt) x.d)
    else c.vecRead x.fmt x.d.toNat n
  let ds := match x.op with
    | .fma | .sel => c.vecRead x.fmt x.b n
    | _ => List.replicate n 0
  let rs := (cs.zip (es.zip ds)).map fun p => x.elem p.1 p.2.1 p.2.2
  let count := match x.op with
    | .cmp _ => (rs.filter fun r => r.1 ≠ 0).length
    | _ => 0
  { writes := [(x.b, c.vecImage x.fmt x.b (rs.map (·.1)))], token := BitVec.ofNat 64 count,
    flags := rs.foldl (fun f r => f ||| r.2) 0 }

/-- An element of a table lies wholly within the scratchpad (R211). -/
def tableOk (c : Core) (u : UnitId) (f : Fmt) (base k : Nat) : Bool :=
  c.inScratch (poolSize u) (base + vecAlign f * k) (vecAlign f)

/-- The effect of a command. -/
def VCmd.run (x : VCmd) (c : Core) (u : UnitId) : VRes :=
  let n := x.len
  match x.op with
  | .sum =>
    if n = 0 then
      if x.fmt == .f16 then
        { writes := if c.inScratch (poolSize u) x.b 2 then [(x.b, bytesOf 2 0x8000)] else [], token := 0x8000, flags := 0 }
      else { writes := [], token := 0, flags := 0 }
    else
      let (r, fl) := vsum x.fmt x.mode (c.vecRead x.fmt x.c n)
      { writes := [(x.b, c.vecImage x.fmt x.b [r])], token := elemImage x.fmt r, flags := fl }
  | .scan =>
    let rs := vscan x.fmt x.mode (c.vecRead x.fmt x.c n)
    { writes := [(x.b, c.vecImage x.fmt x.b (rs.map (·.1)))],
      token := match rs.getLast? with
        | some r => elemImage x.fmt r.1
        | none => 0,
      flags := rs.foldl (fun f r => f ||| r.2) 0 }
  | .gath =>
    let ks := (c.vecRead .z32 x.d.toNat n).map (·.toNat)
    let es := ks.map fun k => if tableOk c u x.fmt x.c k then (c.vecRead x.fmt (x.c + vecAlign x.fmt * k) 1).headD 0 else 0
    { writes := [(x.b, c.vecImage x.fmt x.b es)],
      token := BitVec.ofNat 64 (ks.filter fun k => !tableOk c u x.fmt x.c k).length, flags := 0 }
  | .scat =>
    let ks := (c.vecRead .z32 x.d.toNat n).map (·.toNat)
    let cs := c.vecRead x.fmt x.c n
    { writes := ((ks.zip cs).filter fun p => tableOk c u x.fmt x.b p.1).map fun p =>
        (x.b + vecAlign x.fmt * p.1, bytesOf (vecAlign x.fmt) p.2.toNat),
      token := BitVec.ofNat 64 (ks.filter fun k => !tableOk c u x.fmt x.b k).length, flags := 0 }
  | .rng => { writes := [(x.b, c.vecImage x.fmt x.b (vrng x.fmt x.rkey x.c1 x.d n))], token := 0, flags := 0 }
  | _ => x.elementWise c

/-- VECTOR_COMMAND_COMPLETION (R206): the command at the head of the queue takes effect, its ranges and entry are freed,
its token and flags land, and the next one starts. -/
def execVectorCommandCompletion (s : State) : Out :=
  match s.arg with
  | .tid u tid _ =>
    match (s.core u).vq with
    | x :: rest =>
      if x.tid ≠ tid then .next s
      else
        let r := x.run (s.core u) u
        let s := r.writes.foldl (fun s w => s.enginePut u ownerVec tid w.1 w.2) s
        let s := s.modCore u fun c => { c with vq := rest }
        .next (((s.freeLocks u tid .vecQueue).startVector u).landToken u tid r.token r.flags)
    | [] => .next s
  | _ => .next s

/-! ## The instructions (R203, R204) -/

/-- VADD (R204). -/
def execVadd (g : Guard) (x : VArgs) (d : Reg) (bcast : Bool) (s : State) : Out := issue g s fun s => vecIssue s .add x d bcast
/-- VSUB (R204). -/
def execVsub (g : Guard) (x : VArgs) (d : Reg) (bcast : Bool) (s : State) : Out := issue g s fun s => vecIssue s .sub x d bcast
/-- VMUL (R204). -/
def execVmul (g : Guard) (x : VArgs) (d : Reg) (bcast : Bool) (s : State) : Out := issue g s fun s => vecIssue s .mul x d bcast
/-- VFMA (R204). -/
def execVfma (g : Guard) (x : VArgs) (d : Reg) (bcast : Bool) (s : State) : Out := issue g s fun s => vecIssue s .fma x d bcast
/-- VMIN (R204). -/
def execVmin (g : Guard) (x : VArgs) (d : Reg) (bcast : Bool) (s : State) : Out := issue g s fun s => vecIssue s .min x d bcast
/-- VMAX (R204). -/
def execVmax (g : Guard) (x : VArgs) (d : Reg) (bcast : Bool) (s : State) : Out := issue g s fun s => vecIssue s .max x d bcast
/-- VABS (R204). -/
def execVabs (g : Guard) (x : VArgs) (s : State) : Out := issue g s fun s => vecIssue s .abs x 0 false
/-- VNEG (R204). -/
def execVneg (g : Guard) (x : VArgs) (s : State) : Out := issue g s fun s => vecIssue s .neg x 0 false
/-- VCVT (R207). -/
def execVcvt (g : Guard) (x : VArgs) (src : Fmt) (s : State) : Out := issue g s fun s => vecIssue s (.cvt src) x 0 false
/-- VEXP2 (R208). -/
def execVexp2 (g : Guard) (x : VArgs) (s : State) : Out := issue g s fun s => vecIssue s .exp2 x 0 false
/-- VLOG2 (R208). -/
def execVlog2 (g : Guard) (x : VArgs) (s : State) : Out := issue g s fun s => vecIssue s .log2 x 0 false
/-- VRSQ (R208). -/
def execVrsq (g : Guard) (x : VArgs) (s : State) : Out := issue g s fun s => vecIssue s .rsq x 0 false
/-- VRCP (R208). -/
def execVrcp (g : Guard) (x : VArgs) (s : State) : Out := issue g s fun s => vecIssue s .rcp x 0 false
/-- VSEL (R204). -/
def execVsel (g : Guard) (x : VArgs) (d : Reg) (bcast : Bool) (s : State) : Out := issue g s fun s => vecIssue s .sel x d bcast
/-- VCMP (R209). -/
def execVcmp (g : Guard) (x : VArgs) (d : Reg) (bcast : Bool) (cond : VCond) (s : State) : Out :=
  issue g s fun s => vecIssue s (.cmp cond) x d bcast
/-- VSUM (R210). -/
def execVsum (g : Guard) (x : VArgs) (s : State) : Out := issue g s fun s => vecIssue s .sum x 0 false
/-- VSCAN (R210). -/
def execVscan (g : Guard) (x : VArgs) (s : State) : Out := issue g s fun s => vecIssue s .scan x 0 false
/-- VGATH (R211). -/
def execVgath (g : Guard) (x : VArgs) (d : Reg) (s : State) : Out := issue g s fun s => vecIssue s .gath x d false
/-- VSCAT (R211). -/
def execVscat (g : Guard) (x : VArgs) (d : Reg) (s : State) : Out := issue g s fun s => vecIssue s .scat x d false
/-- VRNG (R212). -/
def execVrng (g : Guard) (x : VArgs) (d : Reg) (s : State) : Out := issue g s fun s => vecIssue s .rng x d true
/-- VCLR (R204). -/
def execVclr (g : Guard) (a b : Reg) (fmt : Fmt) (len : BitVec 16) (s : State) : Out :=
  issue g s fun s => vecIssue s .clr ⟨a, b, 0, fmt, len⟩ 0 false
/-- VCPY (R204). -/
def execVcpy (g : Guard) (x : VArgs) (s : State) : Out := issue g s fun s => vecIssue s .cpy x 0 false

end Sys2Proof.Machine
end

