-- ==== Sys2Proof/Machine/Matrix.lean ====
section
/-! DEFINITION. The matrix unit: tiles, issue and completion of its commands (12_matrix_unit R214 to R229). -/

namespace Sys2Proof.Machine

/-! ## MFMT (R109, R216, R217) -/

/-- The fields of a sampled MFMT. -/
def mfmtA (m : BitVec 11) : Option Fmt := fmtOf (m.extractLsb' 0 4)
def mfmtB (m : BitVec 11) : Option Fmt := fmtOf (m.extractLsb' 4 4)
def mfmtAcc (m : BitVec 11) : Nat := (m.extractLsb' 8 2).toNat
def mfmtLxm (m : BitVec 11) : Bool := m.getLsbD 10

/-- K of a step, when AFMT, BFMT and ACC are a row of R217. -/
def matRow (m : BitVec 11) : Option Nat :=
  match mfmtA m, mfmtB m, mfmtAcc m with
  | some .lg6, some .lg6, 0 => some 32
  | some .i8, some .i8, 0 | some .i8, some .q4, 0 | some .q4, some .i8, 0 | some .q4, some .q4, 0 => some 16
  | some .f16, some .f16, 1 | some .f16, some .bf16, 1 | some .bf16, some .f16, 1 | some .bf16, some .bf16, 1 => some 8
  | some .f32, some .f32, 1 => some 2
  | _, _, _ => none

/-- MATFMT (R216, R217). -/
def matFmt : Stop := .fault { code := 20 }

/-- The units of a tile of the sampled kind (R216). -/
def tileUnits (m : BitVec 11) : Nat := if mfmtAcc m = 0 then 2 else 1

/-- The kind of tile exists (R216). -/
def needKind (m : BitVec 11) : Iss Unit := need (mfmtAcc m < 2) matFmt

/-- An accumulator index: alignment, then bounds (R216). -/
def Core.needAcc (c : Core) (m : BitVec 11) (acc : Nat) : Iss Unit := do
  need (acc % tileUnits m = 0) (alignFault (BitVec.ofNat 64 acc))
  need (acc + tileUnits m ≤ 4 * fld c.poolw 8 4) (boundsFault (BitVec.ofNat 64 acc))

/-! ## Operand pairs (R218, R219) -/

/-- BASE, RPITCH, TPITCH. -/
def pairBase (j : Word) : Nat := fld j 16 0
def pairRow (p : Word) : Nat := fld p 15 0
def pairTile (p : Word) : Nat := fld p 31 16

/-- The bytes of a row of `k` elements. -/
def rowBytes (f : Fmt) (k : Nat) : Nat := fmtBits f * k / 8

/-- The bytes of an operand's footprint. -/
def footBytes (n tile row nb : Nat) : Nat := (n - 1) * tile + 15 * row + nb

/-- The checks of an operand: alignment, then pool bounds (R218, R219, R221). -/
def Core.needPair (c : Core) (u : UnitId) (j p : Word) (n tile nb : Nat) : Iss Unit := do
  need (pairBase j % 8 = 0) (alignFault j)
  need (pairRow p % 8 = 0 && tile % 8 = 0) (alignFault p)
  need (fld j 63 17 = 0) (boundsFault j)
  need (c.inScratch (poolSize u) (pairBase j) (footBytes n tile (pairRow p) nb)) (boundsFault j)

/-- WIN and SPR of operand pairs and the token (R218, R221). -/
def State.checkPairs (s : State) (pairs : List Reg) (dst : Reg) : Iss Unit := do
  s.checkRegs (pairs.flatMap fun j => if pairReg j then [j, j + 1] else [j]) [dst] true
  need (pairs.all pairReg) illSpr

/-- The two registers of a pair. -/
def pairRegs (j : Reg) : List Reg := [j, j + 1]

/-! ## Queueing (R221) -/

/-- Cycles of one MMAC step: the most distinct bank units that its 32 rows need from one bank (R220). -/
def stepCycles (rows : List (Nat × Nat)) : Nat :=
  let units := (rows.flatMap fun r => (List.range ((r.1 + r.2 - 1) / 32 + 1 - r.1 / 32)).map fun i => r.1 / 32 + i).eraseDups
  (List.range 32).foldl (fun m b => max m (units.filter fun x => x % 32 == b).length) 1

/-- The rows of an MMAC step. -/
def stepRows (m : BitVec 11) (k : Nat) (aOff aPitch bOff bPitch : Word) (st : Nat) : List (Nat × Nat) :=
  let rows := fun (f : Option Fmt) (j p : Word) =>
    (List.range 16).map fun r => (pairBase j + st * pairTile p + r * pairRow p, rowBytes (f.getD .i8) k)
  rows (mfmtA m) aOff aPitch ++ rows (mfmtB m) bOff bPitch

/-- Cycles a command occupies the unit (R221). -/
def MCmd.time (x : MCmd) : Nat :=
  match x.op with
  | .zero _ => tileUnits x.mfmt
  | .mmac _ n aOff aPitch bOff bPitch =>
    8 + ((List.range n).map fun st => stepCycles (stepRows x.mfmt ((matRow x.mfmt).getD 1) aOff aPitch bOff bPitch st)).sum
  | _ => 20

/-- Start the unit on the command at the head of its queue. -/
def State.startMatrix (s : State) (u : UnitId) : State :=
  match (s.core u).mq with
  | x :: _ => s.schedule (s.cycle + s.slowed u x.time) rankUnit .matrixCommandCompletion (.tid u x.tid 0)
  | [] => s

/-- Queue a checked command: entries, ranges and samples (R221, steps 2 and 3). -/
def State.matQueue (s : State) (op : MOp) (token : Option Reg) (ranges : List (Bool × Nat × Nat)) : Iss State := do
  let u := s.curUnit
  let c := s.curCore
  match token with
  | some a => s.waitDst a
  | none => .ok ()
  need (c.mq.length < 16) (.wait .matQueue)
  c.needLocks ranges.length
  let (tid, s) := s.fresh
  let x : MCmd :=
    { tid := tid, op := op, mfmt := c.mfmt, msca := c.msca, mscb := c.mscb, cbk0 := c.cbk0, cbk1 := c.cbk1, mode := s.cur.mode }
  let s := s.addLocks u (ranges.map fun r => poolLock r.1 ownerMat tid r.2.1 r.2.2)
  let s := s.modCore u fun c => { c with mq := c.mq ++ [x] }
  let s := if c.mq = [] then s.startMatrix u else s
  .ok (match token with
    | some a => (s.addToken tid a).advance
    | none => s.advance)

/-- A matrix instruction: OPC on a service core, whatever the guard (R215). -/
def matIssue (g : Guard) (s : State) (f : State → Iss State) : Out :=
  if isService s.curUnit then .next (s.exactFault { code := 1, sub := 1 }) else issue g s f

/-! ## Tiles (R216) -/

/-- The offset of element (r, c) of a tile. -/
def Core.tileAt (c : Core) (m : BitVec 11) (acc r col : Nat) : Nat :=
  c.rfEnd + 1024 * acc + (if mfmtAcc m = 0 then 8 else 4) * (16 * r + col)

/-- The bits of an element. -/
def Core.tileRead (c : Core) (m : BitVec 11) (acc r col : Nat) : Word :=
  BitVec.ofNat 64 (c.poolRead (c.tileAt m acc r col) (if mfmtAcc m = 0 then 8 else 4))

/-- A tile of new elements, written whole. -/
def Core.tileWrite (c : Core) (m : BitVec 11) (acc : Nat) (f : Nat → Nat → Word) : Core :=
  let n := if mfmtAcc m = 0 then 8 else 4
  c.poolWrite (c.tileAt m acc 0 0)
    ((List.range 256).flatMap fun i => bytesOf n (f (i / 16) (i % 16)).toNat)

/-- The elements of a tile by row, as they stand. -/
def Core.tileRows (c : Core) (m : BitVec 11) (acc : Nat) : List (List Word) :=
  (List.range 16).map fun r => (List.range 16).map fun col => c.tileRead m acc r col

/-- Element (r, c) of rows. -/
def cell (rows : List (List Word)) (r c : Nat) : Word := (rows.getD r []).getD c 0

/-- Poison (R216). -/
def poison : Word := 0x8000000000000000#64

/-! ## Products and sums (R163, R224, R225) -/

/-- T of R163. -/
def lg6T (f : Nat) : Nat := [256, 304, 362, 431].getD f 0

/-- The product of two LG6 codes in units, or poison (R163). -/
def lg6Prod (lxm : Bool) (a b : Nat) : Option Int :=
  let bad := fun x => x % 32 == 31 || x == 0x20
  if lxm && (bad a || bad b) then none
  else if a % 32 = 0 || b % 32 = 0 then some 0
  else
    let e := a / 4 % 8 + b / 4 % 8
    let f := a % 4 + b % 4
    let units : Int := lg6T (f % 4) * 2 ^ (e + f / 4)
    some (if a.testBit 5 != b.testBit 5 then -units else units)

/-- A step's sum into an exact element (R224). -/
def exactStep (lxm : Bool) (acc : Word) (ps : List (Option Int)) : Word :=
  if lxm && (acc == poison || ps.any (·.isNone)) then poison
  else acc + BitVec.ofInt 64 (ps.foldl (fun t p => t + p.getD 0) 0)

/-- The product of two floating-point operands, as a term of a sum (R225). -/
def fpTerm (a b : Num) : Num :=
  match a, b with
  | .nan s, y => .nan (s || y == .nan true)
  | x, .nan s => .nan (s || x == .nan true)
  | x, y => (mulNum x y).getD (.nan true)

/-- binary32. -/
def f32 : FpFmt := ⟨8, 23⟩

/-- An exact sum rounded once by RNE to f32 (R225). -/
def sum32 (xs : List Num) : Word × FpFlags := (xs.foldl (fun a x => a.push 0 x) ({} : SumAcc)).done f32 0

/-- Rows of operand elements of an MMAC step. -/
def Core.stepElems (c : Core) (f : Fmt) (k : Nat) (j p : Word) (st : Nat) : List (List Word) :=
  (List.range 16).map fun r => c.vecRead f (pairBase j + st * pairTile p + r * pairRow p) k

/-- The element of a tile after one step, with flags (R224, R225). -/
def MCmd.stepElem (x : MCmd) (fa fb : Fmt) (acc : Word) (as bs : List Word) : Word × FpFlags :=
  let lxm := mfmtLxm x.mfmt
  if mfmtAcc x.mfmt = 0 then
    let byteVal := fun (f : Fmt) (v : Word) => if f == .q4 then codeByte x.cbk0 x.cbk1 (v.toNat % 16) else intElem .i8 v
    let prod := fun (a b : Word) => if fa == .lg6 then lg6Prod lxm a.toNat b.toNat else some (byteVal fa a * byteVal fb b)
    (exactStep lxm acc ((as.zip bs).map fun p => prod p.1 p.2), 0)
  else
    let num := fun (f : Fmt) (v : Word) => decodeNum ⟨lxm, 0, 0⟩ f v
    sum32 (f32.num acc :: (as.zip bs).map fun p => fpTerm (num fa p.1) (num fb p.2))

/-- One k-step on a whole tile (R224). -/
def MCmd.step (x : MCmd) (c : Core) (aOff aPitch bOff bPitch : Word) (t : List (List Word) × FpFlags) (st : Nat) :
    List (List Word) × FpFlags :=
  let fa := (mfmtA x.mfmt).getD .i8
  let fb := (mfmtB x.mfmt).getD .i8
  let k := (matRow x.mfmt).getD 1
  let as := c.stepElems fa k aOff aPitch st
  let bs := c.stepElems fb k bOff bPitch st
  let rows := (t.1.zip as).map fun ra => (ra.1.zip bs).map fun eb => x.stepElem fa fb eb.1 ra.2 eb.2
  (rows.map fun r => r.map (·.1), rows.foldl (fun f r => r.foldl (fun f e => f ||| e.2) f) t.2)

/-! ## Effects (R223 to R228) -/

/-- Pool bytes written as own-pool writes, a new tile if any, token and flags. -/
structure MRes where
  tile : Option (Nat × List (List Word)) := none
  writes : List (Nat × List Byte) := []
  token : Word := 0
  flags : FpFlags := 0
deriving DecidableEq, Repr

/-- A row or column sum (R226). -/
def MCmd.lineSum (x : MCmd) (xs : List Word) : Word × FpFlags :=
  if mfmtAcc x.mfmt = 0 then
    (if mfmtLxm x.mfmt && xs.contains poison then poison else xs.foldl (· + ·) 0, 0)
  else sum32 (xs.map f32.num)

/-- Rows whose elements all come from one function of row and column. -/
def rowsOf (f : Nat → Nat → Word) : List (List Word) := (List.range 16).map fun r => (List.range 16).map fun c => f r c

/-- The sums of 16 lines, spread over rows or columns (R226). -/
def MCmd.sums (x : MCmd) (dst : Nat) (line : Nat → List Word) (byRow : Bool) : MRes :=
  let ss := (List.range 16).map fun i => x.lineSum (line i)
  { tile := some (dst, rowsOf fun r c => (ss.getD (if byRow then r else c) (0, 0)).1),
    flags := ss.foldl (fun f p => f ||| p.2) 0 }

/-- u of R227 and R228. -/
def MCmd.unitExp (x : MCmd) : Int := if mfmtA x.mfmt == some .lg6 then 16 else 0

/-- The element of a tile that MLDA forms (R227). -/
def MCmd.loadElem (x : MCmd) (fmt : Fmt) (v : Word) : Word × FpFlags :=
  if mfmtAcc x.mfmt = 0 then (BitVec.ofInt 64 (intElem fmt v * 2 ^ x.unitExp.toNat), 0)
  else convert ⟨mfmtLxm x.mfmt, x.cbk0, x.cbk1⟩ .f32 fmt x.mode 0 v

/-- The value MSTA encodes for an element (R228). -/
def MCmd.storeNum (x : MCmd) (v : Word) (e : Int) : Num :=
  if mfmtAcc x.mfmt = 0 then
    (if mfmtLxm x.mfmt && v == poison then .nan false else (intNum v.toInt).scale (e - x.unitExp))
  else (f32.num v).scale e

/-- The scale bytes of MSTA (R228). -/
def Core.scaleBytes (c : Core) (sc : Bool) (off : Nat) : List Int :=
  (List.range 16).map fun i => if sc then (c.poolByte (off + i)).toInt else 0

/-- MSTA's rows (R228), with the flags of R171. -/
def MCmd.storeTile (x : MCmd) (c : Core) (fmt : Fmt) (acc : Nat) (off pitch : Word) (s : BitVec 8) (sc : Bool) : MRes :=
  let rows := c.tileRows x.mfmt acc
  let sa := c.scaleBytes sc x.msca.toNat
  let sb := c.scaleBytes sc x.mscb.toNat
  let num := fun r col => x.storeNum (cell rows r col) (sa.getD r 0 + sb.getD col 0 + s.toInt)
  let ctx : FmtCtx := ⟨mfmtLxm x.mfmt, x.cbk0, x.cbk1⟩
  let enc := fun r col => let v := num r col; let (w, f) := encodeNum ctx fmt x.mode v; (w, f ||| sigFlag v ||| infFlags fmt v)
  let w := fmtBits fmt
  let nb := rowBytes fmt 16
  let es := (List.range 16).map fun r => (List.range 16).map fun col => enc r col
  { writes := es.zipIdx.map fun p =>
      (pairBase off + p.2 * pairRow pitch,
       bytesOf nb ((p.1.zipIdx.map fun q => q.1.1.toNat % 2 ^ w * 2 ^ (w * q.2)).sum)),
    token := BitVec.ofNat 64 ((List.range 256).filter fun i => (num (i / 16) (i % 16)).isNaN).length,
    flags := es.foldl (fun f r => r.foldl (fun f e => f ||| e.2) f) 0 }

/-- The effect of a matrix command. -/
def MCmd.run (x : MCmd) (c : Core) : MRes :=
  let rows := fun acc => c.tileRows x.mfmt acc
  match x.op with
  | .zero acc => { tile := some (acc, rowsOf fun _ _ => 0) }
  | .mmac acc n aOff aPitch bOff bPitch =>
    let (t, f) := (List.range n).foldl (x.step c aOff aPitch bOff bPitch) (rows acc, 0)
    { tile := some (acc, t), flags := f }
  | .transpose src dst => let t := rows src; { tile := some (dst, rowsOf fun r col => cell t col r) }
  | .perm src dst off =>
    let t := rows src
    { tile := some (dst, rowsOf fun r col =>
        let k := (c.poolByte (off + r)).toNat
        if k < 16 then cell t k col else 0) }
  | .rsum src dst => let t := rows src; x.sums dst (fun r => t.getD r []) true
  | .csum src dst => let t := rows src; x.sums dst (fun col => t.map fun r => r.getD col 0) false
  | .exch src dst i j =>
    let t := rows src
    { tile := some (dst, rowsOf fun r col => cell t (if r = i then j else if r = j then i else r) col) }
  | .lda fmt acc off pitch =>
    let es := (List.range 16).map fun r => (c.vecRead fmt (pairBase off + r * pairRow pitch) 16).map (x.loadElem fmt)
    { tile := some (acc, es.map fun r => r.map (·.1)), flags := es.foldl (fun f r => r.foldl (fun f e => f ||| e.2) f) 0 }
  | .sta fmt acc off pitch s sc => x.storeTile c fmt acc off pitch s sc

/-- MATRIX_COMMAND_COMPLETION (R221, step 5). -/
def execMatrixCommandCompletion (s : State) : Out :=
  match s.arg with
  | .tid u tid _ =>
    match (s.core u).mq with
    | x :: rest =>
      if x.tid ≠ tid then .next s
      else
        let r := x.run (s.core u)
        let s := match r.tile with
          | some (acc, t) => s.modCore u fun c => c.tileWrite x.mfmt acc fun i j => cell t i j
          | none => s
        let s := r.writes.foldl (fun s w => s.enginePut u ownerMat tid w.1 w.2) s
        let s := s.modCore u fun c => { c with mq := rest }
        .next (((s.freeLocks u tid .matQueue).startMatrix u).landToken u tid r.token r.flags)
    | [] => .next s
  | _ => .next s

/-! ## The instructions (R222) -/

/-- MZERO (R223). -/
def execMzero (g : Guard) (acc : BitVec 4) (s : State) : Out :=
  matIssue g s fun s => do
    needKind s.curCore.mfmt
    s.curCore.needAcc s.curCore.mfmt acc.toNat
    s.matQueue (.zero acc.toNat) none []

/-- MMAC (R224). -/
def execMmac (g : Guard) (a b c : Reg) (acc : BitVec 4) (steps1 : BitVec 8) (s : State) : Out :=
  matIssue g s fun s => do
    s.checkPairs [b, c] a
    let (vs, s) ← s.readSrcs (pairRegs b ++ pairRegs c)
    let m := s.curCore.mfmt
    match matRow m with
    | none => .error matFmt
    | some k => do
      let n := steps1.toNat + 1
      let v := fun i => vs.getD i 0
      let u := s.curUnit
      let na := rowBytes ((mfmtA m).getD .i8) k
      let nb := rowBytes ((mfmtB m).getD .i8) k
      s.curCore.needAcc m acc.toNat
      s.curCore.needPair u (v 0) (v 1) n (pairTile (v 1)) na
      s.curCore.needPair u (v 2) (v 3) n (pairTile (v 3)) nb
      s.matQueue (.mmac acc.toNat n (v 0) (v 1) (v 2) (v 3)) (some a)
        [(false, pairBase (v 0), footBytes n (pairTile (v 1)) (pairRow (v 1)) na),
         (false, pairBase (v 2), footBytes n (pairTile (v 3)) (pairRow (v 3)) nb)]

/-- The checks common to MXF (R216, R221). -/
def mxfCheck (s : State) (src dst : BitVec 4) : Iss Unit := do
  needKind s.curCore.mfmt
  s.curCore.needAcc s.curCore.mfmt src.toNat
  s.curCore.needAcc s.curCore.mfmt dst.toNat

/-- An MXF without a pool operand (R226). -/
def mxfOp (s : State) (a : Reg) (src dst : BitVec 4) (op : MOp) : Iss State := do
  s.checkRegs [] [a] true
  mxfCheck s src dst
  s.matQueue op (some a) []

/-- MXF.TRANSPOSE (R226). -/
def execMxfTranspose (g : Guard) (a : Reg) (src dst : BitVec 4) (s : State) : Out :=
  matIssue g s fun s => mxfOp s a src dst (.transpose src.toNat dst.toNat)

/-- MXF.PERM (R226). -/
def execMxfPerm (g : Guard) (a b : Reg) (src dst : BitVec 4) (s : State) : Out :=
  matIssue g s fun s => do
    s.checkRegs [b] [a] true
    let (v, s) ← s.read1 b
    mxfCheck s src dst
    let off ← offsetOf v
    need (s.curCore.inScratch (poolSize s.curUnit) off 16) (boundsFault v)
    s.matQueue (.perm src.toNat dst.toNat off) (some a) [(false, off, 16)]

/-- MXF.RSUM (R226). -/
def execMxfRsum (g : Guard) (a : Reg) (src dst : BitVec 4) (s : State) : Out :=
  matIssue g s fun s => mxfOp s a src dst (.rsum src.toNat dst.toNat)
/-- MXF.CSUM (R226). -/
def execMxfCsum (g : Guard) (a : Reg) (src dst : BitVec 4) (s : State) : Out :=
  matIssue g s fun s => mxfOp s a src dst (.csum src.toNat dst.toNat)
/-- MXF.EXCH (R226). -/
def execMxfExch (g : Guard) (a : Reg) (src dst i j : BitVec 4) (s : State) : Out :=
  matIssue g s fun s => mxfOp s a src dst (.exch src.toNat dst.toNat i.toNat j.toNat)

/-- The source formats of MLDA (R227). -/
def mldaFmt (acc : Nat) : Fmt → Bool
  | .i64 | .i32 | .z32 | .i8 => acc == 0
  | .f64 | .f32 | .f16 | .bf16 => acc == 1
  | _ => false

/-- MLDA (R227). -/
def execMlda (g : Guard) (fmt : Fmt) (a b : Reg) (acc : BitVec 4) (s : State) : Out :=
  matIssue g s fun s => do
    s.checkPairs [b] a
    let (vs, s) ← s.readSrcs (pairRegs b)
    let m := s.curCore.mfmt
    let u := s.curUnit
    let j := vs.getD 0 0
    let p := vs.getD 1 0
    let nb := rowBytes fmt 16
    need ((matRow m).isSome && mldaFmt (mfmtAcc m) fmt) matFmt
    s.curCore.needAcc m acc.toNat
    s.curCore.needPair u j p 1 0 nb
    s.matQueue (.lda fmt acc.toNat j p) (some a) [(false, pairBase j, footBytes 1 0 (pairRow p) nb)]

/-- MSTA (R228). -/
def execMsta (g : Guard) (fmt : Fmt) (sc : Bool) (a b : Reg) (acc : BitVec 4) (sh : BitVec 8) (s : State) : Out :=
  matIssue g s fun s => do
    s.checkPairs [b] a
    let (vs, s) ← s.readSrcs (pairRegs b)
    let c := s.curCore
    let u := s.curUnit
    let j := vs.getD 0 0
    let p := vs.getD 1 0
    let nb := rowBytes fmt 16
    need (matRow c.mfmt).isSome matFmt
    c.needAcc c.mfmt acc.toNat
    c.needPair u j p 1 0 nb
    need (!sc || c.inScratch (poolSize u) c.msca.toNat 16) (boundsFault (c.msca.setWidth 64))
    need (!sc || c.inScratch (poolSize u) c.mscb.toNat 16) (boundsFault (c.mscb.setWidth 64))
    s.matQueue (.sta fmt acc.toNat j p sh sc) (some a)
      ((true, pairBase j, footBytes 1 0 (pairRow p) nb) ::
        (if sc then [(false, c.msca.toNat, 16), (false, c.mscb.toNat, 16)] else []))

end Sys2Proof.Machine
end

