-- ==== Sys2Proof/Machine/Misc.lean ====
section
/-! DEFINITION. Chain queues and the MISC instructions (04_register R107 to R109; 13_global R254, R255;
19_engine R352 to R363). -/

namespace Sys2Proof.Machine

/-! ## Chain queues (R352 to R354) -/

/-- QEOS (R354, R356). -/
def execQeos (g : Guard) (s : State) : Out :=
  issue g s fun s => do
    s.checkRegs [] [29] false
    need s.curCore.qoFree (.wait .qo)
    .ok (s.pushQo s.curUnit 0 true).advance

/-- QPOLL (R356). -/
def execQpoll (g : Guard) (s : State) : Out :=
  issue g s fun s => do
    s.checkRegs [28] [] false
    let c := s.curCore
    .ok (s.modCur fun x => x.setP 0 (!c.qi.isEmpty || fld c.qchain 15 15 = 0)).advance

/-- CHAIN_WORD_ARRIVAL (R352, R353): a word of a family that has ended here is discarded; one of a family that is still to be
decided here waits for that. -/
def execChainWordArrival (s : State) : Out :=
  match s.arg with
  | .chain u w _ fam =>
    if ((s.core u).cqOf fam).isNone then
      .next (if (s.core u).cq.any fun p => p.2.chain && p.2.fam.gen == 0 then s.modCore u fun c => { c with early := c.early ++ [(fam, w)] }
        else s)
    else
      let s := s.modCore u fun c => { c with qi := c.qi ++ [w] }
      .next ((s.wakeWhere u (· == .qi)).giveEvents u)
  | _ => .next s

/-- CHAIN_CREDIT (R352): a place has become free downstream. -/
def execChainCredit (s : State) : Out :=
  match s.arg with
  | .credit u fam =>
    if ((s.core u).cqOf fam).isNone then .next s
    else
      let s := (s.modCore u fun c => { c with qoOut := c.qoOut - 1 }).drainQo u
      .next (if (s.core u).qo.length < 8 then s.wakeWhere u (· == .qo) else s)
  | _ => .next s

/-! ## Control registers (R107, R109, R361) -/

/-- Write a copy channel's completion address. -/
def Core.setXcw (c : Core) (ch : Nat) (v : Word) : Core := { c with xcw := aset 0 c.xcw ch v }

/-- The value RDC reads (R109). -/
def State.ctrlRead (s : State) (num : Nat) : Word :=
  let x := s.cur
  let c := s.curCore
  let u := s.curUnit
  match num with
  | 0x00 => x.frm.setWidth 64
  | 0x01 => x.rkey
  | 0x02 => x.evc
  | 0x03 => x.ffrm.setWidth 64
  | 0x04 => x.fflim.setWidth 64
  | 0x10 => c.mfmt.setWidth 64
  | 0x11 => c.msca.setWidth 64
  | 0x12 => c.mscb.setWidth 64
  | 0x13 => if c.lxm then 1 else 0
  | 0x14 => c.cbk0
  | 0x15 => c.cbk1
  | 0x16 => c.qchain
  | 0x18 => aget 0 c.xcw 0
  | 0x19 => aget 0 c.xcw 1
  | 0x1A => aget 0 c.xcw 2
  | 0x1B => aget 0 c.xcw 3
  | 0x1C => c.timer
  | 0x1D => c.evto
  | 0x20 => c.poolw
  | 0x21 => c.gstop
  | 0x22 => c.viid.setWidth 64
  | 0x30 => s.gcyc
  | 0x31 => c.pscl.setWidth 64
  | 0x32 => c.pscr.setWidth 64
  | _ => BitVec.ofNat 64 u

/-- Registers with access SYS (R109). -/
def ctrlSys (num : Nat) : Bool := num == 0x04 || num == 0x20 || num == 0x21 || num == 0x22

/-- The check of a bobbin bound (R109): its 20 bits are aligned and within the limit; the reserved bits are ignored (R6). -/
def boundOk (v : Word) (limit : Nat) : Iss Unit := do
  need (v.toNat % 256 = 0) (alignFault v)
  need (fld v 19 0 ≤ limit) (boundsFault v)

/-- The effect of a WRC (R109, R361, R464): a register with access RO ignores it, and POOLW is POOLBUSY (R196). The flags
of a landing of the same cycle are ORed into a value written to FRM (R159). -/
def State.ctrlWrite (s : State) (num : Nat) (v : Word) : Iss State :=
  let u := s.curUnit
  let core := fun (f : Core → Core) => (.ok (s.modCurCore f) : Iss State)
  let slot := fun (f : Slot → Slot) => (.ok (s.modCur f) : Iss State)
  let xcw := fun (ch : Nat) => do
    need (v.toNat % 4 = 0) (alignFault v)
    core fun c => c.setXcw ch v
  match num with
  | 0x00 => slot fun x => ({ x with frm := v.setWidth 7 } : Slot).orFlags (if x.landed.1 = s.cycle then x.landed.2 else 0)
  | 0x01 => slot fun x => { x with rkey := v }
  | 0x03 => do
    boundOk v s.cur.fflim.toNat
    slot fun x => { x with ffrm := v.setWidth 20 }
  | 0x04 => do
    boundOk v (poolSize u - 4096)
    slot fun x => { x with fflim := v.setWidth 20 }
  | 0x10 => core fun c => { c with mfmt := v.setWidth 11 }
  | 0x11 => core fun c => { c with msca := v.setWidth 17 }
  | 0x12 => core fun c => { c with mscb := v.setWidth 17 }
  | 0x13 => core fun c => { c with mfmt := setBitN c.mfmt 10 (v.getLsbD 0) }
  | 0x14 => core fun c => { c with cbk0 := v }
  | 0x15 => core fun c => { c with cbk1 := v }
  | 0x18 => xcw 0
  | 0x19 => xcw 1
  | 0x1A => xcw 2
  | 0x1B => xcw 3
  | 0x1C => .ok (s.setTimer u v)
  | 0x1D => core fun c => { c with evto := v }
  | 0x20 => .error (.fault { code := 19 })
  | 0x21 => .ok (s.setGstop u v)
  | 0x22 => .ok (s.setViid u v)
  | _ => .ok s

/-- RDC (R361). -/
def execRdc (g : Guard) (a : Reg) (num : BitVec 16) (s : State) : Out :=
  issue g s fun s => do
    s.checkRegs [] [a] false
    s.waitDst a
    .ok (s.writeDst a (s.ctrlRead num.toNat)).advance

/-- WRC (R361). Its privilege fault is a fault of its own entry, after WIN and SPR (R83 step 5). -/
def execWrc (g : Guard) (b : Reg) (num : BitVec 16) (s : State) : Out :=
  issue g s fun s => do
    s.checkRegs [b] [] false
    need (!ctrlSys num.toNat || s.sysOf s.curUnit) privFault
    let (v, s) ← s.read1 b
    let s ← s.ctrlWrite num.toNat v
    .ok s.advance

/-- RDCYC (R361, R384). -/
def execRdcyc (g : Guard) (a : Reg) (s : State) : Out :=
  issue g s fun s => do
    s.checkRegs [] [a] false
    s.waitDst a
    .ok (s.writeDst a s.gcyc).advance

/-- EVWAIT (R362). -/
def execEvwait (g : Guard) (a : Reg) (mask : BitVec 3) (s : State) : Out :=
  issue g s fun s => do
    s.checkRegs [] [a] false
    s.waitDst a
    match s.curCore.takeEvent (poolSize s.curUnit) mask with
    | some (v, c) => .ok ((s.setCore s.curUnit c).writeDst a v).advance
    | none =>
      let n := s.curCore.evOrder
      let s := s.modCurCore fun c => { c with evOrder := n + 1 }
      .ok ((s.suspendCur (.event mask n)).modCur fun x => { x with replyDest := a })

/-! ## The journal (R254, R255, R363) -/

/-- STATE of R255. -/
def JState.code : JState → Nat | .free => 0 | .posted => 1 | .held => 2 | .refused => 3

/-- The status word of R255. -/
def JEntry.status (j : JEntry) : Word :=
  BitVec.ofNat 64 (j.st.code + j.cause.toNat * 2 ^ 8 + j.size.toNat * 2 ^ 16 + j.kind.toNat * 2 ^ 24 + j.slot * 2 ^ 26)

/-- JSTAT (R363). -/
def execJstat (g : Guard) (a b : Reg) (s : State) : Out :=
  issue g s fun s => do
    s.checkRegs [b] [a] false
    let (v, s) ← s.read1 b
    s.waitDst a
    .ok (s.writeDst a ((afind s.curCore.journal (fld v 5 0)).getD {}).status).advance

/-- JREPLAY (R254, R363). -/
def execJreplay (g : Guard) (a b : Reg) (s : State) : Out :=
  issue g s fun s => do
    s.checkRegs [b] [a] false
    let (v, s) ← s.read1 b
    s.waitDst a
    let k := fld v 5 0
    if ((afind s.curCore.journal k).getD {}).st = .refused then
      .ok ((s.repost s.curUnit k).writeDst a 1).advance
    else .ok (s.writeDst a 0).advance

end Sys2Proof.Machine
end

