-- ==== Sys2Proof/Machine/Order.lean ====
section
/-! DEFINITION. FENCE and RFENCE (15_ordering R290 to R293). -/

namespace Sys2Proof.Machine


/-- A fence of a kind and a scope (R290). -/
def fenceRun (kind : BitVec 2) (scope : Scope) : FenceRun :=
  { kind := kind, scope := scope, rfence := false, j := none, confirms := none }

/-- FENCE.rel (R291). -/
def execFenceRel (g : Guard) (scope : Scope) (s : State) : Out :=
  issue g s fun s => .ok (s.beginFence (fenceRun 0 scope))
/-- FENCE.acq (R291). -/
def execFenceAcq (g : Guard) (scope : Scope) (s : State) : Out :=
  issue g s fun s => .ok (s.beginFence (fenceRun 1 scope))
/-- FENCE.full (R291). -/
def execFenceFull (g : Guard) (scope : Scope) (s : State) : Out :=
  issue g s fun s => .ok (s.beginFence (fenceRun 2 scope))

/-- RFENCE waits as FENCE.full.pkg (R293). A command is queued here only once its shape record has been read, so there
is none to wait for. -/
def execRfence (g : Guard) (s : State) : Out :=
  issue g s fun s =>
    .ok (s.beginFence { fenceRun 2 .pkg with rfence := true })

end Sys2Proof.Machine
end

