-- ==== Sys2Proof/Machine/Dispatch.lean ====
section
/-! DEFINITION. The meaning of every instruction and device step, one arm each. -/

namespace Sys2Proof.Machine

def exec (i : Instr) (s : State) : Host.Outcome State Fault Refusal :=
  match i with
  | .br g off => Sys2Proof.Machine.execBr g off s
  | .call g off => Sys2Proof.Machine.execCall g off s
  | .jr g b => Sys2Proof.Machine.execJr g b s
  | .callr g b => Sys2Proof.Machine.execCallr g b s
  | .jtab g b c len => Sys2Proof.Machine.execJtab g b c len s
  | .exit g => Sys2Proof.Machine.execExit g s
  | .nop g => Sys2Proof.Machine.execNop g s
  | .trap g b code => Sys2Proof.Machine.execTrap g b code s
  | .add g w a b c => Sys2Proof.Machine.execAdd g w a b c s
  | .sub g w a b c => Sys2Proof.Machine.execSub g w a b c s
  | .mul g w a b c => Sys2Proof.Machine.execMul g w a b c s
  | .mulh g w a b c => Sys2Proof.Machine.execMulh g w a b c s
  | .mulhz g w a b c => Sys2Proof.Machine.execMulhz g w a b c s
  | .div g w a b c => Sys2Proof.Machine.execDiv g w a b c s
  | .divz g w a b c => Sys2Proof.Machine.execDivz g w a b c s
  | .rem g w a b c => Sys2Proof.Machine.execRem g w a b c s
  | .remz g w a b c => Sys2Proof.Machine.execRemz g w a b c s
  | .and g w a b c => Sys2Proof.Machine.execAnd g w a b c s
  | .or g w a b c => Sys2Proof.Machine.execOr g w a b c s
  | .xor g w a b c => Sys2Proof.Machine.execXor g w a b c s
  | .andn g w a b c => Sys2Proof.Machine.execAndn g w a b c s
  | .orn g w a b c => Sys2Proof.Machine.execOrn g w a b c s
  | .shl g w a b c => Sys2Proof.Machine.execShl g w a b c s
  | .shr g w a b c => Sys2Proof.Machine.execShr g w a b c s
  | .sra g w a b c => Sys2Proof.Machine.execSra g w a b c s
  | .rol g w a b c => Sys2Proof.Machine.execRol g w a b c s
  | .ror g w a b c => Sys2Proof.Machine.execRor g w a b c s
  | .min g w a b c => Sys2Proof.Machine.execMin g w a b c s
  | .max g w a b c => Sys2Proof.Machine.execMax g w a b c s
  | .minz g w a b c => Sys2Proof.Machine.execMinz g w a b c s
  | .maxz g w a b c => Sys2Proof.Machine.execMaxz g w a b c s
  | .clz g w a b => Sys2Proof.Machine.execClz g w a b s
  | .ctz g w a b => Sys2Proof.Machine.execCtz g w a b s
  | .popc g w a b => Sys2Proof.Machine.execPopc g w a b s
  | .brev g w a b => Sys2Proof.Machine.execBrev g w a b s
  | .bswap g w a b => Sys2Proof.Machine.execBswap g w a b s
  | .addi g w a b imm => Sys2Proof.Machine.execAddi g w a b imm s
  | .andi g w a b imm => Sys2Proof.Machine.execAndi g w a b imm s
  | .ori g w a b imm => Sys2Proof.Machine.execOri g w a b imm s
  | .xori g w a b imm => Sys2Proof.Machine.execXori g w a b imm s
  | .shli g w a b sh => Sys2Proof.Machine.execShli g w a b sh s
  | .shri g w a b sh => Sys2Proof.Machine.execShri g w a b sh s
  | .srai g w a b sh => Sys2Proof.Machine.execSrai g w a b sh s
  | .muli g w a b imm => Sys2Proof.Machine.execMuli g w a b imm s
  | .mini g w a b imm => Sys2Proof.Machine.execMini g w a b imm s
  | .maxi g w a b imm => Sys2Proof.Machine.execMaxi g w a b imm s
  | .ldi g a imm => Sys2Proof.Machine.execLdi g a imm s
  | .ldq g a imm => Sys2Proof.Machine.execLdq g a imm s
  | .padd g ln a b c => Sys2Proof.Machine.execPadd g ln a b c s
  | .psub g ln a b c => Sys2Proof.Machine.execPsub g ln a b c s
  | .pmin g ln a b c => Sys2Proof.Machine.execPmin g ln a b c s
  | .pmax g ln a b c => Sys2Proof.Machine.execPmax g ln a b c s
  | .pminz g ln a b c => Sys2Proof.Machine.execPminz g ln a b c s
  | .pmaxz g ln a b c => Sys2Proof.Machine.execPmaxz g ln a b c s
  | .pavg g ln a b c => Sys2Proof.Machine.execPavg g ln a b c s
  | .padds g ln a b c => Sys2Proof.Machine.execPadds g ln a b c s
  | .bfx g a b pos len1 => Sys2Proof.Machine.execBfx g a b pos len1 s
  | .bfxz g a b pos len1 => Sys2Proof.Machine.execBfxz g a b pos len1 s
  | .bfi g a b c pos len1 => Sys2Proof.Machine.execBfi g a b c pos len1 s
  | .lea g a b c sh imm => Sys2Proof.Machine.execLea g a b c sh imm s
  | .sel g a b c p neg => Sys2Proof.Machine.execSel g a b c p neg s
  | .cmp g cond comb w p b c => Sys2Proof.Machine.execCmp g cond comb w p b c s
  | .cmpi g cond comb w p b imm => Sys2Proof.Machine.execCmpi g cond comb w p b imm s
  | .plog g pk pj pi tt => Sys2Proof.Machine.execPlog g pk pj pi tt s
  | .psetw g b => Sys2Proof.Machine.execPsetw g b s
  | .pgetw g a => Sys2Proof.Machine.execPgetw g a s
  | .fallocFree g a b c x => Sys2Proof.Machine.execFallocFree g a b c x s
  | .fallocBound g a b c x => Sys2Proof.Machine.execFallocBound g a b c x s
  | .fallocSeq g a b c x => Sys2Proof.Machine.execFallocSeq g a b c x s
  | .fsetg g a b k => Sys2Proof.Machine.execFsetg g a b k s
  | .fsets g a b k => Sys2Proof.Machine.execFsets g a b k s
  | .fgo g a off => Sys2Proof.Machine.execFgo g a off s
  | .fsync g a b => Sys2Proof.Machine.execFsync g a b s
  | .fgets g a b k => Sys2Proof.Machine.execFgets g a b k s
  | .fbrk g => Sys2Proof.Machine.execFbrk g s
  | .fkill g b => Sys2Proof.Machine.execFkill g b s
  | .frel g b => Sys2Proof.Machine.execFrel g b s
  | .fself g a => Sys2Proof.Machine.execFself g a s
  | .fhand g a off => Sys2Proof.Machine.execFhand g a off s
  | .fbar g die => Sys2Proof.Machine.execFbar g die s
  | .frsmRetry g b => Sys2Proof.Machine.execFrsmRetry g b s
  | .frsmSkip g b => Sys2Proof.Machine.execFrsmSkip g b s
  | .frsmKill g b => Sys2Proof.Machine.execFrsmKill g b s
  | .fadd g d a b c => Sys2Proof.Machine.execFadd g d a b c s
  | .fsub g d a b c => Sys2Proof.Machine.execFsub g d a b c s
  | .fmul g d a b c => Sys2Proof.Machine.execFmul g d a b c s
  | .fdiv g d a b c => Sys2Proof.Machine.execFdiv g d a b c s
  | .fsqrt g d a b => Sys2Proof.Machine.execFsqrt g d a b s
  | .fmin g d a b c => Sys2Proof.Machine.execFmin g d a b c s
  | .fmax g d a b c => Sys2Proof.Machine.execFmax g d a b c s
  | .fabs g d a b => Sys2Proof.Machine.execFabs g d a b s
  | .fneg g d a b => Sys2Proof.Machine.execFneg g d a b s
  | .fma g d a b c => Sys2Proof.Machine.execFma g d a b c s
  | .fclass g d a b => Sys2Proof.Machine.execFclass g d a b s
  | .fcmp g cond d p b c => Sys2Proof.Machine.execFcmp g cond d p b c s
  | .cvt g dst src a b sh => Sys2Proof.Machine.execCvt g dst src a b sh s
  | .frnd g mode d a b => Sys2Proof.Machine.execFrnd g mode d a b s
  | .rngp g a b c d => Sys2Proof.Machine.execRngp g a b c d s
  | .rngf g a b => Sys2Proof.Machine.execRngf g a b s
  | .cadd g n1 sgn a b c => Sys2Proof.Machine.execCadd g n1 sgn a b c s
  | .csub g n1 sgn a b c => Sys2Proof.Machine.execCsub g n1 sgn a b c s
  | .cins g n1 a b c axis => Sys2Proof.Machine.execCins g n1 a b c axis s
  | .cext g n1 a b axis => Sys2Proof.Machine.execCext g n1 a b axis s
  | .clvl g n1 a b level => Sys2Proof.Machine.execClvl g n1 a b level s
  | .cenc g n1 a b => Sys2Proof.Machine.execCenc g n1 a b s
  | .cdec g n1 a b => Sys2Proof.Machine.execCdec g n1 a b s
  | .cpar g n1 a b => Sys2Proof.Machine.execCpar g n1 a b s
  | .cbox g n1 p b c d => Sys2Proof.Machine.execCbox g n1 p b c d s
  | .cnext g n1 a b c d => Sys2Proof.Machine.execCnext g n1 a b c d s
  | .csplit g n1 a b c d off m1 => Sys2Proof.Machine.execCsplit g n1 a b c d off m1 s
  | .ld g wd z a b imm => Sys2Proof.Machine.execLd g wd z a b imm s
  | .ldx g wd z a b c sh => Sys2Proof.Machine.execLdx g wd z a b c sh s
  | .st g wd a b imm => Sys2Proof.Machine.execSt g wd a b imm s
  | .stx g wd a b c sh => Sys2Proof.Machine.execStx g wd a b c sh s
  | .ldp g a b imm => Sys2Proof.Machine.execLdp g a b imm s
  | .stp g a b imm => Sys2Proof.Machine.execStp g a b imm s
  | .ldv g a b imm => Sys2Proof.Machine.execLdv g a b imm s
  | .stf g a b imm => Sys2Proof.Machine.execStf g a b imm s
  | .ssus g a b imm => Sys2Proof.Machine.execSsus g a b imm s
  | .semp g b imm => Sys2Proof.Machine.execSemp g b imm s
  | .ldt g a b imm => Sys2Proof.Machine.execLdt g a b imm s
  | .amoAdd g w a b c => Sys2Proof.Machine.execAmoAdd g w a b c s
  | .amoAnd g w a b c => Sys2Proof.Machine.execAmoAnd g w a b c s
  | .amoOr g w a b c => Sys2Proof.Machine.execAmoOr g w a b c s
  | .amoXor g w a b c => Sys2Proof.Machine.execAmoXor g w a b c s
  | .amoSwap g w a b c => Sys2Proof.Machine.execAmoSwap g w a b c s
  | .amoMin g w a b c => Sys2Proof.Machine.execAmoMin g w a b c s
  | .amoMax g w a b c => Sys2Proof.Machine.execAmoMax g w a b c s
  | .amoMinz g w a b c => Sys2Proof.Machine.execAmoMinz g w a b c s
  | .amoMaxz g w a b c => Sys2Proof.Machine.execAmoMaxz g w a b c s
  | .cas g w a b c d => Sys2Proof.Machine.execCas g w a b c d s
  | .fenceRel g scope => Sys2Proof.Machine.execFenceRel g scope s
  | .fenceAcq g scope => Sys2Proof.Machine.execFenceAcq g scope s
  | .fenceFull g scope => Sys2Proof.Machine.execFenceFull g scope s
  | .rfence g => Sys2Proof.Machine.execRfence g s
  | .vadd g x d bcast => Sys2Proof.Machine.execVadd g x d bcast s
  | .vsub g x d bcast => Sys2Proof.Machine.execVsub g x d bcast s
  | .vmul g x d bcast => Sys2Proof.Machine.execVmul g x d bcast s
  | .vfma g x d bcast => Sys2Proof.Machine.execVfma g x d bcast s
  | .vmin g x d bcast => Sys2Proof.Machine.execVmin g x d bcast s
  | .vmax g x d bcast => Sys2Proof.Machine.execVmax g x d bcast s
  | .vabs g x => Sys2Proof.Machine.execVabs g x s
  | .vneg g x => Sys2Proof.Machine.execVneg g x s
  | .vcvt g x src => Sys2Proof.Machine.execVcvt g x src s
  | .vexp2 g x => Sys2Proof.Machine.execVexp2 g x s
  | .vlog2 g x => Sys2Proof.Machine.execVlog2 g x s
  | .vrsq g x => Sys2Proof.Machine.execVrsq g x s
  | .vrcp g x => Sys2Proof.Machine.execVrcp g x s
  | .vsel g x d bcast => Sys2Proof.Machine.execVsel g x d bcast s
  | .vcmp g x d bcast cond => Sys2Proof.Machine.execVcmp g x d bcast cond s
  | .vsum g x => Sys2Proof.Machine.execVsum g x s
  | .vscan g x => Sys2Proof.Machine.execVscan g x s
  | .vgath g x d => Sys2Proof.Machine.execVgath g x d s
  | .vscat g x d => Sys2Proof.Machine.execVscat g x d s
  | .vrng g x d => Sys2Proof.Machine.execVrng g x d s
  | .vclr g a b fmt len => Sys2Proof.Machine.execVclr g a b fmt len s
  | .vcpy g x => Sys2Proof.Machine.execVcpy g x s
  | .mzero g acc => Sys2Proof.Machine.execMzero g acc s
  | .mmac g a b c acc steps1 => Sys2Proof.Machine.execMmac g a b c acc steps1 s
  | .mxfTranspose g a src dst => Sys2Proof.Machine.execMxfTranspose g a src dst s
  | .mxfPerm g a b src dst => Sys2Proof.Machine.execMxfPerm g a b src dst s
  | .mxfRsum g a src dst => Sys2Proof.Machine.execMxfRsum g a src dst s
  | .mxfCsum g a src dst => Sys2Proof.Machine.execMxfCsum g a src dst s
  | .mxfExch g a src dst off j => Sys2Proof.Machine.execMxfExch g a src dst off j s
  | .mlda g fmt a b acc => Sys2Proof.Machine.execMlda g fmt a b acc s
  | .msta g fmt sc a b acc sh => Sys2Proof.Machine.execMsta g fmt sc a b acc sh s
  | .xcopy g scope ch a b c d => Sys2Proof.Machine.execXcopy g scope ch a b c d s
  | .xshape g scope ch a b c d => Sys2Proof.Machine.execXshape g scope ch a b c d s
  | .xfill g scope ch a b c d => Sys2Proof.Machine.execXfill g scope ch a b c d s
  | .xwptr g a ch => Sys2Proof.Machine.execXwptr g a ch s
  | .qeos g => Sys2Proof.Machine.execQeos g s
  | .qpoll g => Sys2Proof.Machine.execQpoll g s
  | .rdjoin g a b c => Sys2Proof.Machine.execRdjoin g a b c s
  | .rdadd g a b c => Sys2Proof.Machine.execRdadd g a b c s
  | .rdfree g b => Sys2Proof.Machine.execRdfree g b s
  | .rdc g a num => Sys2Proof.Machine.execRdc g a num s
  | .wrc g b num => Sys2Proof.Machine.execWrc g b num s
  | .rdcyc g a => Sys2Proof.Machine.execRdcyc g a s
  | .evwait g a mask => Sys2Proof.Machine.execEvwait g a mask s
  | .jreplay g a b => Sys2Proof.Machine.execJreplay g a b s
  | .jstat g a b => Sys2Proof.Machine.execJstat g a b s
  | .wakeResume g a b c vi slot => Sys2Proof.Machine.execWakeResume g a b c vi slot s
  | .wakeFail g a b c vi slot => Sys2Proof.Machine.execWakeFail g a b c vi slot s
  | .wakeCell g a b c vi slot => Sys2Proof.Machine.execWakeCell g a b c vi slot s
  | .wakeGo g a b c vi slot => Sys2Proof.Machine.execWakeGo g a b c vi slot s
  | .slotsv g a b c core slot => Sys2Proof.Machine.execSlotsv g a b c core slot s
  | .slotld g a b c core slot => Sys2Proof.Machine.execSlotld g a b c core slot s
  | .stopatStop g a c vi dies => Sys2Proof.Machine.execStopatStop g a c vi dies s
  | .stopatGo g a c vi dies => Sys2Proof.Machine.execStopatGo g a c vi dies s
  | .pzero g a b c => Sys2Proof.Machine.execPzero g a b c s
  | .poolpart g a b c bob => Sys2Proof.Machine.execPoolpart g a b c bob s
  | .tinv g a b c op all vi dies => Sys2Proof.Machine.execTinv g a b c op all vi dies s
  | .pgver g a b => Sys2Proof.Machine.execPgver g a b s
  | .pgswap g a b c d vi => Sys2Proof.Machine.execPgswap g a b c d vi s
  | .selv g a b c => Sys2Proof.Machine.execSelv g a b c s
  | .imap g a b c dies => Sys2Proof.Machine.execImap g a b c dies s
  | .evpost g a b c vi gen sysm => Sys2Proof.Machine.execEvpost g a b c vi gen sysm s
  | .haltRetire g a b c slice => Sys2Proof.Machine.execHaltRetire g a b c slice s
  | .haltRemap g a b c slice => Sys2Proof.Machine.execHaltRemap g a b c slice s
  | .timerWrite => Sys2Proof.Machine.execTimerWrite s
  | .gstopWrite => Sys2Proof.Machine.execGstopWrite s
  | .viidWrite => Sys2Proof.Machine.execViidWrite s
  | .combiningRegisterWrite => Sys2Proof.Machine.execCombiningRegisterWrite s
  | .counterClearStore => Sys2Proof.Machine.execCounterClearStore s
  | .lineFetch => Sys2Proof.Machine.execLineFetch s
  | .slotAssignment => Sys2Proof.Machine.execSlotAssignment s
  | .handlerMemberStart => Sys2Proof.Machine.execHandlerMemberStart s
  | .asyncFaultDelivery => Sys2Proof.Machine.execAsyncFaultDelivery s
  | .longLatencyLanding => Sys2Proof.Machine.execLongLatencyLanding s
  | .forwardedSharedArrival => Sys2Proof.Machine.execForwardedSharedArrival s
  | .familyEnd => Sys2Proof.Machine.execFamilyEnd s
  | .killArrival => Sys2Proof.Machine.execKillArrival s
  | .reservationReply => Sys2Proof.Machine.execReservationReply s
  | .handleReply => Sys2Proof.Machine.execHandleReply s
  | .boundGrant => Sys2Proof.Machine.execBoundGrant s
  | .boundEnqueueRetry => Sys2Proof.Machine.execBoundEnqueueRetry s
  | .launchAdmission => Sys2Proof.Machine.execLaunchAdmission s
  | .admissionRetryTimer => Sys2Proof.Machine.execAdmissionRetryTimer s
  | .loadAtHome => Sys2Proof.Machine.execLoadAtHome s
  | .postedStoreAtHome => Sys2Proof.Machine.execPostedStoreAtHome s
  | .storeAcknowledgement => Sys2Proof.Machine.execStoreAcknowledgement s
  | .storeRefusal => Sys2Proof.Machine.execStoreRefusal s
  | .amoAtHome => Sys2Proof.Machine.execAmoAtHome s
  | .ldvAtHome => Sys2Proof.Machine.execLdvAtHome s
  | .ldvAcceptance => Sys2Proof.Machine.execLdvAcceptance s
  | .ldvReissueTimer => Sys2Proof.Machine.execLdvReissueTimer s
  | .parkedLdvTimeout => Sys2Proof.Machine.execParkedLdvTimeout s
  | .claimArrival => Sys2Proof.Machine.execClaimArrival s
  | .evaluatorStart => Sys2Proof.Machine.execEvaluatorStart s
  | .evaluatorClaimRetry => Sys2Proof.Machine.execEvaluatorClaimRetry s
  | .stfAtHome => Sys2Proof.Machine.execStfAtHome s
  | .ssusAtHome => Sys2Proof.Machine.execSsusAtHome s
  | .sempAtHome => Sys2Proof.Machine.execSempAtHome s
  | .wakeMulticastDelivery => Sys2Proof.Machine.execWakeMulticastDelivery s
  | .endNoticeAtHome => Sys2Proof.Machine.execEndNoticeAtHome s
  | .watchdogTest => Sys2Proof.Machine.execWatchdogTest s
  | .timerEvent => Sys2Proof.Machine.execTimerEvent s
  | .vectorCommandCompletion => Sys2Proof.Machine.execVectorCommandCompletion s
  | .matrixCommandCompletion => Sys2Proof.Machine.execMatrixCommandCompletion s
  | .csplitCompletion => Sys2Proof.Machine.execCsplitCompletion s
  | .copyGranule => Sys2Proof.Machine.execCopyGranule s
  | .copyCompletion => Sys2Proof.Machine.execCopyCompletion s
  | .chainWordArrival => Sys2Proof.Machine.execChainWordArrival s
  | .chainCredit => Sys2Proof.Machine.execChainCredit s
  | .reductionContribution => Sys2Proof.Machine.execReductionContribution s
  | .deliveryLanding => Sys2Proof.Machine.execDeliveryLanding s
  | .contributionAck => Sys2Proof.Machine.execContributionAck s
  | .peerStateArrival => Sys2Proof.Machine.execPeerStateArrival s
  | .crossDeviceRoundTimeout => Sys2Proof.Machine.execCrossDeviceRoundTimeout s
  | .rdjoinAtHome => Sys2Proof.Machine.execRdjoinAtHome s
  | .rdfreeAtHome => Sys2Proof.Machine.execRdfreeAtHome s
  | .multicastTokenGrant => Sys2Proof.Machine.execMulticastTokenGrant s
  | .multicastTokenRelease => Sys2Proof.Machine.execMulticastTokenRelease s
  | .combiningWindowClose => Sys2Proof.Machine.execCombiningWindowClose s
  | .replicaFill => Sys2Proof.Machine.execReplicaFill s
  | .replicaClear => Sys2Proof.Machine.execReplicaClear s
  | .replicaClearConfirm => Sys2Proof.Machine.execReplicaClearConfirm s
  | .syncStop => Sys2Proof.Machine.execSyncStop s
  | .shuttleLaunch => Sys2Proof.Machine.execShuttleLaunch s
  | .shuttleReturn => Sys2Proof.Machine.execShuttleReturn s
  | .stationSave => Sys2Proof.Machine.execStationSave s
  | .zeroFillComplete => Sys2Proof.Machine.execZeroFillComplete s
  | .linkBundleFailure => Sys2Proof.Machine.execLinkBundleFailure s
  | .uncorrectableError => Sys2Proof.Machine.execUncorrectableError s
  | .parityReplay => Sys2Proof.Machine.execParityReplay s
  | .healdEventRetry => Sys2Proof.Machine.execHealdEventRetry s
  | .throttleUpdate => Sys2Proof.Machine.execThrottleUpdate s
  | .thermalTrip => Sys2Proof.Machine.execThermalTrip s
  | .powerOn => Sys2Proof.Machine.execPowerOn s
  | .computeDieRelease => Sys2Proof.Machine.execComputeDieRelease s
  | .timeSliceEnd => Sys2Proof.Machine.execTimeSliceEnd s
  | .launch => Sys2Proof.Machine.execLaunch s
  | .copyin => Sys2Proof.Machine.execCopyin s
  | .copyout => Sys2Proof.Machine.execCopyout s
  | .define => Sys2Proof.Machine.execDefine s
  | .weight => Sys2Proof.Machine.execWeight s
  | .reset => Sys2Proof.Machine.execReset s
  | .undefine => Sys2Proof.Machine.execUndefine s
  | .hostreg => Sys2Proof.Machine.execHostreg s
  | .store => Sys2Proof.Machine.execStore s
  | .group => Sys2Proof.Machine.execGroup s
  | .attest => Sys2Proof.Machine.execAttest s
  | .storage => Sys2Proof.Machine.execStorage s
  | .merge => Sys2Proof.Machine.execMerge s
  | .qsetup => Sys2Proof.Machine.execQsetup s
  | .doorbell => Sys2Proof.Machine.execDoorbell s
  | .rmaWrite => Sys2Proof.Machine.execRmaWrite s
  | .rmaRead => Sys2Proof.Machine.execRmaRead s
  | .quiesce => Sys2Proof.Machine.execQuiesce s
  | .answer => Sys2Proof.Machine.execAnswer s
  | .proceed => Sys2Proof.Machine.execProceed s
  | .ready => Sys2Proof.Machine.execReady s
  | .abort => Sys2Proof.Machine.execAbort s
  | .done => Sys2Proof.Machine.execDone s
  | .mergeTimeout => Sys2Proof.Machine.execMergeTimeout s
  | .gcycAdvance => Sys2Proof.Machine.execGcycAdvance s
  | .evaluatorReport => Sys2Proof.Machine.execEvaluatorReport s
  | .breakKillFaultReport => Sys2Proof.Machine.execBreakKillFaultReport s
  | .lineWriteBack => Sys2Proof.Machine.execLineWriteBack s
  | .heldRefusalRelease => Sys2Proof.Machine.execHeldRefusalRelease s
  | .lateWakeMulticast => Sys2Proof.Machine.execLateWakeMulticast s
  | .notsupRequest => Sys2Proof.Machine.execNotsupRequest s
  | .ueNotSupported => Sys2Proof.Machine.execUeNotSupported s
  | .serviceCoreReassign => Sys2Proof.Machine.execServiceCoreReassign s

end Sys2Proof.Machine
end

