-- ==== Sys2Proof/Machine/Step.lean ====
section
/-! DEFINITION. One step of the module: the first due entry of the agenda, else the next issue of this cycle, else
the next cycle. -/

namespace Sys2Proof.Machine

/-- One step. The delivery of a kept fault and the judging of a PC that heads no line take no issue of their core: it may
issue another slot in the same cycle (assumption log 42, DESIGN CHOICE). -/
def step (s : State) : Host.Outcome State Fault Refusal :=
  match s.due with
  | some p => exec p.ev.ins (s.take p)
  | none =>
    match s.pick with
    | some (u, i) =>
      match (s.slot u i).turn with
      | .deliver => exec .asyncFaultDelivery (s.atSlot u i false (.slot u i))
      | .fetch => exec .lineFetch ((s.atSlot u i true (.slot u i)).countIssue u i)
      | .judge => exec .lineFetch (s.atSlot u i false (.slot u i))
      | .again g => .next (((s.atSlot u i true .none).countIssue u i).again g)
      | .illegal e => .next (((s.atSlot u i true .none).countIssue u i).illegal e)
      | .issue ins => exec ins ((s.atSlot u i true .none).countIssue u i)
    | none => exec .gcycAdvance { s with arg := .none }

/-- The state whose next step fetches and runs the instruction of an opcode-table word. -/
def State.withFetchWord (s : State) (nbits w : Nat) : State := s.withWord nbits w

end Sys2Proof.Machine
end

