-- ==== Sys2Proof/Safety.lean ====
section
/-! DEFINITION. What the statements of Certificates/Slice0/Obligations.lean are written in terms of: when an instruction
issues, what the rules of the spec give as its result in the arithmetic of whole numbers, and the invariants of a step. -/

namespace Sys2Proof.Machine

/-! ## When an instruction issues -/

/-- The issuing member may run an instruction with guard `g`, sources `srcs` and destinations `dsts` (`long`: left
pending): the guard holds (R68), every register is one its place allows (R35, R75), the sources read as `vs`, leaving `t`
(R36, R75), and every destination takes a result (R37). -/
structure State.Ready (s : State) (g : Guard) (srcs dsts : List Reg) (long : Bool) (vs : List Word) (t : State) : Prop where
  guard : s.cur.guard g = true
  named : s.checkRegs srcs dsts long = .ok ()
  read : s.readSrcs srcs = .ok (vs, t)
  dest : ∀ d ∈ dsts, t.waitDst d = .ok ()

/-- A source that any member may read at once: `z`, `ix`, `ln`, or a declared window register that is Full (R35, R36, R74). -/
def Slot.plainSrc (x : Slot) (r : Reg) : Prop :=
  r = 0 ∨ r = 30 ∨ r = 31 ∨ (isWindow r = true ∧ x.role r.toNat ≠ .undeclared ∧ x.isFull r.toNat = true)

/-- A destination that takes a result at once: `z`, `ln` with no write outstanding, a local that is not Pending, or a shared
that is Empty (R35, R37, R74). -/
def Slot.plainDst (x : Slot) (r : Reg) : Prop :=
  r = 0 ∨ (r = 31 ∧ x.lnPend = false) ∨
  (isWindow r = true ∧ x.isPend r.toNat = false ∧
    (x.role r.toNat = .loc ∨ (x.role r.toNat = .shared ∧ x.isFull r.toNat = false)))

/-! ## Results as whole numbers -/

/-- The width of an integer instruction (R114). -/
def bits (w : Bool) : Nat := if w then 32 else 64
/-- A whole number as a result of the instruction's width, a 32-bit one sign-extended (R114). -/
def result (w : Bool) (v : Int) : Word := if w then (BitVec.ofInt 32 v).signExtend 64 else BitVec.ofInt 64 v
/-- A source as a signed number of the instruction's width. -/
def signed (w : Bool) (x : Word) : Int := if w then (x.setWidth 32).toInt else x.toInt
/-- A source as an unsigned number of the instruction's width. -/
def unsigned (w : Bool) (x : Word) : Nat := x.toNat % 2 ^ bits w
/-- A shift or rotate count (R113, R114). -/
def count (w : Bool) (x : Word) : Nat := x.toNat % bits w
/-- Bit `k` of a number. -/
def bitOf (v k : Nat) : Nat := v / 2 ^ k % 2
/-- The sum of `f` over the numbers below `n`. -/
def sumOf (n : Nat) (f : Nat → Nat) : Nat := ((List.range n).map f).sum

/-- The value of a three-register integer instruction from its two sources (R113, R114). -/
def iop2Value : Instr → Option (Guard × Reg × Reg × Reg × (Word → Word → Word))
  | .add g w a b c => some (g, a, b, c, fun x y => result w (signed w x + signed w y))
  | .sub g w a b c => some (g, a, b, c, fun x y => result w (signed w x - signed w y))
  | .mul g w a b c => some (g, a, b, c, fun x y => result w (signed w x * signed w y))
  | .mulh g w a b c => some (g, a, b, c, fun x y => result w (signed w x * signed w y / 2 ^ bits w))
  | .mulhz g w a b c => some (g, a, b, c, fun x y => result w ((unsigned w x * unsigned w y / 2 ^ bits w : Nat)))
  | .and g w a b c => some (g, a, b, c, fun x y => result w (unsigned w x &&& unsigned w y : Nat))
  | .or g w a b c => some (g, a, b, c, fun x y => result w (unsigned w x ||| unsigned w y : Nat))
  | .xor g w a b c => some (g, a, b, c, fun x y => result w (unsigned w x ^^^ unsigned w y : Nat))
  | .andn g w a b c => some (g, a, b, c, fun x y => result w (unsigned w x &&& unsigned w (~~~y) : Nat))
  | .orn g w a b c => some (g, a, b, c, fun x y => result w (unsigned w x ||| unsigned w (~~~y) : Nat))
  | .shl g w a b c => some (g, a, b, c, fun x y => result w (unsigned w x * 2 ^ count w y : Nat))
  | .shr g w a b c => some (g, a, b, c, fun x y => result w (unsigned w x / 2 ^ count w y : Nat))
  | .sra g w a b c => some (g, a, b, c, fun x y => result w (signed w x / 2 ^ count w y))
  | .rol g w a b c => some (g, a, b, c, fun x y =>
      result w (unsigned w x * 2 ^ count w y + unsigned w x / 2 ^ (bits w - count w y) : Nat))
  | .ror g w a b c => some (g, a, b, c, fun x y =>
      result w (unsigned w x / 2 ^ count w y + unsigned w x * 2 ^ (bits w - count w y) : Nat))
  | .min g w a b c => some (g, a, b, c, fun x y => result w (min (signed w x) (signed w y)))
  | .max g w a b c => some (g, a, b, c, fun x y => result w (max (signed w x) (signed w y)))
  | .minz g w a b c => some (g, a, b, c, fun x y => result w (min (unsigned w x) (unsigned w y) : Nat))
  | .maxz g w a b c => some (g, a, b, c, fun x y => result w (max (unsigned w x) (unsigned w y) : Nat))
  | _ => none

/-- The value of a two-register integer instruction, or of one with an immediate, from its source (R113, R114, R116). -/
def iop1Value : Instr → Option (Guard × Reg × Reg × (Word → Word))
  | .clz g w a b => some (g, a, b, fun x =>
      result w (if unsigned w x = 0 then bits w else bits w - 1 - (unsigned w x).log2 : Nat))
  | .ctz g w a b => some (g, a, b, fun x =>
      result w ((List.range (bits w)).takeWhile fun k => bitOf (unsigned w x) k = 0).length)
  | .popc g w a b => some (g, a, b, fun x => result w (sumOf (bits w) fun k => bitOf (unsigned w x) k))
  | .brev g w a b => some (g, a, b, fun x =>
      result w (sumOf (bits w) fun k => bitOf (unsigned w x) k * 2 ^ (bits w - 1 - k)))
  | .bswap g w a b => some (g, a, b, fun x =>
      result w (sumOf (bits w / 8) fun k => unsigned w x / 256 ^ k % 256 * 256 ^ (bits w / 8 - 1 - k)))
  | .addi g w a b i => some (g, a, b, fun x => result w (signed w x + i.toInt))
  | .andi g w a b i => some (g, a, b, fun x => result w (unsigned w x &&& unsigned w (i.signExtend 64) : Nat))
  | .ori g w a b i => some (g, a, b, fun x => result w (unsigned w x ||| unsigned w (i.signExtend 64) : Nat))
  | .xori g w a b i => some (g, a, b, fun x => result w (unsigned w x ^^^ unsigned w (i.signExtend 64) : Nat))
  | .muli g w a b i => some (g, a, b, fun x => result w (signed w x * i.toInt))
  | .mini g w a b i => some (g, a, b, fun x => result w (min (signed w x) i.toInt))
  | .maxi g w a b i => some (g, a, b, fun x => result w (max (signed w x) i.toInt))
  | .shli g w a b n => some (g, a, b, fun x => result w (unsigned w x * 2 ^ (n.toNat % bits w) : Nat))
  | .shri g w a b n => some (g, a, b, fun x => result w (unsigned w x / 2 ^ (n.toNat % bits w) : Nat))
  | .srai g w a b n => some (g, a, b, fun x => result w (signed w x / 2 ^ (n.toNat % bits w)))
  | .bfx g a b pos n => some (g, a, b, fun x => BitVec.ofInt 64 (Int.bmod (x.toNat / 2 ^ pos.toNat) (2 ^ (n.toNat + 1))))
  | .bfxz g a b pos n => some (g, a, b, fun x => BitVec.ofNat 64 (x.toNat / 2 ^ pos.toNat % 2 ^ (n.toNat + 1)))
  | _ => none

/-- A packed instruction: its lane width and what it makes of two lanes, taken as signed and as unsigned numbers (R118). -/
def packedValue : Instr → Option (Guard × Lane × Reg × Reg × Reg × (Int → Int → Int) × Bool)
  | .padd g l a b c => some (g, l, a, b, c, fun x y => x + y, false)
  | .psub g l a b c => some (g, l, a, b, c, fun x y => x - y, false)
  | .pmin g l a b c => some (g, l, a, b, c, fun x y => min x y, true)
  | .pmax g l a b c => some (g, l, a, b, c, fun x y => max x y, true)
  | .pminz g l a b c => some (g, l, a, b, c, fun x y => min x y, false)
  | .pmaxz g l a b c => some (g, l, a, b, c, fun x y => max x y, false)
  | .pavg g l a b c => some (g, l, a, b, c, fun x y => (x + y + 1) / 2, false)
  | .padds g l a b c => some (g, l, a, b, c, fun x y =>
      max (-(2 ^ (laneBits l - 1))) (min (2 ^ (laneBits l - 1) - 1) (x + y)), true)
  | _ => none

/-- Lane `j` of `w` bits of a word, signed or unsigned. -/
def laneValue (sgn : Bool) (w j : Nat) (x : Word) : Int :=
  if sgn then (x.extractLsb' (j * w) w).toInt else (x.extractLsb' (j * w) w).toNat


/-! ## Comparisons and code targets -/

/-- The relation of CMP and of CMPI's signed conditions on the sources, and of the unsigned ones (R121). -/
def cmpRel (k : Cond) (a b : Int) (ua ub : Nat) : Bool :=
  match k with
  | .eq => a = b
  | .ne => a ≠ b
  | .lt => a < b
  | .ge => b ≤ a
  | .ltz => ua < ub
  | .gez => ub ≤ ua

/-- The combination with the predicate's old value (R121). -/
def combined (k : Comb) (old res : Bool) : Bool :=
  match k with
  | .set => res
  | .and => old && res
  | .or => old || res

/-- A predicate word in which only predicate `p` differs from `old`, and is `v`. -/
def onlyPred (q old : BitVec 8) (p : Pred) (v : Bool) : Prop :=
  ∀ k, k < 8 → q.getLsbD k = if k = p.toNat then v else old.getLsbD k

/-- The address that an I27 code target names from a PC (R77). -/
def targetAddr (pc : Word) (i : BitVec 27) : Word :=
  BitVec.ofInt 64 ((pc.toNat / 64 * 64 : Nat) + 64 * (i.extractLsb' 5 22).toInt + 2 * (i.toNat % 32 : Nat))

/-- The integer divides (R113, R115): cycles to the result, and the value. -/
def divValue : Instr → Option (Guard × Bool × Reg × Reg × Reg × (Word → Word → Word))
  | .div g w a b c => some (g, w, a, b, c, fun x y =>
      result w (if signed w y = 0 then -1 else (signed w x).tdiv (signed w y)))
  | .divz g w a b c => some (g, w, a, b, c, fun x y =>
      result w (if unsigned w y = 0 then -1 else (unsigned w x / unsigned w y : Nat)))
  | .rem g w a b c => some (g, w, a, b, c, fun x y =>
      result w (if signed w y = 0 then signed w x else (signed w x).tmod (signed w y)))
  | .remz g w a b c => some (g, w, a, b, c, fun x y =>
      result w (if unsigned w y = 0 then (unsigned w x : Int) else (unsigned w x % unsigned w y : Nat)))
  | _ => none

/-! ## Floating point and curve codes -/

/-- The two-operand floating-point forms that complete in rotation (R165, R166). -/
def fop2Value : Instr → Option (Guard × Reg × Reg × Reg × (BitVec 2 → Word → Word → Word × FpFlags))
  | .fadd g d a b c => some (g, a, b, c, (fpOf d).add)
  | .fsub g d a b c => some (g, a, b, c, (fpOf d).sub)
  | .fmul g d a b c => some (g, a, b, c, (fpOf d).mul)
  | .fdiv g false a b c => some (g, a, b, c, (fpOf false).div)
  | .fmin g d a b c => some (g, a, b, c, fun _ => (fpOf d).minMax false)
  | .fmax g d a b c => some (g, a, b, c, fun _ => (fpOf d).minMax true)
  | _ => none

/-- The one-operand floating-point forms that complete in rotation, with FRND (R165 to R167, R172). -/
def fop1Value : Instr → Option (Guard × Reg × Reg × (BitVec 2 → Word → Word × FpFlags))
  | .fsqrt g false a b => some (g, a, b, (fpOf false).sqrt)
  | .fabs g d a b => some (g, a, b, fun _ x => ((fpOf d).signOp false x, 0))
  | .fneg g d a b => some (g, a, b, fun _ x => ((fpOf d).signOp true x, 0))
  | .fclass g d a b => some (g, a, b, fun _ x => (BitVec.ofNat 64 (2 ^ (fpOf d).classOf x), 0))
  | .frnd g m d a b => some (g, a, b, fun _ x => (fpOf d).toIntegral m x)
  | _ => none

/-- The state after a result with flags (R107, R159): FRM takes the flags, A the value. -/
def State.floatResult (t : State) (a : Reg) (r : Word × FpFlags) : State :=
  ((t.modCur fun z => { z with frm := z.frm ||| (r.2.setWidth 7 <<< 2) }).writeDst a r.1).advance

/-- An exact magnitude: n / d · 2^e, or the square root of n · 2^e. -/
inductive Magnitude
  | ratio (n d : Nat) (e : Int)
  | root (n : Nat) (e : Int)
deriving DecidableEq, Repr

/-- k · 2^e is at most the magnitude. -/
def Magnitude.atLeast (x : Magnitude) (k : Nat) (e : Int) : Bool :=
  match x with
  | .ratio n d b => k * d * 2 ^ (e - min e b).toNat ≤ n * 2 ^ (b - min e b).toNat
  | .root n b => k * k * 2 ^ (2 * e - min (2 * e) b).toNat ≤ n * 2 ^ (b - min (2 * e) b).toNat

/-- k · 2^e is at least the magnitude. -/
def Magnitude.atMost (x : Magnitude) (k : Nat) (e : Int) : Bool :=
  match x with
  | .ratio n d b => n * 2 ^ (b - min e b).toNat ≤ k * d * 2 ^ (e - min e b).toNat
  | .root n b => n * 2 ^ (b - min (2 * e) b).toNat ≤ k * k * 2 ^ (2 * e - min (2 * e) b).toNat

/-- n · 2^q is the magnitude rounded to a multiple of 2^q in a mode, for a value with a sign (R158). -/
def Magnitude.RoundsTo (x : Magnitude) (mode : BitVec 2) (neg : Bool) (n : Nat) (q : Int) : Prop :=
  (mode = 0 → (n = 0 ∨ x.atLeast (2 * n - 1) (q - 1) = true) ∧ x.atMost (2 * n + 1) (q - 1) = true ∧
    (x.atLeast (2 * n + 1) (q - 1) = true ∨ (n ≠ 0 ∧ x.atMost (2 * n - 1) (q - 1) = true) → n % 2 = 0)) ∧
  (mode = 1 ∨ (mode = 2 ∧ neg = true) ∨ (mode = 3 ∧ neg = false) → x.atLeast n q = true ∧ x.atLeast (n + 1) q = false) ∧
  ((mode = 2 ∧ neg = false) ∨ (mode = 3 ∧ neg = true) → x.atMost n q = true ∧ (n = 0 ∨ x.atMost (n - 1) q = false))

/-- The bits of zero, and of infinity, with a sign (R156). -/
def FpFmt.zeroBits (f : FpFmt) (neg : Bool) : Nat := if neg then 2 ^ (f.eb + f.fb) else 0
def FpFmt.infBits (f : FpFmt) (neg : Bool) : Nat := f.zeroBits neg + (2 ^ f.eb - 1) * 2 ^ f.fb

/-- A magnitude is tiny after rounding with an exponent of any size: below 2^(1 - bias) (R158). -/
def FpFmt.tiny (f : FpFmt) (mode : BitVec 2) (neg : Bool) (x : Magnitude) : Bool :=
  let emin : Int := 2 - 2 ^ (f.eb - 1)
  if mode = 0 then !x.atLeast (2 ^ (f.fb + 2) - 1) (emin - f.fb - 2)
  else if mode = 1 || mode = (if neg then 2 else 3) then !x.atLeast 1 emin
  else x.atMost (2 ^ (f.fb + 1) - 1) (emin - f.fb - 1)

/-- The image and flags of a magnitude rounded to a format (R155, R156, R158): rounded to `fb + 1` bits, or at the last place of a
subnormal; beyond the largest finite magnitude what the table of R158 gives, with OF and NX; else with NX when inexact, and UF when
tiny as well. The exponent field counts the places above the subnormals' from 1, and the fraction's carry goes into it. -/
def FpFmt.Rounded (f : FpFmt) (mode : BitVec 2) (neg : Bool) (x : Magnitude) (r : Word × FpFlags) : Prop :=
  ∃ (n : Nat) (q : Int), ∀ low high : Int, low = 2 - 2 ^ (f.eb - 1) - f.fb → high = 2 ^ (f.eb - 1) - 1 - f.fb →
    low ≤ q ∧ x.atLeast (2 ^ (f.fb + 1)) q = false ∧ (q = low ∨ x.atLeast (2 ^ f.fb) q = true) ∧ x.RoundsTo mode neg n q ∧
    ((high < q ∨ (q = high ∧ n = 2 ^ (f.fb + 1))) → r.2 = flagOF ||| flagNX ∧
      r.1.toNat = if mode = 0 ∨ mode = (if neg then 3 else 2) then f.infBits neg else f.infBits neg - 1) ∧
    ((q < high ∨ (q = high ∧ n < 2 ^ (f.fb + 1))) → r.1.toNat = f.zeroBits neg + (q - low).toNat * 2 ^ f.fb + n ∧
      r.2 = if x.atLeast n q && x.atMost n q then 0 else if f.tiny mode neg x then flagNX ||| flagUF else flagNX)

/-- NV when an operand is a signalling NaN (R158). -/
def signalling (vs : List Num) : FpFlags := if vs.contains (.nan true) then flagNV else 0

/-- A signed whole number. -/
def signedNat (neg : Bool) (n : Nat) : Int := if neg then -(n : Int) else n

/-- axis(x, a) of R177, by its bits. -/
def axisNat (n a x : Nat) : Nat := sumOf (64 / n) fun k => bitOf x (k * n + a) * 2 ^ k
/-- The code bits of a word (R176). -/
def codeNat (n : Nat) (x : Word) : Nat := x.toNat % 2 ^ (n * (64 / n))
/-- Code `x` lies in the box of `lo` and `hi` (R182). -/
def Inside (n lo hi x : Nat) : Prop := ∀ a, a < n → axisNat n a lo ≤ axisNat n a x ∧ axisNat n a x ≤ axisNat n a hi
/-- Bits above the code bits are zero (R176). -/
def codeOnly (n : Nat) (v : Word) : Prop := ∀ k, n * (64 / n) ≤ k → v.getLsbD k = false

/-- The signed or unsigned operand of an axis (R181). -/
def axisOffset (n : Nat) (sgn : Bool) (c : Word) (a : Nat) : Int :=
  if sgn && 2 ^ (64 / n - 1) ≤ axisNat n a c.toNat then axisNat n a c.toNat - 2 ^ (64 / n) else axisNat n a c.toNat

/-! ## Accesses -/

/-- The issuing member may reach `n` bytes at its own pool's offset (R199, R200, R233): scratchpad; fault records, to read or
in system mode; the rest of the system area, in system mode. No region that a copy or an engine has locked (R351). -/
def State.OwnOk (t : State) (a : Word) (off n : Nat) (write : Bool) : Prop :=
  targetOf t.curUnit a = some (.own off) ∧ a.toNat % n = 0 ∧ t.curCore.accEnd ≤ off ∧
  t.curCore.rangeLocked (ownAddr off) n write = false ∧
  (off + n ≤ poolSize t.curUnit - 4096 ∨
   (poolSize t.curUnit - 4096 ≤ off ∧ off < poolSize t.curUnit - 4096 + 0x400 ∧ (write = true → t.sysOf t.curUnit = true)) ∨
   (poolSize t.curUnit - 4096 + 0x400 ≤ off ∧ off < poolSize t.curUnit ∧ t.sysOf t.curUnit = true))

/-- The address lies in global memory, or in another core's pool that the member may reach (R231, R233). -/
def State.FarOk (t : State) (a : Word) (n : Nat) (write : Bool) : Prop :=
  a.toNat % n = 0 ∧ t.curCore.rangeLocked a n write = false ∧
  ((∃ va, targetOf t.curUnit a = some (.global va)) ∨
   ∃ v off, targetOf t.curUnit a = some (.pool v off) ∧ (isService v = true → t.sysOf t.curUnit = true))

/-- The value of a load of `n` bytes (R247): zero- or sign-extended. -/
def loadValue (z : Bool) (n raw : Nat) : Word :=
  if z then BitVec.ofNat 64 raw else BitVec.ofInt 64 (Int.bmod raw (2 ^ (8 * n)))

/-- What an AMO leaves in memory, on numbers of the access's width (R250). -/
def amoValue (op : AmoOp) (w : Bool) (old c : Word) : Nat :=
  match op with
  | .add => (unsigned w old + unsigned w c) % 2 ^ bits w
  | .and => unsigned w old &&& unsigned w c
  | .or => unsigned w old ||| unsigned w c
  | .xor => unsigned w old ^^^ unsigned w c
  | .swap => unsigned w c
  | .min => if signed w c < signed w old then unsigned w c else unsigned w old
  | .max => if signed w old < signed w c then unsigned w c else unsigned w old
  | .minz => min (unsigned w old) (unsigned w c)
  | .maxz => max (unsigned w old) (unsigned w c)

/-- The AMO forms. -/
def amoForm : Instr → Option (Guard × Bool × Reg × Reg × Reg × AmoOp)
  | .amoAdd g w a b c => some (g, w, a, b, c, .add)
  | .amoAnd g w a b c => some (g, w, a, b, c, .and)
  | .amoOr g w a b c => some (g, w, a, b, c, .or)
  | .amoXor g w a b c => some (g, w, a, b, c, .xor)
  | .amoSwap g w a b c => some (g, w, a, b, c, .swap)
  | .amoMin g w a b c => some (g, w, a, b, c, .min)
  | .amoMax g w a b c => some (g, w, a, b, c, .max)
  | .amoMinz g w a b c => some (g, w, a, b, c, .minz)
  | .amoMaxz g w a b c => some (g, w, a, b, c, .maxz)
  | _ => none

/-- The address of LD, LDP, ST, STP and the cell instructions (R246). -/
def addrImm (b : Word) (imm : BitVec 16) : Word := BitVec.ofInt 64 (b.toInt + imm.toInt)
/-- The address of LDX and STX (R246). -/
def addrIndex (b c : Word) (sh : BitVec 2) : Word := BitVec.ofInt 64 (b.toInt + c.toInt * 2 ^ sh.toNat)

/-- Own-pool bytes of the issuing core written, lowest first. -/
def State.storeOwn (t : State) (off n v : Nat) : State := t.modCurCore fun c => c.poolWrite off (bytesOf n v)

/-- The control registers that RDC reads (R109): number and value. -/
def State.controlRegisters (t : State) : List (Nat × Nat) :=
  [(0x00, t.cur.frm.toNat), (0x01, t.cur.rkey.toNat), (0x02, t.cur.evc.toNat), (0x03, t.cur.ffrm.toNat), (0x04, t.cur.fflim.toNat),
   (0x10, t.curCore.mfmt.toNat), (0x11, t.curCore.msca.toNat), (0x12, t.curCore.mscb.toNat), (0x13, t.curCore.mfmt.toNat / 1024 % 2),
   (0x14, t.curCore.cbk0.toNat), (0x15, t.curCore.cbk1.toNat), (0x16, t.curCore.qchain.toNat),
   (0x18, (aget 0 t.curCore.xcw 0).toNat), (0x19, (aget 0 t.curCore.xcw 1).toNat), (0x1A, (aget 0 t.curCore.xcw 2).toNat),
   (0x1B, (aget 0 t.curCore.xcw 3).toNat), (0x1C, t.curCore.timer.toNat), (0x1D, t.curCore.evto.toNat),
   (0x20, t.curCore.poolw.toNat), (0x21, t.curCore.gstop.toNat), (0x22, t.curCore.viid.toNat),
   (0x30, t.cycle % 2 ^ 64), (0x31, t.curCore.pscl.toNat), (0x32, t.curCore.pscr.toNat), (0x33, t.curUnit % 2 ^ 64)]

/-- The KIND, SIZE and the other fields of a journal status word (R255). -/
def journalWord (j : JEntry) : Nat :=
  j.st.code + j.cause.toNat * 2 ^ 8 + j.size.toNat * 2 ^ 16 + j.kind.toNat * 2 ^ 24 + j.slot * 2 ^ 26

/-- Everything but the cores, and but the network on its way: what a thread instruction cannot change in its own step. -/
def State.SameMemory (s t : State) : Prop :=
  t.mem = s.mem ∧ t.tags = s.tags ∧ t.marks = s.marks ∧ t.slices = s.slices ∧
  (∀ d, (t.engine d).ctx = (s.engine d).ctx ∧ (t.engine d).dies = (s.engine d).dies ∧ (t.engine d).groups = (s.engine d).groups) ∧
  t.dies = s.dies ∧ t.parts = s.parts ∧ t.hostMem = s.hostMem ∧ t.nvme = s.nvme ∧ t.replies = s.replies

/-! ## Canonical storage -/

/-- A core's pool and its slots' registers are in canonical form: addresses strictly rising, no entry 0. -/
def Core.Canonical (c : Core) : Prop := awf 0 c.pool = true ∧ ∀ p ∈ c.slots, awf 0 p.2.regs = true
/-- Every core, and every core kept in an image or for a paused VI, is in canonical form. -/
def State.CoresCanonical (s : State) : Prop :=
  (∀ p ∈ s.cores, p.2.Canonical) ∧ (∀ p ∈ s.images, p.2.Canonical) ∧ ∀ q ∈ s.parts, ∀ p ∈ q.2.saved, p.2.Canonical

/-! ## Engine commands -/

/-- The vector instructions: guard, operands, D, the scalar mark and the operation (R203, R204). -/
def vecForm : Instr → Option (Guard × VArgs × Reg × Bool × VOp)
  | .vadd g x d k => some (g, x, d, k, .add)
  | .vsub g x d k => some (g, x, d, k, .sub)
  | .vmul g x d k => some (g, x, d, k, .mul)
  | .vfma g x d k => some (g, x, d, k, .fma)
  | .vmin g x d k => some (g, x, d, k, .min)
  | .vmax g x d k => some (g, x, d, k, .max)
  | .vabs g x => some (g, x, 0, false, .abs)
  | .vneg g x => some (g, x, 0, false, .neg)
  | .vcvt g x src => some (g, x, 0, false, .cvt src)
  | .vexp2 g x => some (g, x, 0, false, .exp2)
  | .vlog2 g x => some (g, x, 0, false, .log2)
  | .vrsq g x => some (g, x, 0, false, .rsq)
  | .vrcp g x => some (g, x, 0, false, .rcp)
  | .vsel g x d k => some (g, x, d, k, .sel)
  | .vcmp g x d k cond => some (g, x, d, k, .cmp cond)
  | .vsum g x => some (g, x, 0, false, .sum)
  | .vscan g x => some (g, x, 0, false, .scan)
  | .vgath g x d => some (g, x, d, false, .gath)
  | .vscat g x d => some (g, x, d, false, .scat)
  | .vrng g x d => some (g, x, d, true, .rng)
  | .vclr g a b fmt len => some (g, ⟨a, b, 0, fmt, len⟩, 0, false, .clr)
  | .vcpy g x => some (g, x, 0, false, .cpy)
  | _ => none

/-- A vector command with what it samples at issue (R206). -/
def State.vecCommand (t : State) (op : VOp) (x : VArgs) (vb vc vd : Word) (k : Bool) : VCmd :=
  { tid := t.nextSeq, op := op, fmt := x.fmt, b := vb.toNat, c := vc.toNat, d := vd, c1 := vc, bcast := k, len := x.len.toNat,
    mode := t.cur.mode, lxm := t.curCore.lxm, cbk0 := t.curCore.cbk0, cbk1 := t.curCore.cbk1, rkey := t.cur.rkey }

/-- The offsets, bases and ranges of a vector command are ones it may have (R205). -/
def VCmd.Fits (x : VCmd) (c : Core) (u : UnitId) : Prop :=
  x.b < 2 ^ 17 ∧ (vecSrc1 x.op = true ∨ x.op = .gath → x.c < 2 ^ 17) ∧
  (vecIndexed x.op = true ∨ (vecSrc2 x.op = true ∧ x.bcast = false) → x.d.toNat < 2 ^ 17) ∧
  (∀ p ∈ x.bases, p.1 % p.2 = 0) ∧
  ∀ r ∈ x.ranges u, c.inScratch (poolSize u) r.2.1 (max 1 r.2.2) = true ∧ r.2.1 < poolSize u - 4096

/-- What queueing an engine command with a token in `a` leaves: the token pending, the member at its next head, nothing
else of its window or its pool changed (R206, R221). -/
def State.Queued (t r : State) (a : Reg) : Prop :=
  (isWindow a = true → r.cur.isPend a.toNat = true ∧ r.cur.isFull a.toNat = false) ∧
  (∀ q : Reg, q ≠ a → r.cur.isPend q.toNat = t.cur.isPend q.toNat ∧ r.cur.isFull q.toNat = t.cur.isFull q.toNat) ∧
  r.cur.pc = t.cur.nextPc ∧ r.cur.regs = t.cur.regs ∧ r.cur.pred = t.cur.pred ∧ r.cur.frm = t.cur.frm ∧
  r.curCore.pool = t.curCore.pool ∧ t.SameMemory r

/-- An accumulator that a matrix instruction may name (R216). -/
def Core.AccOk (c : Core) (acc : BitVec 4) : Prop :=
  mfmtAcc c.mfmt < 2 ∧ acc.toNat % tileUnits c.mfmt = 0 ∧ acc.toNat + tileUnits c.mfmt ≤ 4 * fld c.poolw 8 4

/-- An operand pair that a matrix instruction may name (R218, R219). -/
def Core.PairOk (c : Core) (u : UnitId) (j p : Word) (n tile nb : Nat) : Prop :=
  j.toNat < 2 ^ 17 ∧ j.toNat % 8 = 0 ∧ pairRow p % 8 = 0 ∧ tile % 8 = 0 ∧
  c.inScratch (poolSize u) j.toNat ((n - 1) * tile + 15 * pairRow p + nb) = true

/-- The unit has room for a command with `n` ranges (R221, R340). -/
def State.MatrixRoom (t : State) (n : Nat) : Prop :=
  isService t.curUnit = false ∧ t.curCore.mq.length < 16 ∧ t.curCore.locks.length + n ≤ 16

/-- What queueing a matrix command leaves beside the member (R110, R221): the command with the registers it sampled, its
ranges, and the unit started when its queue was empty. -/
def State.MatrixQueued (t r : State) (op : MOp) (ranges : List (Bool × Nat × Nat)) : Prop :=
  ∃ x, x.op = op ∧ x.mfmt = t.curCore.mfmt ∧ x.msca = t.curCore.msca ∧ x.mscb = t.curCore.mscb ∧ x.cbk0 = t.curCore.cbk0 ∧
    x.cbk1 = t.curCore.cbk1 ∧ x.mode = t.cur.mode ∧ r.curCore.mq = t.curCore.mq ++ [x] ∧
    r.curCore.locks = t.curCore.locks ++ ranges.map (fun k => poolLock k.1 1 x.tid k.2.1 k.2.2) ∧
    (t.curCore.mq = [] → ∃ p, r.agenda = p :: t.agenda ∧ p.due = t.cycle + t.slowed t.curUnit x.time ∧
      p.ev = ⟨.matrixCommandCompletion, .tid t.curUnit x.tid 0⟩) ∧
    (t.curCore.mq ≠ [] → r.agenda = t.agenda)

/-- Another unit's command may write no byte that this one writes (R202): no write range of another owner, no shield. -/
def Core.Alone (c : Core) (owner : Nat) : Prop := c.shields = [] ∧ ∀ k ∈ c.locks, k.dst = true → k.owner = owner

/-- A core with a tile of new elements, if there is one (R216). -/
def Core.withTile (c : Core) (m : BitVec 11) (t : Option (Nat × List (List Word))) : Core :=
  match t with
  | some (acc, rows) => c.tileWrite m acc fun i j => (rows.getD i []).getD j 0
  | none => c

/-- An integer element as its format reads it (R155, R204). -/
def elemInt (f : Fmt) (x : Word) : Int :=
  if f = .i64 ∨ f = .i32 ∨ f = .i8 then Int.bmod x.toNat (2 ^ fmtBits f) else (x.toNat % 2 ^ fmtBits f : Nat)

/-- What queueing a copy command leaves (R343, R344): the command with what it samples, its ranges, its channel's sequence
number, and the channel's first turn when no command of it was queued. -/
def State.CopyQueued (t r : State) (a : Reg) (kind : XKind) (scope : Scope) (ch : Nat) (dst src : Word) (n : Nat)
    (ranges : List (Bool × Int × Int)) : Prop :=
  t.Queued r a ∧ ∃ x, r.curCore.xq = t.curCore.xq ++ [x] ∧ x.kind = kind ∧ x.scope = scope ∧ x.ch = ch ∧ x.dst = dst ∧ x.src = src ∧
    x.n = n ∧ x.xcw = aget 0 t.curCore.xcw ch ∧ x.space = t.spaceOf t.curUnit ∧ x.sys = t.sysOf t.curUnit ∧
    x.seq = (t.curCore.chan ch).seq + 1 ∧ (r.curCore.chan ch).seq = (t.curCore.chan ch).seq + 1 ∧
    r.curCore.locks = t.curCore.locks ++ ranges.map (fun q =>
      { dst := q.1, owner := 2 + ch, tid := x.tid, lo := BitVec.ofInt 64 q.2.1, hi := BitVec.ofInt 64 q.2.2 }) ∧
    ((t.curCore.xq.any fun y => y.ch == ch) = false → ∃ p, r.agenda = p :: t.agenda ∧ p.due = t.cycle + 1 ∧
      p.ev = ⟨.copyGranule, .chan t.curUnit ch⟩) ∧
    ((t.curCore.xq.any fun y => y.ch == ch) = true → r.agenda = t.agenda)

/-- The copy queue has room for a command with `k` ranges, and the channel's completion address is one it may have
(R340, R343 steps 6 and 7). -/
def State.CopyRoom (t : State) (ch k : Nat) : Prop :=
  t.checkXcw (aget 0 t.curCore.xcw ch) = .ok () ∧ t.curCore.xq.length < 16 ∧ t.curCore.locks.length + k ≤ 16

/-- The first and last byte of `n` bytes at an address. -/
def span (a n : Word) : Int × Int := (a.toNat, a.toNat + (n.toNat : Int) - 1)

/-! ## Families -/

/-- The handle in `h` names entry `e` of the issuing member's own core, with its present generation, and the member created
that family (R137, R139). -/
def State.OwnHandle (t : State) (h : Word) (e : Nat) (x : FamEntry) : Prop :=
  handleParts h = some ⟨t.curUnit, e, x.gen⟩ ∧ t.fam t.curUnit e = x ∧ x.st ≠ .free ∧ t.isCreator x t.curWho = true ∧
  t.inPart (unitDie t.curUnit) t.curUnit = true ∧ t.cur.work ≠ .none

/-- The form of a handle instruction: guard, sources with the handle first, destinations, what it asks, and where the
answer goes (R139 to R149). -/
def handleForm (pc : Word) (mode : BitVec 2) (rkey : Word) : Instr → Option (Guard × List Reg × List Reg × (Word → HandleOp) × Reg)
  | .fsetg g a b k => some (g, [a, b], [], fun v => .fsetg k.toNat v, 0)
  | .fsets g a b k => some (g, [a, b], [], fun v => .fsets k.toNat v, 0)
  | .fhand g a i => some (g, [a], [], fun _ => .fhand (targetAddr pc i), 0)
  | .fgo g a i => some (g, [a], [], fun _ => .fgo (targetAddr pc i) mode rkey, 0)
  | .fsync g a b => some (g, [b], [a], fun _ => .fsync, a)
  | .fgets g a b k => some (g, [b], [a], fun _ => .fgets k.toNat, a)
  | .fkill g b => some (g, [b], [], fun _ => .fkill, 0)
  | .frel g b => some (g, [b], [], fun _ => .frel, 0)
  | _ => none

/-- The member goes on unless the step has ended it. -/
def State.goesOn (t r : State) (a : Reg) (v : Word) : State :=
  if (r.slot t.curUnit t.curSlot).seat t.curWho.sgen = .occupant then
    (r.writeDstAt t.curUnit t.curSlot a v).advanceAt t.curUnit t.curSlot
  else r

/-! ## SYS forms -/

/-- The SYS forms: guard, sources and destination (R400 to R411). -/
def sysRow : Instr → Option (Guard × List Reg × Reg)
  | .wakeResume g a b c _ _ | .wakeFail g a b c _ _ | .wakeCell g a b c _ _ | .wakeGo g a b c _ _ => some (g, [b, c], a)
  | .slotsv g a b c _ _ | .slotld g a b c _ _ => some (g, [b, c], a)
  | .stopatStop g a c _ _ | .stopatGo g a c _ _ => some (g, [c], a)
  | .pzero g a b c | .selv g a b c => some (g, [b, c], a)
  | .poolpart g a b c _ | .imap g a b c _ | .haltRetire g a b c _ | .haltRemap g a b c _ => some (g, [b, c], a)
  | .tinv g a b c _ _ _ _ => some (g, [b, c], a)
  | .pgver g a b => some (g, [b], a)
  | .pgswap g a b c d _ => some (g, [b, c, d, a], a)
  | .evpost g a b c _ _ _ => some (g, [b, c], a)
  | _ => none

/-- The unit a SYS form names in `b`, of the kinds it takes (R400): WAKE.go, SLOTSV, SLOTLD, PZERO, POOLPART, EVPOST a core;
TINV without the all mark a slice; SELV a port or port engine; HALT a core or a slice. -/
def sysKinds : Instr → Option (List Nat)
  | .wakeGo _ _ _ _ _ _ | .slotsv _ _ _ _ _ _ | .slotld _ _ _ _ _ _ | .pzero _ _ _ _ | .poolpart _ _ _ _ _ | .evpost _ _ _ _ _ _ _ =>
    some [0, 2]
  | .tinv _ _ _ _ _ false _ _ => some [1]
  | .selv _ _ _ _ => some [4, 5]
  | .haltRetire _ _ _ _ slice | .haltRemap _ _ _ _ slice => some [if slice then 1 else 0]
  | _ => none

/-- What the second operand of a SYS form must be (R401 to R406, R409): PZERO's and SELV's upper bits zero, an image
address aligned to the image. -/
def sysOperandOk : Instr → Word → Prop
  | .pzero _ _ _ _, v => v.toNat < 2 ^ 7
  | .selv _ _ _ _, v => v.toNat < 2 ^ 5
  | .slotsv _ _ _ _ core _, v | .slotld _ _ _ _ core _, v => v.toNat % (if core then 8192 else 256) = 0
  | _, _ => True

/-- A request's answer on its way back (R400). -/
def State.answered (q : State) (i : Instr) (m : SysMsg) (v : Word) : State :=
  q.send (max 1 (sysClass i)) rankReply m.unit m.who.unit ⟨true, 0⟩ (isService m.who.unit) 0 ⟨i, .sys { m with ans := some v }⟩ none

/-! ## Accesses at their homes -/

/-- An access of a space passes its home slice (R239 to R243, R235): nothing holds its chunk, its page maps and allows it,
and its line `l` is at hand in `q` after `t` cycles of service. -/
structure State.AtHome (s : State) (id : Nat) (sp : Space) (va : Word) (want : Want) (sys : Bool) (pa : Nat) (e : TEntry)
    (l : CLine) (t : Nat) (q : State) : Prop where
  free : (s.slice id).heldAt sp (chunkOf va) = none
  here : ∃ p, s.translate id sp va want sys = (.ok pa e, p) ∧ p.getLine id sp va pa = (l, t, q)
  hbm : pa < hbmSize

/-- A write at a home makes `l'` of line `l` (R257 to R260, R288): its page is dirty, the windows on the line close, the
page's version advances, and the line is kept. -/
def State.Wrote (q r : State) (id : Nat) (sp : Space) (va : Word) (pa : Nat) (e : TEntry) (l l' : CLine) : Prop :=
  ∃ d, q.markDirty id sp va e = (.done, d) ∧ r = ((d.closeWindowsOn id l).bumpVersion pa).dirtyLine id l'

/-- A load-type access's answer on its way back (R247, R322). -/
def State.landed (q : State) (a : Access) (t : Nat) (r : LandRes) : State :=
  q.send 1 rankLanding a.at_ a.who.unit a.space false t ⟨.longLatencyLanding, .land ⟨a.who.unit, a.tid, r⟩⟩ none

/-- A remote access of `n` bytes may be served by the pool it reaches (R198, R199). -/
def State.PoolOpen (s : State) (u : UnitId) (off n : Nat) (from_ : UnitId) : Prop :=
  unitKind u ≠ 1 ∧ (s.core u).zeroFillUntil ≤ s.cycle ∧ s.poolCause u off n from_ = none

/-! ## Requests at Heald -/

/-- Heald serves a request with row `i` (R421, R426, R431, R432, log 15, DESIGN CHOICE, the order): the partition's primary hears
it, nothing holds messages, the entry is that row's and comes from where that row may come from, and its two VI fields agree; but
for DEFINE it carries the VI's generation; and but for DEFINE and MERGE the VI is defined by a valid entry, not in error for a
guest. -/
def State.Serves (s : State) (i : Instr) (r : HostReq) (from_ : List HostVia) : Prop :=
  s.arg = .host r ∧ s.heardBy r.pid = some r.pid ∧ s.healdHolds r.pid (r.via == .queue) = false ∧ entryInstr r = i ∧
  from_.contains r.via = true ∧ BitVec.ofNat 6 (fld (reqWord r 0) 53 48) = reqVi r ∧
  (i ≠ .define → fld (reqWord r 0) 47 32 = s.guestGen r.pid (reqVi r)) ∧
  (i ≠ .merge → i ≠ .define → s.viDefined r.pid (reqVi r) = true ∧ s.viEntryOk r.pid (reqVi r) = true ∧
    (r.via ≠ .operator → s.vst r.pid (reqVi r) ≠ 3))

/-- Heald hears a guest's send of a VI in service with the VI's generation (R421, R430, R433, R434). -/
def State.Hears (s : State) (g : GuestSend) : Prop :=
  s.arg = .guest g ∧ s.heardBy g.pid = some g.pid ∧ s.healdHolds g.pid false = false ∧ s.viDefined g.pid g.viid = true ∧
  s.viEntryOk g.pid g.viid = true ∧ s.vst g.pid g.viid ≠ 3 ∧ fld g.w0 47 32 = s.guestGen g.pid g.viid

/-! ## Invariants -/

/-- The memories of the state in canonical form: addresses strictly rising, no entry equal to what an unlisted address
reads as (R262, R414, R449, R431, R436). -/
def State.MemoryCanonical (s : State) : Prop :=
  Memory.wf s.mem = true ∧ awf 0 s.tags = true ∧ awf false s.marks = true ∧ Memory.wf s.hostMem = true ∧ (s.nvme.all fun p => Memory.wf p.2) = true

/-- Nothing of a core that a privileged instruction alone may change differs (R109, R405, R406). -/
def Core.SamePrivileged (c d : Core) : Prop :=
  d.viid = c.viid ∧ d.gstop = c.gstop ∧ d.poolw = c.poolw ∧ d.sysMode = c.sysMode

/-! ## Exceptions -/

/-- The eight words of the fault record of the work in a slot (R393). -/
def State.faultRecord (s : State) (u : UnitId) (i : Nat) (f : FaultInfo) : List Word :=
  let pc := if f.code = 2 ∨ f.code = 5 then (s.slot u i).pc &&& ~~~63 else (s.slot u i).pc
  [ BitVec.ofNat 64 (f.code + f.sub * 2 ^ 8 + (if 32 ≤ f.code then 2 ^ 23 else 0) + f.ucode.toNat * 2 ^ 32), pc,
    Machine.memberHandle (s.who u i) ((s.slot u i).work == .folded), f.addr, f.opc.getD pc, f.val,
    BitVec.ofNat 64 (f.dest.toNat + f.jent * 2 ^ 8), BitVec.ofNat 64 s.cycle ]

/-- What a step does beside the effect of the instruction that slot `i` of core `u` issues (R309, R310). -/
def State.issued (s : State) (u : UnitId) (i : Nat) : State := (s.atSlot u i true .none).countIssue u i

/-- ILLEGAL of a word that does not decode: its lowest sub-code, 1 for any word of a matrix opcode on a service core, where that
opcode is undefined (R82, R215). -/
def illegalAt (u : UnitId) (w : Half) (e : Ill) : FaultInfo :=
  { code := 1, sub := if isService u && [0x78, 0x79, 0x7A, 0x7B, 0x7C].contains (headOp w).toNat then 1 else e.code }

end Sys2Proof.Machine
end

