-- ==== Sys2Proof/Certificates/Slice0/Obligations.lean ====
section
/-! DEFINITION. The statements for the provers: what the rules of the spec say the instructions and the steps of the KM4 do.
Each docstring names the rules it formalises. -/

open Sys2Proof Sys2Proof.Machine

/-- R113, R114, R116, R119: what the integer instructions of two and of one source write, in whole-number arithmetic. -/
def Obligations.IntegerResults : Prop :=
  (∀ i g a b c f, iop2Value i = some (g, a, b, c, f) → ∀ s x y t, s.Ready g [b, c] [a] false [x, y] t →
    exec i s = .next ((t.writeDst a (f x y)).advance)) ∧
  (∀ i g a b f, iop1Value i = some (g, a, b, f) → ∀ s x t, s.Ready g [b] [a] false [x] t →
    exec i s = .next ((t.writeDst a (f x)).advance))

/-- R118: the packed instructions, lane by lane. -/
def Obligations.PackedLaneResults : Prop :=
  ∀ i g l a b c f sgn, packedValue i = some (g, l, a, b, c, f, sgn) → ∀ s x y t, s.Ready g [b, c] [a] false [x, y] t →
    ∃ v, exec i s = .next ((t.writeDst a v).advance) ∧
      ∀ j, j < 64 / laneBits l → v.extractLsb' (j * laneBits l) (laneBits l) =
        BitVec.ofInt (laneBits l) (f (laneValue sgn (laneBits l) j x) (laneValue sgn (laneBits l) j y))

/-- R120: LEA, modulo 2^64; no access and no check of the sum. -/
def Obligations.LeaAddress : Prop :=
  ∀ g a b c sh imm s x y t, s.Ready g [b, c] [a] false [x, y] t → exec (.lea g a b c sh imm) s =
    .next ((t.writeDst a (BitVec.ofInt 64 (x.toInt + y.toInt * 2 ^ sh.toNat + imm.toInt))).advance)

/-- R122: PLOG, from the predicates before it. -/
def Obligations.PredicateLogic : Prop :=
  ∀ g pk pj pi tt s, s.cur.guard g = true →
    ∃ q, exec (.plog g pk pj pi tt) s = .next ((s.modCur fun z => { z with pred := q }).advance) ∧
      onlyPred q s.cur.pred pk
        (tt.getLsbD (2 * (if s.cur.pred.getLsbD pj.toNat then 1 else 0) + if s.cur.pred.getLsbD pi.toNat then 1 else 0))

/-- R117, R119, R123, R124: constants, the predicate word, selects and field inserts (SEL reads its predicate after its sources: log 9, DEDUCED). -/
def Obligations.ConstantsAndSelects : Prop :=
  (∀ g a imm s t, s.Ready g [] [a] false [] t →
    exec (.ldi g a imm) s = .next ((t.writeDst a (BitVec.ofInt 64 imm.toInt)).advance)) ∧
  (∀ g a imm s t, s.Ready g [] [a] false [] t → exec (.ldq g a imm) s = .next ((t.writeDst a imm).advance)) ∧
  (∀ g a s t, s.Ready g [] [a] false [] t →
    ∃ v, exec (.pgetw g a) s = .next ((t.writeDst a v).advance) ∧ v.toNat = s.cur.pred.toNat) ∧
  (∀ g b s x t, s.Ready g [b] [] false [x] t →
    ∃ q, exec (.psetw g b) s = .next ((t.modCur fun z => { z with pred := q }).advance) ∧ q.toNat = x.toNat % 256) ∧
  (∀ g a b c p neg s x y t, s.Ready g [b, c] [a] false [x, y] t →
    exec (.sel g a b c p neg) s = .next ((t.writeDst a (if t.cur.pred.getLsbD p.toNat ≠ neg then x else y)).advance)) ∧
  (∀ g a b c pos len1 s x y t, pos.toNat + len1.toNat ≤ 63 → s.Ready g [b, c] [a] false [x, y] t →
    ∃ v, exec (.bfi g a b c pos len1) s = .next ((t.writeDst a v).advance) ∧
      ∀ k, k < 64 → v.getLsbD k =
        if pos.toNat ≤ k ∧ k ≤ pos.toNat + len1.toNat then x.getLsbD (k - pos.toNat) else y.getLsbD k)

/-- R135: NOP, its reserved field, and the issue it takes. -/
def Obligations.NopHasNoEffect : Prop :=
  (∀ g s, exec (.nop g) s = .next s.advance) ∧
  (∀ h t, headOp h = 7 → headTl h = 0 → decode h t = if headA h = 0 then .ok (.nop (headG h)) else .error .rsv) ∧ Ill.rsv.code = 4 ∧
  (∀ (s : State) u i g, s.due = none → s.pick = some (u, i) → (s.slot u i).turn = .issue (.nop g) →
    step s = .next (s.issued u i).advance ∧ (s.issued u i).advance.cursor = u + 1)

/-- R113, R115, R121, R301: divisions land later; comparisons write one predicate. -/
def Obligations.DivisionsAndComparisons : Prop :=
  (∀ i g w a b c f, divValue i = some (g, w, a, b, c, f) → ∀ s x y t, s.Ready g [b, c] [a] true [x, y] t →
    t.curCore.divFree ≤ t.cycle →
    exec i s = .next (((t.modCurCore fun k => { k with divFree := t.cycle + if w then 20 else 36 }).landLater
      (t.cycle + if w then 20 else 36) a none (f x y) 0 0).advance)) ∧
  ((∀ g cond comb w p b c s x y t, s.Ready g [b, c] [] false [x, y] t →
    ∃ q, exec (.cmp g cond comb w p b c) s = .next ((t.modCur fun z => { z with pred := q }).advance) ∧
      onlyPred q t.cur.pred p (combined comb (s.cur.pred.getLsbD p.toNat)
        (cmpRel cond (signed w x) (signed w y) (unsigned w x) (unsigned w y)))) ∧
  (∀ g cond comb w p b imm s x t, s.Ready g [b] [] false [x] t →
    ∃ q, exec (.cmpi g cond comb w p b imm) s = .next ((t.modCur fun z => { z with pred := q }).advance) ∧
      onlyPred q t.cur.pred p (combined comb (s.cur.pred.getLsbD p.toNat)
        (cmpRel cond (signed w x) imm.toInt (unsigned w x) imm.toNat))))

/-- R77, R78, R127, R128, R131, R132: control transfers. -/
def Obligations.ControlTransfers : Prop :=
  ((∀ g i s, s.cur.guard g = true →
    exec (.br g i) s = .next (
      if s.cur.pc.toNat < (targetAddr s.cur.pc i).toNat then
        s.modCur fun x => { x with pc := targetAddr s.cur.pc i, branchPc := some s.cur.pc, target := true }
      else s.exactFault { code := 4, addr := targetAddr s.cur.pc i })) ∧
  (∀ g i s, s.cur.guard g = true → s.cur.lnPend = false →
    exec (.call g i) s = .next (s.modCur fun x =>
      { x with ln := s.cur.nextPc, pc := targetAddr s.cur.pc i, branchPc := some s.cur.pc, target := true })) ∧
  (∀ g b s x t, s.Ready g [b] [] false [x] t →
    exec (.jr g b) s = .next (t.modCur fun z => { z with pc := x, branchPc := some t.cur.pc, target := true })) ∧
  (∀ g b s x t, s.Ready g [b] [31] false [x] t →
    exec (.callr g b) s = .next (t.modCur fun z =>
      { z with ln := t.cur.nextPc, pc := x, branchPc := some t.cur.pc, target := true }))) ∧
  (∀ g b c len s i base t, s.Ready g [b, c] [] false [i, base] t →
    (len.toNat ≤ i.toNat → ∃ q, exec (.jtab g b c len) s = .next ((t.modCur fun z => { z with pred := q }).advance) ∧
      onlyPred q t.cur.pred 0 false) ∧
    (i.toNat < len.toNat → (base + 4 * i).toNat % 4 = 0 →
      ((∃ va, targetOf s.curUnit (base + 4 * i) = some (.global va)) ∨ ∃ v off, targetOf s.curUnit (base + 4 * i) = some (.pool v off) ∧
        (isService v = false ∨ s.sysOf s.curUnit = true)) →
      ∀ q : State, q = (({ s with nextSeq := s.nextSeq + 1 } : State).modCur fun z => { z with
          run := .wait .reply, aging := 0, trip := .out .reply, replyDest := 0, jtab := some s.nextSeq, jpop := [b, c].count 28 }) →
        exec (.jtab g b c len) s = .next (q.trackAccess (q.mkAccess s.nextSeq .jtab (base + 4 * i) 0 0 0) none)) ∧
    (i.toNat < len.toNat → ∀ off, targetOf t.curUnit (base + 4 * i) = some (.own off) →
      (base + 4 * i).toNat % 4 = 0 → t.curCore.inScratch (poolSize t.curUnit) off 4 = true → off < poolSize t.curUnit - 4096 →
      ∀ e, t.curCore.poolRead off 4 = e → e < 2 ^ 27 →
      t.cur.pc.toNat < (targetAddr t.cur.pc (BitVec.ofNat 27 e)).toNat →
      ∃ q, exec (.jtab g b c len) s = .next (t.modCur fun z =>
          { z with pc := targetAddr t.cur.pc (BitVec.ofNat 27 e), branchPc := some t.cur.pc, target := true, pred := q,
                   trip := .none, jtab := none, jpop := 0 }) ∧
        onlyPred q t.cur.pred 0 true)) ∧
  ((∀ (s : State) l o a v0 v1 fl i, l.res = .val v0 v1 fl → (s.core l.unit).outOf l.tid = some o → i = o.who.slot →
    o.kind = .access a → a.kind = .jtab → (s.slot l.unit i).seat o.who.sgen = .occupant → o.noticed = false → ∀ q : State,
    q = ((s.dropOut l.unit o.tid).releaseHeld l.unit).progressFences l.unit →
    ((q.slot l.unit i).jtab = some o.tid → s.land l = q.jtabEntry l.unit i v0) ∧
    ((q.slot l.unit i).jtab ≠ some o.tid → s.land l = q)) ∧
  (∀ (s : State) u i v x t, x = s.slot u i → t = targetAddr x.pc (v.setWidth 27) →
    (2 ^ 27 ≤ v.toNat % 2 ^ 32 → s.jtabEntry u i v = (s.modSlot u i fun x => { x with
        run := .ready, readyAt := s.cycle + 1, aging := 0, jtab := none, jpop := 0, trip := .none }).takeFault u i { code := 1, sub := 4 }) ∧
    (v.toNat % 2 ^ 32 < 2 ^ 27 → t.toNat ≤ x.pc.toNat → s.jtabEntry u i v = (s.modSlot u i fun x => { x with
        run := .ready, readyAt := s.cycle + 1, aging := 0, jtab := none, jpop := 0, trip := .none }).takeFault u i { code := 4, addr := t }) ∧
    (v.toNat % 2 ^ 32 < 2 ^ 27 → x.pc.toNat < t.toNat → s.jtabEntry u i v = (s.takeQi u i x.jpop).modSlot u i fun y =>
        { y.setP 0 true with
          pc := t, branchPc := some y.pc, target := true, trip := .none, jtab := none, jpop := 0, run := .ready,
          readyAt := s.cycle + 1, aging := 0 })))

/-- R158, R165 to R168, R172, R173, R301, R308: where the results and flags of floating point go. -/
def Obligations.FloatingPointResults : Prop :=
  ((∀ i g a b c f, fop2Value i = some (g, a, b, c, f) → ∀ s x y t, s.Ready g [b, c] [a] false [x, y] t →
    exec i s = .next (t.floatResult a (f t.cur.mode x y))) ∧
  (∀ i g a b f, fop1Value i = some (g, a, b, f) → ∀ s x t, s.Ready g [b] [a] false [x] t →
    exec i s = .next (t.floatResult a (f t.cur.mode x))) ∧
  (∀ g d a b c s x y z t, s.Ready g [b, c, a] [a] false [x, y, z] t →
    exec (.fma g d a b c) s = .next (t.floatResult a ((fpOf d).fma t.cur.mode x y z))) ∧
  (∀ g dst src a b sh s x t, s.Ready g [b] [a] false [x] t →
    exec (.cvt g dst src a b sh) s =
      .next (t.floatResult a (convert ⟨t.curCore.lxm, t.curCore.cbk0, t.curCore.cbk1⟩ dst src t.cur.mode sh.toInt x))) ∧
  (∀ g cond d p b c s x y t, s.Ready g [b, c] [] false [x, y] t →
    ∃ q, exec (.fcmp g cond d p b c) s = .next ((t.modCur fun z =>
        { z with frm := z.frm ||| (((fpOf d).cmp cond x y).2.setWidth 7 <<< 2), pred := q }).advance) ∧
      onlyPred q t.cur.pred p ((fpOf d).cmp cond x y).1)) ∧
  ((∀ g a b c s x y t, s.Ready g [b, c] [a] true [x, y] t → t.curCore.fpFree ≤ t.cycle →
    exec (.fdiv g true a b c) s =
      .next (((t.modCurCore fun k => { k with fpFree := t.cycle + 24 }).landLater (t.cycle + 24) a none
        ((fpOf true).div t.cur.mode x y).1 0 ((fpOf true).div t.cur.mode x y).2).advance)) ∧
  (∀ g a b s x t, s.Ready g [b] [a] true [x] t → t.curCore.fpFree ≤ t.cycle →
    exec (.fsqrt g true a b) s =
      .next (((t.modCurCore fun k => { k with fpFree := t.cycle + 32 }).landLater (t.cycle + 32) a none
        ((fpOf true).sqrt t.cur.mode x).1 0 ((fpOf true).sqrt t.cur.mode x).2).advance)) ∧
  (∀ g a b c d s x y t, s.Ready g [c, d] [a, b] true [x, y] t →
    exec (.rngp g a b c d) s =
      .next ((if a = b then t.landLater (t.cycle + 12) b none (philox t.cur.rkey x y).2 0 0
        else t.landLater (t.cycle + 12) a (some b) (philox t.cur.rkey x y).1 (philox t.cur.rkey x y).2 0).advance)) ∧
  (∀ g a b s x t, s.Ready g [b] [a] false [x] t →
    exec (.rngf g a b) s = .next ((t.writeDst a (unit24 (fld x 63 40) ++ unit24 (fld x 31 8))).advance)))

/-- R155 to R158, R165, R166: the four roundings, as whole numbers over a common exponent, exact values, and the exact results of floating point, rounded. -/
def Obligations.FloatingPointRounding : Prop :=
  (∀ (mode : BitVec 2) neg m e q, ∀ A B D : Nat,
    A = m * 2 ^ (e - min e q).toNat → D = 2 ^ (q - min e q).toNat → B = (roundAt mode neg m e false q).1 * D →
    ((roundAt mode neg m e false q).2 = true ↔ A % D ≠ 0) ∧
    (mode = 0 → 2 * A ≤ 2 * B + D ∧ 2 * B ≤ 2 * A + D ∧
      (2 * A = 2 * B + D ∨ 2 * B = 2 * A + D → (roundAt mode neg m e false q).1 % 2 = 0)) ∧
    (mode = 1 ∨ (mode = 2 ∧ neg = true) ∨ (mode = 3 ∧ neg = false) → B ≤ A ∧ A < B + D) ∧
    ((mode = 2 ∧ neg = false) ∨ (mode = 3 ∧ neg = true) → A ≤ B ∧ B < A + D)) ∧
  (∀ f eb fb, fpBits f = some (eb, fb) → ∀ (mode : BitVec 2) b, b < 2 ^ (eb + fb + 1) →
    (∀ sig, unpackFp eb fb b ≠ .nan sig) → packFp eb fb mode (unpackFp eb fb b) = (b, 0)) ∧
  (∀ (f : FpFmt) (mode : BitVec 2) (a b c : Word), (f = ⟨8, 23⟩ ∨ f = ⟨11, 52⟩) → ∀ X Y Z, X = f.num b → Y = f.num c → Z = f.num a →
    ∀ (nan inf zero : Bool → FpFlags → Word × FpFlags), (∀ s e, nan s e = (f.qnan, e)) →
    (∀ s e, inf s e = (BitVec.ofNat 64 (f.infBits s), e)) → (∀ s e, zero s e = (BitVec.ofNat 64 (f.zeroBits s), e)) →
  ((X.isNaN = true ∨ Y.isNaN = true) → ∀ r, r = nan false (signalling [X, Y]) →
    f.add mode b c = r ∧ f.sub mode b c = r ∧ f.mul mode b c = r ∧ f.div mode b c = r) ∧
  (X.isNaN = true → f.sqrt mode b = nan false (signalling [X])) ∧
  ((X.isNaN = true ∨ Y.isNaN = true) → f.fma mode b c a = nan false (signalling [X, Y, Z])) ∧
  (∀ s t, X = .inf s → Y = .inf t →
    f.add mode b c = (if s = t then inf s 0 else nan false flagNV) ∧ f.sub mode b c = (if s = t then nan false flagNV else inf s 0) ∧
    f.mul mode b c = inf (s != t) 0 ∧ f.div mode b c = nan false flagNV) ∧
  (∀ s t m e, X = .inf s → Y = .fin t m e → f.add mode b c = inf s 0 ∧ f.sub mode b c = inf s 0 ∧
    f.mul mode b c = (if m = 0 then nan false flagNV else inf (s != t) 0) ∧ f.div mode b c = inf (s != t) 0) ∧
  (∀ s t m e, X = .fin s m e → Y = .inf t → f.add mode b c = inf t 0 ∧ f.sub mode b c = inf (!t) 0 ∧
    f.mul mode b c = (if m = 0 then nan false flagNV else inf (s != t) 0) ∧ f.div mode b c = zero (s != t) 0) ∧
  (∀ s m e t n d, X = .fin s m e → Y = .fin t n d →
    (∀ u (V : Int), (u = t ∨ u = !t) → V = signedNat s m * 2 ^ (e - min e d).toNat + signedNat u n * 2 ^ (d - min e d).toNat →
      ∀ r, r = (if u = t then f.add mode b c else f.sub mode b c) →
      (V ≠ 0 → f.Rounded mode (decide (V < 0)) (.ratio V.natAbs 1 (min e d)) r) ∧
      (V = 0 → r = zero (if m = 0 ∧ n = 0 ∧ s = u then s else mode == 3) 0)) ∧
    f.Rounded mode (s != t) (.ratio (m * n) 1 (e + d)) (f.mul mode b c) ∧
    (n ≠ 0 → f.Rounded mode (s != t) (.ratio m n (e - d)) (f.div mode b c)) ∧
    (n = 0 → m ≠ 0 → f.div mode b c = inf (s != t) flagDZ) ∧ (n = 0 → m = 0 → f.div mode b c = nan false flagNV)) ∧
  (∀ s, X = .inf s → f.sqrt mode b = if s then nan false flagNV else inf false 0) ∧
  (∀ s m e, X = .fin s m e → (m = 0 → f.sqrt mode b = zero s 0) ∧ (m ≠ 0 → s = true → f.sqrt mode b = nan false flagNV) ∧
    (m ≠ 0 → s = false → f.Rounded mode false (.root m e) (f.sqrt mode b))) ∧
  (∀ P, mulNum X Y = P → X.isNaN = false → Y.isNaN = false →
    (P = none → f.fma mode b c a = nan false flagNV) ∧
    (P ≠ none → Z.isNaN = true → f.fma mode b c a = nan false (signalling [Z])) ∧
    (∀ s, P = some (.inf s) → Z.isNaN = false → f.fma mode b c a = if Z = .inf (!s) then nan false flagNV else inf s 0) ∧
    (∀ s m e t, P = some (.fin s m e) → Z = .inf t → f.fma mode b c a = inf t 0) ∧
    (∀ s m e t n d (V : Int), P = some (.fin s m e) → Z = .fin t n d →
      V = signedNat s m * 2 ^ (e - min e d).toNat + signedNat t n * 2 ^ (d - min e d).toNat →
      (V ≠ 0 → f.Rounded mode (decide (V < 0)) (.ratio V.natAbs 1 (min e d)) (f.fma mode b c a)) ∧
      (V = 0 → f.fma mode b c a = zero (if m = 0 ∧ n = 0 ∧ s = t then s else mode == 3) 0))) ∧
  ((∀ s t m e n d, X = .fin s m e → Y = .fin t n d → mulNum X Y = some (.fin (s != t) (m * n) (e + d))) ∧
   (∀ s t, X = .inf s → Y = .inf t → mulNum X Y = some (.inf (s != t))) ∧
   (∀ s t m e, (X = .inf s ∧ Y = .fin t m e) ∨ (X = .fin s m e ∧ Y = .inf t) →
     mulNum X Y = if m = 0 then none else some (.inf (s != t)))))

/-- R176 to R184, R186, R454: the curve-code instructions. -/
def Obligations.CurveInstructions : Prop :=
  ((∀ g n1 a b s x t, s.Ready g [b] [a] false [x] t → ∃ v, exec (.cenc g n1 a b) s = .next ((t.writeDst a v).advance) ∧
    codeOnly (n1.toNat + 1) v ∧ ∀ j k, j < n1.toNat + 1 → k < 64 / (n1.toNat + 1) →
      v.getLsbD (k * (n1.toNat + 1) + j) = x.getLsbD (j * (64 / (n1.toNat + 1)) + k)) ∧
  (∀ g n1 a b s x t, s.Ready g [b] [a] false [x] t → ∃ v, exec (.cdec g n1 a b) s = .next ((t.writeDst a v).advance) ∧
    codeOnly (n1.toNat + 1) v ∧ ∀ j k, j < n1.toNat + 1 → k < 64 / (n1.toNat + 1) →
      v.getLsbD (j * (64 / (n1.toNat + 1)) + k) = x.getLsbD (k * (n1.toNat + 1) + j)) ∧
  (∀ g n1 a b c ax s x y t, s.Ready g [b, c] [a] false [x, y] t →
    ∃ v, exec (.cins g n1 a b c ax) s = .next ((t.writeDst a v).advance) ∧
    codeOnly (n1.toNat + 1) v ∧ ∀ j k, j < n1.toNat + 1 → k < 64 / (n1.toNat + 1) →
      v.getLsbD (k * (n1.toNat + 1) + j) = if j = ax.toNat then y.getLsbD k else x.getLsbD (k * (n1.toNat + 1) + j)) ∧
  (∀ g n1 a b ax s x t, s.Ready g [b] [a] false [x] t → ∃ v, exec (.cext g n1 a b ax) s = .next ((t.writeDst a v).advance) ∧
    ∀ k, v.getLsbD k = (decide (k < 64 / (n1.toNat + 1)) && x.getLsbD (k * (n1.toNat + 1) + ax.toNat))) ∧
  (∀ g n1 a b lv s x t, s.Ready g [b] [a] false [x] t → ∃ v, exec (.clvl g n1 a b lv) s = .next ((t.writeDst a v).advance) ∧
    codeOnly (n1.toNat + 1) v ∧ ∀ k, k < (n1.toNat + 1) * (64 / (n1.toNat + 1)) →
      v.getLsbD k = (decide (lv.toNat * (n1.toNat + 1) ≤ k) && x.getLsbD k)) ∧
  (∀ g n1 a b s x t, s.Ready g [b] [a] false [x] t → ∃ v, exec (.cpar g n1 a b) s = .next ((t.writeDst a v).advance) ∧
    ∀ k, v.getLsbD k =
      (decide (k + (n1.toNat + 1) < (n1.toNat + 1) * (64 / (n1.toNat + 1))) && x.getLsbD (k + (n1.toNat + 1))))) ∧
  (∀ (sub : Bool) g (n1 : BitVec 3) sgn a b c s x y t, s.Ready g [b, c] [a] false [x, y] t → ∀ n, n = n1.toNat + 1 →
    ∀ T : Nat → Int, (∀ j, T j = (axisNat n j x.toNat : Int) + (if sub then -1 else 1) * axisOffset n sgn y j) →
    ∃ v q, exec (if sub then .csub g n1 sgn a b c else .cadd g n1 sgn a b c) s =
        .next (((t.modCur fun z => { z with pred := q }).writeDst a v).advance) ∧
      codeOnly n v ∧ (∀ j, j < n → (axisNat n j v.toNat : Int) = T j % 2 ^ (64 / n)) ∧
      ∀ k, k < 8 → q.getLsbD k = if k < n then decide (T k < 0 ∨ 2 ^ (64 / n) ≤ T k) else t.cur.pred.getLsbD k) ∧
  (∀ g (n1 : BitVec 3) p b c d s x lo hi t, s.Ready g [b, c, d] [] false [x, lo, hi] t →
    ∃ q v, exec (.cbox g n1 p b c d) s = .next ((t.modCur fun z => { z with pred := q }).advance) ∧
      onlyPred q t.cur.pred p v ∧ (v = true ↔ Inside (n1.toNat + 1) lo.toNat hi.toNat x.toNat)) ∧
  (∀ g n1 a b c d off m1 s x lo hi t, s.Ready g [b, c, d] [a] false [x, lo, hi] t →
    off.toNat % 16 = 0 → t.curCore.inScratch (poolSize t.curUnit) off.toNat (16 * (m1.toNat + 1)) = true →
    t.curCore.rangeLocked (ownAddr off.toNat) (16 * (m1.toNat + 1)) true = false →
    ∃ k r, exec (.csplit g n1 a b c d off m1) s = .next r ∧
      k.who = t.curWho ∧ k.dest = a ∧ k.n1 = n1 ∧ k.start = x ∧ k.lo = lo ∧ k.hi = hi ∧ k.off = off.toNat ∧
      k.m = m1.toNat + 1 ∧ k.killed = none ∧
      r.cur = { t.cur with run := .wait .reply, aging := 0, trip := .out .reply, replyDest := a } ∧
      (t.curCore.curve = none → t.curCore.curves = [] → t.cur.work ≠ .none → t.cur.ending = none →
        r.curCore.curve = some { k with til := t.cycle + 4 + k.split.1.length } ∧ r.curCore.curves = [] ∧
        r.agenda.length = t.agenda.length + k.split.1.length + 1) ∧
      (∀ k', t.curCore.curve = some k' → r.curCore.curve = some k' ∧ r.curCore.curves = t.curCore.curves ++ [k] ∧
        r.agenda = t.agenda))

/-- R185: CNEXT, against every code. -/
def Obligations.CurveNextIsSmallest : Prop :=
  ∀ g (n1 : BitVec 3) a b c d s x lo hi t, s.Ready g [b, c, d] [a] false [x, lo, hi] t → ∀ n, n = n1.toNat + 1 →
    ∃ v q found, exec (.cnext g n1 a b c d) s = .next (((t.modCur fun z => { z with pred := q }).writeDst a v).advance) ∧
      onlyPred q t.cur.pred 0 found ∧
      (found = true → codeNat n x ≤ v.toNat ∧ v.toNat < 2 ^ (n * (64 / n)) ∧ Inside n lo.toNat hi.toNat v.toNat) ∧
      (∀ y, codeNat n x ≤ y → y < 2 ^ (n * (64 / n)) → Inside n lo.toNat hi.toNat y → found = true ∧ v.toNat ≤ y) ∧
      (found = false → v = BitVec.allOnes 64)

/-- R186: the runs of a box, against every code. -/
def Obligations.CurveRuns : Prop :=
  ∀ n lo hi x m, 1 ≤ n → n ≤ 8 → x < 2 ^ (n * (64 / n)) → lo < 2 ^ (n * (64 / n)) → hi < 2 ^ (n * (64 / n)) →
    (∀ r ∈ runsOf n lo hi x m, x ≤ r.1 ∧ r.1 ≤ r.2 ∧ r.2 < 2 ^ (n * (64 / n)) ∧
      ∀ y, r.1 ≤ y → y ≤ r.2 → Inside n lo hi y) ∧
    ((runsOf n lo hi x m).Pairwise fun r r' => r.2 + 1 < r'.1) ∧ (runsOf n lo hi x m).length ≤ m + 1 ∧
    ((runsOf n lo hi x m).length ≤ m → ∀ y, x ≤ y → y < 2 ^ (n * (64 / n)) → Inside n lo hi y →
      ∃ r ∈ runsOf n lo hi x m, r.1 ≤ y ∧ y ≤ r.2)

/-- R231, R246 to R250: accesses of the own pool. -/
def Obligations.OwnPoolAccesses : Prop :=
  ((∀ g wd z a b imm s x t off, s.Ready g [b] [a] false [x] t → a ≠ 29 → t.OwnOk (addrImm x imm) off (widthBytes wd) false →
    exec (.ld g wd z a b imm) s =
      .next ((t.writeDst a (loadValue z (widthBytes wd) (t.curCore.poolRead off (widthBytes wd)))).advance)) ∧
  (∀ g wd z a b c sh s x y t off, s.Ready g [b, c] [a] false [x, y] t → a ≠ 29 →
    t.OwnOk (addrIndex x y sh) off (widthBytes wd) false →
    exec (.ldx g wd z a b c sh) s =
      .next ((t.writeDst a (loadValue z (widthBytes wd) (t.curCore.poolRead off (widthBytes wd)))).advance)) ∧
  (∀ g a b imm s x t off, s.Ready g [b] [a] false [x] t → a ≠ 0 → a.toNat ≤ 26 → t.cur.badDst (a + 1) = false →
    t.waitDst (a + 1) = .ok () → t.OwnOk (addrImm x imm) off 16 false →
    exec (.ldp g a b imm) s =
      .next (((t.writeDst a (t.curCore.poolWord off)).writeDst (a + 1) (t.curCore.poolWord (off + 8))).advance))) ∧
  ((∀ g wd a b imm s x v t off, s.Ready g [b, a] [] false [x, v] t → t.OwnOk (addrImm x imm) off (widthBytes wd) true →
    exec (.st g wd a b imm) s = .next ((t.storeOwn off (widthBytes wd) v.toNat).advance)) ∧
  (∀ g wd a b c sh s x y v t off, s.Ready g [b, c, a] [] false [x, y, v] t →
    t.OwnOk (addrIndex x y sh) off (widthBytes wd) true →
    exec (.stx g wd a b c sh) s = .next ((t.storeOwn off (widthBytes wd) v.toNat).advance)) ∧
  (∀ g a b imm s x t off, s.Ready g [b, a] [] false [x, t.cur.val a] t → a ≠ 0 → a.toNat ≤ 26 →
    t.cur.badSrc (a + 1) = false → t.cur.isFull (a.toNat + 1) = true → t.cur.isFull a.toNat = true →
    t.OwnOk (addrImm x imm) off 16 true →
    exec (.stp g a b imm) s = .next ((t.storeOwn off 16 ((t.cur.val a).toNat + (t.cur.val (a + 1)).toNat * 2 ^ 64)).advance))) ∧
  ((∀ i g w a b c op, amoForm i = some (g, w, a, b, c, op) → ∀ s x y t off, s.Ready g [b, c] [a] false [x, y] t → a ≠ 29 →
    t.OwnOk x off (bits w / 8) true → ∀ old, old = BitVec.ofNat 64 (t.curCore.poolRead off (bits w / 8)) →
    exec i s = .next (((t.storeOwn off (bits w / 8) (amoValue op w old y)).writeDst a (result w (signed w old))).advance)) ∧
  (∀ g w a b c d s x y z t off, s.Ready g [b, c, d] [a] false [x, y, z] t → a ≠ 29 → t.OwnOk x off (bits w / 8) true →
    ∀ old, old = BitVec.ofNat 64 (t.curCore.poolRead off (bits w / 8)) →
    exec (.cas g w a b c d) s =
      .next (((t.storeOwn off (bits w / 8) (if unsigned w old = unsigned w y then unsigned w z else unsigned w old)).writeDst a
        (result w (signed w old))).advance)))

/-- R231, R246 to R251, R266, R276 to R280: accesses that leave the core. -/
def Obligations.FarAccesses : Prop :=
  ((∀ g wd z a b imm s x t, s.Ready g [b] [a] false [x] t → a ≠ 29 → t.FarOk (addrImm x imm) (widthBytes wd) false →
    exec (.ld g wd z a b imm) s = .next ((t.issueLoad (.ld wd z) (addrImm x imm) 0 0 a none).advance)) ∧
  (∀ g wd z a b c sh s x y t, s.Ready g [b, c] [a] false [x, y] t → a ≠ 29 →
    t.FarOk (addrIndex x y sh) (widthBytes wd) false →
    exec (.ldx g wd z a b c sh) s = .next ((t.issueLoad (.ld wd z) (addrIndex x y sh) 0 0 a none).advance)) ∧
  (∀ g a b imm s x t, s.Ready g [b] [a] false [x] t → a ≠ 0 → a.toNat ≤ 26 → t.cur.badDst (a + 1) = false →
    t.waitDst (a + 1) = .ok () → t.FarOk (addrImm x imm) 16 false →
    exec (.ldp g a b imm) s = .next ((t.issueLoad .ldp (addrImm x imm) 0 0 a (some (a + 1))).advance)) ∧
  (∀ i g w a b c op, amoForm i = some (g, w, a, b, c, op) → ∀ s x y t, s.Ready g [b, c] [a] false [x, y] t → a ≠ 29 → a ≠ 0 →
    t.FarOk x (bits w / 8) true → exec i s = .next ((t.issueLoad (.amo op w) x y 0 a none).advance)) ∧
  (∀ g w a b c d s x y z t, s.Ready g [b, c, d] [a] false [x, y, z] t → a ≠ 29 → a ≠ 0 → t.FarOk x (bits w / 8) true →
    exec (.cas g w a b c d) s = .next ((t.issueLoad (.cas w) x y z a none).advance))) ∧
  ((∀ g wd a b imm s x v t k, s.Ready g [b, a] [] false [x, v] t → t.FarOk (addrImm x imm) (widthBytes wd) true →
    t.curCore.freeEntry = some k →
    exec (.st g wd a b imm) s = .next ((t.postStore k (.st wd) (addrImm x imm) v 0).advance)) ∧
  (∀ g wd a b c sh s x y v t k, s.Ready g [b, c, a] [] false [x, y, v] t → t.FarOk (addrIndex x y sh) (widthBytes wd) true →
    t.curCore.freeEntry = some k →
    exec (.stx g wd a b c sh) s = .next ((t.postStore k (.st wd) (addrIndex x y sh) v 0).advance)) ∧
  (∀ g a b imm s x t k, s.Ready g [b, a] [] false [x, t.cur.val a] t → a ≠ 0 → a.toNat ≤ 26 →
    t.cur.badSrc (a + 1) = false → t.cur.isFull (a.toNat + 1) = true → t.cur.isFull a.toNat = true →
    t.FarOk (addrImm x imm) 16 true → t.curCore.freeEntry = some k →
    exec (.stp g a b imm) s = .next ((t.postStore k .stp (addrImm x imm) (t.cur.val a) (t.cur.val (a + 1))).advance)) ∧
  (∀ i g w b c op, amoForm i = some (g, w, 0, b, c, op) → ∀ s x y t k, s.Ready g [b, c] [0] false [x, y] t →
    t.FarOk x (bits w / 8) true → t.curCore.freeEntry = some k →
    exec i s = .next ((t.postAmo k (.amo op w) x y 0).advance)) ∧
  (∀ g w b c d s x y z t k, s.Ready g [b, c, d] [0] false [x, y, z] t → t.FarOk x (bits w / 8) true →
    t.curCore.freeEntry = some k → exec (.cas g w 0 b c d) s = .next ((t.postAmo k (.cas w) x y z).advance))) ∧
  ((∀ g a b imm s x t va, s.Ready g [b] [a] false [x] t → a ≠ 29 → t.FarOk (addrImm x imm) 8 false →
    targetOf t.curUnit (addrImm x imm) = some (.global va) →
    exec (.ldv g a b imm) s = .next ((t.issueLoad .ldv (addrImm x imm) 0 0 a none).advance) ∧
    exec (.ldt g a b imm) s = .next ((t.issueLoad .ldt (addrImm x imm) 0 0 a none).advance)) ∧
  (∀ g a b imm s x t v off, s.Ready g [b] [a] false [x] t → a ≠ 29 → t.FarOk (addrImm x imm) 8 false →
    targetOf t.curUnit (addrImm x imm) = some (.pool v off) →
    exec (.ldv g a b imm) s = .next ((t.issueLoad (.ld .d false) (addrImm x imm) 0 0 a none).advance) ∧
    exec (.ldt g a b imm) s = .next ((t.writeDst a 0).advance)) ∧
  (∀ g a b imm s x t off, s.Ready g [b] [a] false [x] t → a ≠ 29 → t.OwnOk (addrImm x imm) off 8 false →
    exec (.ldv g a b imm) s = .next ((t.writeDst a (t.curCore.poolWord off)).advance) ∧
    exec (.ldt g a b imm) s = .next ((t.writeDst a 0).advance)) ∧
  (∀ g a b imm s x v t va k, s.Ready g [b, a] [] false [x, v] t → t.FarOk (addrImm x imm) 8 true →
    targetOf t.curUnit (addrImm x imm) = some (.global va) → t.curCore.freeEntry = some k →
    exec (.stf g a b imm) s = .next ((t.postStore k .stf (addrImm x imm) v 0).advance) ∧
    exec (.ssus g a b imm) s = .next ((t.postStore k .ssus (addrImm x imm) v 0).advance)) ∧
  (∀ g b imm s x t va k, s.Ready g [b] [] false [x] t → t.FarOk (addrImm x imm) 8 true →
    targetOf t.curUnit (addrImm x imm) = some (.global va) → t.curCore.freeEntry = some k →
    exec (.semp g b imm) s = .next ((t.postStore k .semp (addrImm x imm) 0 0).advance)))

/-- R104, R244, R247, R251, R252, R254, R255, R289, R386: the record of an access, with its frame. -/
def Obligations.IssuedAccessesAreRecorded : Prop :=
  (∀ (s t : State) k a c d r r2, t = s.issueLoad k a c d r r2 →
    (∃ o acc, t.curCore.out = s.curCore.out ++ [o] ∧ o.kind = .access acc ∧ o.dest = r ∧ o.dest2 = r2 ∧ o.who = s.curWho ∧
      acc.kind = k ∧ acc.addr = a ∧ acc.c = c ∧ acc.d = d ∧ acc.dest = r ∧ acc.space = s.spaceOf s.curUnit ∧
      acc.sys = s.sysOf s.curUnit ∧ acc.pc = s.cur.pc ∧ acc.entry = none ∧ o.tid = acc.tid ∧ acc.tid = s.nextSeq ∧
      (s.curCore.loadBlocked acc.tid o.words = true →
        t.curCore.held = s.curCore.held ++ [⟨⟨reqInstr k, .access acc⟩, false, 0, acc.tid, o.words⟩] ∧ t.agenda = s.agenda)) ∧
    (∀ q, isWindow q = true → (q = r ∨ r2 = some q) → t.cur.isPend q.toNat = true ∧ t.cur.isFull q.toNat = false) ∧
    (∀ q : Reg, q ≠ r → r2 ≠ some q → t.cur.isPend q.toNat = s.cur.isPend q.toNat ∧ t.cur.isFull q.toNat = s.cur.isFull q.toNat) ∧
    t.cur.regs = s.cur.regs ∧ t.cur.ln = s.cur.ln ∧ t.cur.pred = s.cur.pred ∧ t.cur.frm = s.cur.frm ∧ t.cur.pc = s.cur.pc ∧
    t.curCore.pool = s.curCore.pool ∧ t.curCore.journal = s.curCore.journal ∧ s.SameMemory t ∧
    ∀ u, u ≠ s.curUnit → t.core u = s.core u) ∧
  (∀ (s t : State) k kind a d0 d1, t = s.postStore k kind a d0 d1 →
    (∃ j p, afind t.curCore.journal k = some j ∧ j.st = .posted ∧ j.slot = s.curSlot ∧ j.sgen = s.cur.sgen ∧ j.addr = a ∧
      j.pc = s.cur.pc ∧ j.kind = storeKindCode kind ∧ 2 ^ j.size.toNat = storeSize kind ∧ j.req = some (.store p) ∧
      p.addr = a ∧ p.d0 = d0 ∧ p.d1 = d1 ∧ p.kind = kind ∧ p.entry = k ∧ p.space = s.spaceOf s.curUnit ∧
      t.curCore.pscl = s.curCore.pscl + (if j.pscl then 1 else 0) ∧ t.curCore.pscr = s.curCore.pscr + (if j.pscl then 0 else 1) ∧
      (unitDie (s.homeUnit s.curUnit p.space a) = unitDie s.curUnit → j.pscl = true) ∧
      (s.curCore.storeBlocked p.stamp (wordsOf p.space a (storeSize kind)) = true → t.agenda = s.agenda ∧
        ∃ h, t.curCore.held = s.curCore.held ++ [h] ∧ h.req = ⟨storeInstr kind, .store p⟩)) ∧
    (∀ e, e ≠ k → afind t.curCore.journal e = afind s.curCore.journal e) ∧
    t.cur = s.cur ∧ t.curCore.pool = s.curCore.pool ∧ t.curCore.out = s.curCore.out ∧ s.SameMemory t ∧
    ∀ u, u ≠ s.curUnit → t.core u = s.core u)

/-- R290, R291, R293: fences (RFENCE drops shape-record reads in flight: log 32, DESIGN CHOICE). -/
def Obligations.FencesWait : Prop :=
  (∀ i g kind scope, (i = .fenceRel g scope ∧ kind = 0) ∨ (i = .fenceAcq g scope ∧ kind = 1) ∨ (i = .fenceFull g scope ∧ kind = 2) →
    ∀ s, s.cur.guard g = true → s.cur.holds = [] →
    ∃ r, exec i s = .next r ∧
      (s.curCore.loadsOut s.curSlot = true → r.cur.run = .wait .fence ∧ r.cur.pc = s.cur.pc) ∧
      (s.curCore.loadsOut s.curSlot = false → kind ≠ 1 → scope ≠ .core →
        (∃ e j, afind s.curCore.journal e = some j ∧ j.counted = true ∧ (j.pscl = true ∨ scope ≠ .die)) →
        r.cur.run = .wait .fence ∧ r.cur.pc = s.cur.pc) ∧
      (s.curCore.loadsOut s.curSlot = false →
        (kind = 1 ∨ scope = .core ∨ (s.curCore.journal.any fun p => p.2.counted && (p.2.pscl || scope != .die)) = false) →
        (kind = 0 ∨ (scope ≠ .pkg ∧ scope ≠ .sys) → r.cur.pc = s.cur.nextPc ∧ r.cur.run = .ready ∧ r.cur.readyAt = s.cycle + 1 ∧
          r.cur.fence = none) ∧
        (kind ≠ 0 → scope = .pkg ∨ scope = .sys → r.cur.run = .wait .fence ∧ r.cur.pc = s.cur.pc ∧
          ∃ f, r.cur.fence = some f ∧ f.confirms = some ((List.range 64).map (unitDie s.curUnit * 64 + ·)))) ∧
      r.cur.regs = s.cur.regs ∧ r.cur.full = s.cur.full ∧ r.cur.pend = s.cur.pend ∧ s.SameMemory r) ∧
  (∀ g s, s.cur.guard g = true → s.cur.holds = [] →
    ∃ r f, exec (.rfence g) s = .next r ∧ r.cur.run = .wait .fence ∧ r.cur.pc = s.cur.pc ∧ r.cur.fence = some f ∧
      f.kind = 2 ∧ f.scope = .pkg ∧ f.rfence = true ∧
      (s.curCore.loadsOut s.curSlot = false → (s.curCore.journal.any fun p => p.2.counted) = false →
        f.confirms = some ((List.range 64).map (unitDie s.curUnit * 64 + ·))) ∧
      (∀ (s' : State) u i (f' : FenceRun), f'.kind ≠ 3 → f'.rfence = true →
        ((s'.fenceDone u i f').core u).recs = [] ∧ ((s'.fenceDone u i f').core u).recReads = [] ∧
        ((∀ q ∈ (s'.core u).recReads, q.noticed = []) → ((s'.fenceDone u i f').slot u i).pc = (s'.slot u i).nextPc)))

/-- R109, R110, R361, R384, R464: the control registers. -/
def Obligations.ControlRegisters : Prop :=
  ((∀ g a num s t, s.Ready g [] [a] false [] t → ∀ v, (num.toNat, v) ∈ t.controlRegisters →
    exec (.rdc g a num) s = .next ((t.writeDst a (BitVec.ofNat 64 v)).advance)) ∧
  (∀ g a s t, s.Ready g [] [a] false [] t →
    exec (.rdcyc g a) s = .next ((t.writeDst a (BitVec.ofNat 64 t.cycle)).advance))) ∧
  (∀ g b (num : BitVec 16) s v t, s.Ready g [b] [] false [v] t →
    ((num = 4 ∨ num = 0x20 ∨ num = 0x21 ∨ num = 0x22) → s.sysOf s.curUnit = false →
      exec (.wrc g b num) s = .next (s.exactFault { code := 12 })) ∧
    (((num = 4 ∨ num = 0x20 ∨ num = 0x21 ∨ num = 0x22) → s.sysOf s.curUnit = true) →
      (num = 0 → exec (.wrc g b num) s = .next ((t.modCur fun x => { x with
        frm := v.setWidth 7 ||| ((if t.cur.landed.1 = t.cycle then t.cur.landed.2 else 0).setWidth 7 <<< 2) }).advance)) ∧
      (num = 1 → exec (.wrc g b num) s = .next ((t.modCur fun x => { x with rkey := v }).advance)) ∧
      (num = 3 → v.toNat % 256 = 0 → v.toNat % 2 ^ 20 ≤ t.cur.fflim.toNat →
        exec (.wrc g b num) s = .next ((t.modCur fun x => { x with ffrm := v.setWidth 20 }).advance)) ∧
      (num = 4 → v.toNat % 256 = 0 → v.toNat % 2 ^ 20 ≤ poolSize t.curUnit - 4096 →
        exec (.wrc g b num) s = .next ((t.modCur fun x => { x with fflim := v.setWidth 20 }).advance)) ∧
      (num = 0x10 → exec (.wrc g b num) s = .next ((t.modCurCore fun c => { c with mfmt := v.setWidth 11 }).advance)) ∧
      (num = 0x11 → exec (.wrc g b num) s = .next ((t.modCurCore fun c => { c with msca := v.setWidth 17 }).advance)) ∧
      (num = 0x12 → exec (.wrc g b num) s = .next ((t.modCurCore fun c => { c with mscb := v.setWidth 17 }).advance)) ∧
      (num = 0x13 → ∃ m, exec (.wrc g b num) s = .next ((t.modCurCore fun c => { c with mfmt := m }).advance) ∧
        ∀ k, k < 11 → m.getLsbD k = if k = 10 then v.getLsbD 0 else t.curCore.mfmt.getLsbD k) ∧
      (num = 0x14 → exec (.wrc g b num) s = .next ((t.modCurCore fun c => { c with cbk0 := v }).advance)) ∧
      (num = 0x15 → exec (.wrc g b num) s = .next ((t.modCurCore fun c => { c with cbk1 := v }).advance)) ∧
      (∀ ch, ch < 4 → num.toNat = 0x18 + ch → v.toNat % 4 = 0 →
        exec (.wrc g b num) s = .next ((t.modCurCore fun c => { c with xcw := aset 0 c.xcw ch v }).advance)) ∧
      (num = 0x1C → ∃ r : State, exec (.wrc g b num) s = .next r.advance ∧ r.curCore = { t.curCore with timer := v } ∧
        (v = 0 → r.agenda = t.agenda) ∧
        (v ≠ 0 → ∃ p, r.agenda = p :: t.agenda ∧ p.due = max (t.cycle + 1) v.toNat ∧ p.ev = ⟨.timerEvent, .unitWord t.curUnit v⟩)) ∧
      (num = 0x1D → exec (.wrc g b num) s = .next ((t.modCurCore fun c => { c with evto := v }).advance)) ∧
      (num = 0x20 → exec (.wrc g b num) s = .next (s.exactFault { code := 19 })) ∧
      (num = 0x21 → ∃ r : State, exec (.wrc g b num) s = .next r.advance ∧ r.curCore = { t.curCore with gstop := v } ∧
        (v = 0 → r.agenda = t.agenda) ∧
        (v ≠ 0 → ∃ p, r.agenda = p :: t.agenda ∧ p.due = max (t.cycle + 1) v.toNat ∧ p.ev = ⟨.syncStop, .unitWord t.curUnit v⟩)) ∧
      (num = 0x22 → exec (.wrc g b num) s = .next ((t.modCurCore fun c => { c with viid := v.setWidth 6 }).advance)) ∧
      (num ∈ [2, 0x16, 0x30, 0x31, 0x32, 0x33] → exec (.wrc g b num) s = .next t.advance)))

/-- R254, R255, R352 to R356, R362, R363 (the place of a posted event in the event area: log 38, DESIGN CHOICE). -/
def Obligations.ChainEventsAndJournal : Prop :=
  ((∀ g s, s.cur.guard g = true → s.holdsChain s.curUnit s.curSlot = true →
    ∃ q, exec (.qpoll g) s = .next ((s.modCur fun z => { z with pred := q }).advance) ∧
      onlyPred q s.cur.pred 0 (!s.curCore.qi.isEmpty || !s.curCore.qchain.getLsbD 15)) ∧
  (∀ g s, s.cur.guard g = true → s.holdsChain s.curUnit s.curSlot = true → s.curCore.qchain.getLsbD 31 = false →
    exec (.qeos g) s = .next s.advance) ∧
  (∀ g s, s.cur.guard g = true → s.holdsChain s.curUnit s.curSlot = true → s.curCore.qchain.getLsbD 31 = true →
    s.curCore.qo.length < 8 →
    exec (.qeos g) s = .next
      (((s.modCurCore fun c => { c with qo := c.qo ++ [⟨0, c.mfmt.getLsbD 10, true⟩] }).drainQo s.curUnit).advance))) ∧
  (∀ g a mask s t, s.Ready g [] [a] false [] t →
    (∀ w, t.curCore.timerEv = some w → mask.getLsbD 0 = true →
      ∃ v, exec (.evwait g a mask) s = .next (((t.modCurCore fun c => { c with timerEv := none }).writeDst a v).advance) ∧
        v.toNat = 2 ^ 60 + w.toNat % 2 ^ 60) ∧
    (∀ p ps, (t.curCore.timerEv = none ∨ mask.getLsbD 0 = false) → t.curCore.posts = p :: ps → mask.getLsbD 2 = true →
      exec (.evwait g a mask) s = .next (((t.modCurCore fun c => { c with posts := ps }).writeDst a
        (t.curCore.poolWord (poolSize t.curUnit - 4096 + 0x400 + 16 * p))).advance)) ∧
    ((t.curCore.timerEv = none ∨ mask.getLsbD 0 = false) → (t.curCore.posts = [] ∨ mask.getLsbD 2 = false) →
      t.curCore.qi ≠ [] → mask.getLsbD 1 = true →
      exec (.evwait g a mask) s = .next (((t.modCurCore fun c => c).writeDst a 0x2000000000000000).advance)) ∧
    ((t.curCore.timerEv = none ∨ mask.getLsbD 0 = false) → (t.curCore.posts = [] ∨ mask.getLsbD 2 = false) →
      (t.curCore.qi = [] ∨ mask.getLsbD 1 = false) →
      exec (.evwait g a mask) s = .next ((t.modCurCore fun c => { c with evOrder := c.evOrder + 1 }).modCur fun x =>
        { x with run := .wait (.event mask t.curCore.evOrder), aging := 0, replyDest := a }))) ∧
  ((∀ g a b s x t, s.Ready g [b] [a] false [x] t →
    exec (.jstat g a b) s =
      .next ((t.writeDst a (BitVec.ofNat 64 (journalWord ((afind t.curCore.journal (x.toNat % 64)).getD {})))).advance)) ∧
  (∀ g a b s x t, s.Ready g [b] [a] false [x] t →
    (∀ j, afind t.curCore.journal (x.toNat % 64) = some j → j.st = .refused →
      exec (.jreplay g a b) s = .next (((t.repost t.curUnit (x.toNat % 64)).writeDst a 1).advance) ∧
      ∃ j', afind (t.repost t.curUnit (x.toNat % 64)).curCore.journal (x.toNat % 64) = some j' ∧ j'.st = .posted ∧
        j'.addr = j.addr ∧ j'.cause = 0 ∧ j'.kind = j.kind ∧ j'.slot = j.slot) ∧
    ((∀ j, afind t.curCore.journal (x.toNat % 64) = some j → j.st ≠ .refused) →
      exec (.jreplay g a b) s = .next ((t.writeDst a 0).advance))))

/-- R199, R239 to R243, R247, R249, R250, R329 (an atomic with a destination passes the die's replica slice: log 39, DEDUCED). -/
def Obligations.LoadsAndAtomicsAtHome : Prop :=
  (∀ (s : State) a wd z, s.arg = .access a → a.kind = .ld wd z → a.entry = none → ∀ n id off, n = widthBytes wd →
    id = unitIdent a.at_ → off = a.addr.toNat % 128 → ∀ a', a' = (if a.came = 0 then { a with came := s.cycle } else a) →
    (a.replica = false → s.PoolOpen a.at_ (poolOff a.at_ a.addr) n a.who.unit → exec .loadAtHome s =
      .next (s.landed a 6 (.val (loadValue z n ((s.core a.at_).poolRead (poolOff a.at_ a.addr) n)) 0 0))) ∧
    (unitKind a.at_ = 1 → a.replica = false → s.homeOfSlice id a.space a.addr = id → ∀ pa e l t q,
      s.AtHome id a.space a.addr .read a.sys pa e l t q → (q.slice id).w = 0 → (q.slice id).windows = [] → (∀ k ∈ lineWords off n, l.marked.getLsbD k = false) →
      exec .loadAtHome s = .next (q.landed a t (.val (loadValue z n (l.bytes off n)) 0 0))) ∧
    (unitKind a.at_ = 1 → a.replica = true → s.homeOfSlice id a.space a.addr = id → a.at_ = sliceUnit id →
      unitDie a.who.unit * 64 + id % 64 ≠ id → ∀ pa e l t q, s.AtHome id a.space a.addr .read a.sys pa e l t q →
      (q.slice id).w = 0 → (q.slice id).windows = [] → (∀ k ∈ lineWords off n, l.marked.getLsbD k = false) →
      ∃ m : ReplicaMsg, exec .loadAtHome s =
        .next (q.send 1 rankUnit a.at_ (sliceUnit m.slice) a.space false t ⟨.replicaFill, .replica m⟩ none) ∧
        m.slice = unitDie a.who.unit * 64 + id % 64 ∧ m.space = a.space ∧ m.line = a.addr.toNat / 128 ∧ m.stamp = a.walk ∧
        m.access = a' ∧ m.read = q.nextSeq ∧ m.res = .val (loadValue z n (l.bytes off n)) 0 0 ∧
        (l.tags = 0 → l.marked = 0 → m.data = some l.data) ∧ (l.tags ≠ 0 → m.data = none ∧ m.drop = true)) ∧
    (unitKind a.at_ = 1 → a.replica = true → unitDie a.who.unit * 64 + id % 64 = id → s.homeOfSlice id a.space a.addr ≠ id →
      ∀ k, (s.slice id).replicas.find? (fun l => l.svs == a.space.svs && l.viid == a.space.viid && l.line == a.addr.toNat / 128) = some k →
      a.at_ = sliceUnit id → ∃ r, exec .loadAtHome s = .next ((s.modSlice id fun x => { x with perf := bumpPerf x.perf 0x20 1 }).landed a 36 r) ∧
        r = .val (loadValue z n ((k.data.extractLsb' (8 * off) (8 * n)).toNat)) 0 0) ∧
    (unitKind a.at_ = 1 → a.replica = false → s.homeOfSlice id a.space a.addr = id →
      (s.slice id).heldAt a.space (chunkOf a.addr) = none → a.space.svs = false → ∀ q, s.translate id a.space a.addr .read a.sys = (.miss, q) →
      exec .loadAtHome s = .next (q.sendNotice id a.space a.addr false ⟨.loadAtHome, .access a'⟩))) ∧
  (∀ (s : State) (a : Access) w (V : Word → Nat), s.arg = .access a → a.entry = none → a.replica = false →
    (∀ old, V old = match a.kind with
      | .amo op _ => amoValue op w old a.c
      | _ => if unsigned w old = unsigned w a.c then unsigned w a.d else unsigned w old) →
    ((∃ op, a.kind = .amo op w) ∨ a.kind = .cas w) → ∀ n id off, n = bits w / 8 → id = unitIdent a.at_ → off = a.addr.toNat % 128 →
    (s.PoolOpen a.at_ (poolOff a.at_ a.addr) n a.who.unit → ∀ old,
      old = BitVec.ofNat 64 ((s.core a.at_).poolRead (poolOff a.at_ a.addr) n) → exec .amoAtHome s =
      .next ((s.modCore a.at_ fun c => c.poolWrite (poolOff a.at_ a.addr) (bytesOf n (V old))).landed a 6
        (.val (result w (signed w old)) 0 0))) ∧
    (unitKind a.at_ = 1 → s.homeOfSlice id a.space a.addr ≠ id → exec .amoAtHome s = .next (s.forwardRmw id a) ∧
      ∀ k ∈ ((s.forwardRmw id a).slice id).replicas, ¬(k.svs = a.space.svs ∧ k.viid = a.space.viid ∧ k.line = a.addr.toNat / 128)) ∧
    (unitKind a.at_ = 1 → s.homeOfSlice id a.space a.addr = id → ∀ pa e l t q,
      s.AtHome id a.space a.addr .write a.sys pa e l t q →
      (l.tag (off / 8) ≠ 0 → exec .amoAtHome s = .next (q.landed a t (.fail 7))) ∧
      (l.tag (off / 8) = 0 → l.marked.getLsbD (off / 8) = false → ∀ old r, old = BitVec.ofNat 64 (l.bytes off n) →
        q.Wrote r id a.space a.addr pa e l (q.keepDrop id a.space pa off n l (l.put off n (V old))) →
        exec .amoAtHome s = .next ((r.staleReplica id a.who.unit a.space a.addr).landed a t (.val (result w (signed w old)) 0 0)))))

/-- R199, R248, R251, R259, R264, R287, R390 (the retry after 256 cycles: log 25, DEDUCED). -/
def Obligations.StoresAtHome : Prop :=
  ∀ (s : State) p wd, s.arg = .store p → p.kind = .st wd → ∀ n id off, n = widthBytes wd → id = unitIdent p.at_ →
    off = p.addr.toNat % 128 → p.addr.toNat % n = 0 →
    (s.PoolOpen p.at_ (poolOff p.at_ p.addr) n p.who.unit → exec .postedStoreAtHome s =
      .next ((s.modCore p.at_ fun c => c.poolWrite (poolOff p.at_ p.addr) (bytesOf n p.d0.toNat)).ackStore p)) ∧
    (unitKind p.at_ = 1 → s.homeOfSlice id p.space p.addr ≠ id → exec .postedStoreAtHome s = .next (s.forwardStore p) ∧
      ∀ k ∈ ((s.forwardStore p).slice id).replicas, ¬(k.svs = p.space.svs ∧ k.viid = p.space.viid ∧ k.line = p.addr.toNat / 128)) ∧
    (unitKind p.at_ = 1 → s.homeOfSlice id p.space p.addr = id → ∀ pa e l t q,
      s.AtHome id p.space p.addr .write p.sys pa e l t q →
      ((l.tag (off / 8) = 3 → exec .postedStoreAtHome s = .next (q.refuseStore p 9)) ∧
      (l.tag (off / 8) ≠ 3 → ∀ d h, q.markDirty id p.space p.addr e = (.full, d) →
        h = (d.holdReq id p.space (chunkOf p.addr) false ⟨.postedStoreAtHome, .store p⟩).healdEvent (sliceUnit id)
          (hkind 3 p.space.viid.toNat) →
        exec .postedStoreAtHome s =
          .next (h.schedule (h.cycle + 256) rankUnit .healdEventRetry (.line id p.space (chunkOf p.addr)))) ∧
      (l.tag (off / 8) ≠ 3 → ∀ d, q.markDirty id p.space p.addr e = (.done, d) → ∃ l' r,
        exec .postedStoreAtHome s = .next ((r.staleReplica id p.who.unit p.space p.addr).ackStore p) ∧
        q.Wrote r id p.space p.addr pa e l (q.keepDrop id p.space pa off n l l') ∧
        l'.bytes off n = p.d0.toNat % 2 ^ (8 * n) ∧ l'.tag (off / 8) = 0 ∧
        (∀ k, k < 128 → (k < off ∨ off + n ≤ k) → l'.bytes k 1 = l.bytes k 1) ∧
        (∀ k, k < 16 → k ≠ off / 8 → l'.tag k = l.tag k)))) ∧
    (∀ pa (old new : CLine), ((p.space.svs = false ∨ 68 ≤ off ∨ off + n ≤ 64 ∨ pa / 128 * 128 < (s.slice id).vtb.toNat ∨
        (s.slice id).vtb.toNat + 8192 ≤ pa / 128 * 128) → s.keepDrop id p.space pa off n old new = new) ∧
      (p.space.svs = true → off < 68 → 64 < off + n → (s.slice id).vtb.toNat ≤ pa / 128 * 128 →
        pa / 128 * 128 < (s.slice id).vtb.toNat + 8192 → s.keepDrop id p.space pa off n old new = new.put 64 4
          (if new.bytes (max off 64) (min (off + n) 68 - max off 64) = 0 then s.dropsNow (pa / 128 * 128 + 64) else old.bytes 64 4))) ∧
    (unitDie p.who.unit = id / 64 → s.staleReplica id p.who.unit p.space p.addr = s) ∧
    (unitDie p.who.unit ≠ id / 64 → ∀ k ∈ ((s.staleReplica id p.who.unit p.space p.addr).slice (64 * unitDie p.who.unit + id % 64)).replicas,
      ¬(k.svs = p.space.svs ∧ k.viid = p.space.viid ∧ k.line = p.addr.toNat / 128))

/-- R235, R238, R251, R256, R266, R277, R287, R291, R327, R386, R456. -/
def Obligations.AnswersAndReplicas : Prop :=
  (∀ (s : State) u e stamp, s.arg = .ack u e stamp →
    (∀ j, afind (s.core u).journal e = some j → j.stamp = stamp → j.counted = true → exec .storeAcknowledgement s =
      .next ((((s.modCore u fun c => if j.pscl then { c with pscl := c.pscl - 1 } else { c with pscr := c.pscr - 1 }).releaseEntry u e).releaseHeld
        u).progressFences u)) ∧
    ((∀ j, afind (s.core u).journal e = some j → j.stamp ≠ stamp) → exec .storeAcknowledgement s = .next s) ∧
    ((s.core u).journal.Pairwise (fun p q => p.1 < q.1) → afind ((s.releaseEntry u e).core u).journal e = none)) ∧
  (∀ (s : State) x j, s.arg = .refusal x → afind (s.core x.unit).journal x.entry = some j → j.stamp = x.stamp → x.early = false →
    x.counted = true → j.counted = true → ∀ j' q, j' = { j with st := .refused, cause := BitVec.ofNat 4 x.cause } →
    q = (s.modCore x.unit fun c => if j.pscl then { c with pscl := c.pscl - 1 } else { c with pscr := c.pscr - 1 }).modCore x.unit
      (fun c => { c with journal := aput c.journal x.entry j' }) →
    exec .storeRefusal s = .next (((q.refusalTrap x.unit x.entry j' x.cause).releaseHeld x.unit).progressFences x.unit)) ∧
  (∀ (s : State) m, s.arg = .replica m →
    ∀ ev : Ev, ev = (if m.access.kind = .fetch then ⟨.lineFetch, .fetch ⟨m.access.who, m.access.tid, m.access.addr, m.res⟩⟩
      else ⟨.longLatencyLanding, .land ⟨m.access.who.unit, m.access.tid, m.res⟩⟩) →
    ∃ r : State, exec .replicaFill s = .next (r.sendLeg 1 rankLanding (sliceUnit m.slice) m.access.who.unit m.space false 0
        (max 1 (m.eta - s.cycle)) ev none) ∧ r.mem = s.mem ∧
      ((m.stamp ≤ (s.slice m.slice).clearedAt ∨ m.stamp ≤ aget 0 (s.slice m.slice).invalAt m.line ∨
        m.read < aget 0 (s.slice m.slice).newest m.line) → r = s) ∧
      ((s.slice m.slice).clearedAt < m.stamp → aget 0 (s.slice m.slice).invalAt m.line < m.stamp →
        aget 0 (s.slice m.slice).newest m.line ≤ m.read →
        (∀ d, m.data = some d → (r.slice m.slice).replicas.head? = some ⟨m.space.svs, m.space.viid, m.line, d⟩ ∧
          ∀ k ∈ (r.slice m.slice).replicas.tail, ¬(k.svs = m.space.svs ∧ k.viid = m.space.viid ∧ k.line = m.line)) ∧
        (m.data = none → m.drop = true →
          ∀ k ∈ (r.slice m.slice).replicas, ¬(k.svs = m.space.svs ∧ k.viid = m.space.viid ∧ k.line = m.line)))) ∧
  (∀ (s : State) id w, s.arg = .clear id w → ∃ q : State, exec .replicaClear s =
      .next (q.send 3 rankReply (sliceUnit id) w.unit (q.spaceOf w.unit) false 4 ⟨.replicaClearConfirm, .clear id w⟩ none) ∧
    (q.slice id).replicas = [] ∧ (q.slice id).refusals = [] ∧ (q.slice id).clearedAt = s.cycle ∧ q.mem = s.mem) ∧
  (∀ (s : State) id w, s.arg = .clear id w → (s.slot w.unit w.slot).seat w.sgen = .occupant → exec .replicaClearConfirm s =
    .next ((s.modSlot w.unit w.slot fun x => { x with fence := x.fence.map fun f =>
      { f with confirms := f.confirms.map fun c => c.filter fun k => k ≠ id } }).progressFence w.unit w.slot)) ∧
  (∀ (s : State) (x : RefusalMsg), s.arg = .refusal x → ∃ q : State, exec .heldRefusalRelease s =
      .next (q.schedule (s.cycle + 65536) rankUnit .heldRefusalRelease (.held x.slice s.nextSeq)) ∧
    (q.slice x.slice).refusals = (s.slice x.slice).refusals ++ [⟨s.nextSeq, x⟩] ∧ q.cores = s.cores ∧ q.mem = s.mem) ∧
  (∀ (s : State) id stamp, s.arg = .held id stamp → ∃ r, exec .heldRefusalRelease s = .next r ∧
    (r.slice id).refusals = (s.slice id).refusals.filter (fun h => h.stamp ≠ stamp) ∧ r.mem = s.mem) ∧
  (∀ (s : State) id n w l, s.arg = .window id n → (s.slice id).windows.find? (fun x => x.id == n) = some w →
    w.ready ≤ s.cycle → (s.slice id).lineAt ⟨w.svs, w.viid⟩ w.line = some l → exec .combiningWindowClose s = .next (s.closeWindow id w l)) ∧
  (∀ (s : State) u tid n, s.arg = .tid u tid n →
    exec .ldvAcceptance s = .next ((s.modOut u tid fun o => { o with accepted := true, parked := false }).releaseHeld u) ∧
    ∀ o, (s.core u).outOf tid = some o → o.refusals = n + 1 → o.failed = false →
      (o.accepted = true → exec .ldvReissueTimer s = .next s ∧ exec .parkedLdvTimeout s = .next s) ∧
      (o.accepted = false → o.parked = false →
        exec .ldvReissueTimer s = .next (s.resendLdv u tid) ∧ exec .parkedLdvTimeout s = .next s) ∧
      (o.accepted = false → o.parked = true →
        exec .parkedLdvTimeout s = .next (s.resendLdv u tid) ∧ exec .ldvReissueTimer s = .next s)) ∧
  (∀ (s : State) id sp line l, s.arg = .line id sp line → (s.slice id).lineAt sp line = some l →
    (l.dirty = false → exec .lineWriteBack s = .next s) ∧
    (l.dirty = true → l.pa + 128 ≤ hbmSize → exec .lineWriteBack s = .next ((s.writeBack l).putLine id { l with dirty := false })))

/-- R264, R272, R273, R277 to R279 (LDV passes the die's replica slice: log 39, DEDUCED). -/
def Obligations.CellsAtHome : Prop :=
  (∀ (s : State) a, s.arg = .access a → a.kind = .ldv → a.entry = none → a.replica = false → ∀ id k, id = unitIdent a.at_ → k = a.addr.toNat % 128 / 8 →
    (s.homeOfSlice id a.space a.addr ≠ id → exec .ldvAtHome s = .next (s.forwardRmw id a)) ∧
    (s.homeOfSlice id a.space a.addr = id →
    ∀ pa e l t q, s.AtHome id a.space a.addr .write a.sys pa e l t q → l.marked.getLsbD k = false →
    (l.tag k = 0 → exec .ldvAtHome s = .next (q.landed a t (.val (l.word k) 0 0))) ∧
    (l.tag k = 3 → a.outer = 0 → ∀ r, (q.slice id).freeWait = some r → ∃ (p : State) (w : WaitRec), exec .ldvAtHome s = .next (p.acceptLdv a) ∧
      afind (p.slice id).waits r = some w ∧ w.who = a.who ∧ w.tid = a.tid ∧ w.dest = a.dest ∧
      (p.slice id).lines = (q.slice id).lines ∧ p.mem = q.mem) ∧
    (l.tag k = 3 → a.outer = 0 → (q.slice id).freeWait = none → (l.word k).getLsbD 62 = true →
      exec .ldvAtHome s = .next (q.landed a t .noRecord)) ∧
    (l.tag k = 3 → a.outer = 0 → (q.slice id).freeWait = none → (l.word k).getLsbD 62 = false → ∀ p : State,
      q.Wrote p id a.space a.addr pa e l (l.cell (a.addr.toNat % 128) (BitVec.ofNat 64 ((l.word k).toNat + 2 ^ 62)) 3) →
      exec .ldvAtHome s = .next (p.landed a t .noRecord)) ∧
    ((l.tag k = 1 ∨ l.tag k = 2) → (q.slice id).freeWait = none → exec .ldvAtHome s = .next (q.landed a t .noRecord)) ∧
    (l.tag k = 1 → ∀ (r : Nat) (p : State), (q.slice id).freeWait = some r →
      q.Wrote p id a.space a.addr pa e l (l.cell (a.addr.toNat % 128) (BitVec.ofNat 64 (r * 2 ^ 52)) 3) → exec .ldvAtHome s =
        .next ((p.modSlice id fun x => x.takeWait r (waitFor a r 0)).acceptLdv a)) ∧
    (l.tag k = 2 → ∀ (r : Nat) (p : State), (q.slice id).freeWait = some r →
      q.Wrote p id a.space a.addr pa e l
        (l.cell (a.addr.toNat % 128) (BitVec.ofNat 64 (2 ^ 63 + r * 2 ^ 52 + a.outer.toNat / 8 % 2 ^ 50)) 3) → ∀ z n,
      z = (p.modSlice id fun x => { x.takeWait r (waitFor a r x.claims) with claims := x.claims + 1 }).acceptLdv a → n = (p.slice id).claims →
      exec .ldvAtHome s = .next (z.send 1 rankUnit a.at_ a.who.unit a.space false 36
        ⟨.claimArrival, .claim ⟨a.who, a.tid, a.space, a.addr, l.word k, n, a.at_, a.h, a.defPlace⟩⟩ none)))) ∧
  (∀ (s : State) p, s.arg = .store p → unitKind p.at_ = 1 → ∀ id off, id = unitIdent p.at_ → off = p.addr.toNat % 128 →
    s.homeOfSlice id p.space p.addr = id → ∀ pa e l t q, s.AtHome id p.space p.addr .write p.sys pa e l t q →
    ∀ (done : State → State) (kept : CLine → CLine), (∀ r : State, done r = (r.staleReplica id p.who.unit p.space p.addr).ackStore p) →
    (∀ k, kept k = q.keepDrop id p.space pa off (storeSize p.kind) l k) →
    (l.tag (off / 8) = 0 → exec .stfAtHome s = .next (q.refuseStore p 8)) ∧
    (l.tag (off / 8) = 3 → exec .ssusAtHome s = .next (q.refuseStore p 9) ∧ exec .sempAtHome s = .next (q.refuseStore p 9)) ∧
    (∀ r, q.Wrote r id p.space p.addr pa e l (kept (l.cell off p.d0 0)) →
      (l.tag (off / 8) = 1 ∨ l.tag (off / 8) = 2 → exec .stfAtHome s = .next (done r)) ∧
      (l.tag (off / 8) = 3 → (l.word (off / 8)).getLsbD 62 = false → exec .stfAtHome s =
        .next ((done r).wakeWaiters id (l.word (off / 8)) (.val p.d0 0 0))) ∧
      (l.tag (off / 8) = 3 → (l.word (off / 8)).getLsbD 62 = true → exec .stfAtHome s =
        .next (((done r).wakeWaiters id (l.word (off / 8)) (.val p.d0 0 0)).overflowWake id p.space p.addr))) ∧
    (l.tag (off / 8) ≠ 3 → ∀ r, q.Wrote r id p.space p.addr pa e l (kept (l.cell off p.d0 2)) → exec .ssusAtHome s = .next (done r)) ∧
    (l.tag (off / 8) ≠ 3 → ∀ r, q.Wrote r id p.space p.addr pa e l (kept (l.cell off 0 1)) → exec .sempAtHome s = .next (done r)))

/-- R268 to R274, R455. -/
def Obligations.EvaluatorSteps : Prop :=
  (∀ (s : State) c, s.arg = .claim c →
    (∀ va, c.ptr.toNat % 64 = 0 → targetOf c.who.unit c.ptr = some (.global va) →
      ∃ r x, exec .claimArrival s = .next r ∧ (r.core c.who.unit).suspReads = (s.core c.who.unit).suspReads ++ [x] ∧ x.claim = c ∧
        x.tids.length = 8 ∧ x.words = [] ∧ x.failed = false) ∧
    ((c.ptr.toNat % 64 ≠ 0 ∨ ∀ va, targetOf c.who.unit c.ptr ≠ some (.global va)) →
      exec .claimArrival s = .next (s.cannotLaunch c))) ∧
  (∀ (s : State) e, s.arg = .eval e →
    (∀ i, (s.core e.unit).halted = false → (s.core e.unit).retired = false → (s.core e.unit).stopped = false →
      (s.core e.unit).firstFree = some i → exec .evaluatorStart s = .next (s.startEval e.unit i e)) ∧
    ((s.core e.unit).firstFree = none → e.claimant.unit ≠ e.unit → exec .evaluatorStart s =
      .next (s.send 1 rankUnit e.unit e.claimant.unit e.space false 0
        ⟨.evaluatorClaimRetry, .eval { e with unit := e.claimant.unit, step := 2 }⟩ none)) ∧
    (∀ i, (s.core e.claimant.unit).firstFree = some i → exec .evaluatorClaimRetry s = .next (s.startEval e.claimant.unit i e)) ∧
    ((s.core e.claimant.unit).firstFree = none → (s.core e.claimant.unit).canFold e.claimant = true →
      exec .evaluatorClaimRetry s = .next (s.foldEval e.claimant.unit e.claimant.slot e)) ∧
    ((s.core e.claimant.unit).firstFree = none → (s.core e.claimant.unit).canFold e.claimant = false →
      ((s.core e.claimant.unit).eq.length < 64 →
        exec .evaluatorClaimRetry s = .next (s.modCore e.claimant.unit fun c => { c with eq := c.eq ++ [e] })) ∧
      (64 ≤ (s.core e.claimant.unit).eq.length →
        exec .evaluatorClaimRetry s = .next (s.schedule (s.cycle + 256) rankUnit .evaluatorClaimRetry (.eval e))))) ∧
  (∀ (s : State) n l, s.arg = .notice n → unitKind n.at_ = 1 → n.at_ = n.home →
    (s.slice (unitIdent n.home)).heldAt n.space (chunkOf n.cell) = none → (s.slice (unitIdent n.home)).lineAt n.space (n.cell.toNat / 128) = some l →
    ∀ k, k = n.cell.toNat % 128 / 8 → l.tag k = 3 → (l.word k).getLsbD 63 = true → ∀ h w, h = (l.word k).toNat / 2 ^ 52 % 2 ^ 10 →
    afind (s.slice (unitIdent n.home)).waits h = some w →
    (w.claim ≠ n.claim → exec .evaluatorReport s = .next s ∧ exec .endNoticeAtHome s = .next s) ∧
    (w.claim = n.claim → ∀ who, n.ev = some who → exec .evaluatorReport s = .next (s.modSlice (unitIdent n.home) fun x =>
      { x with waits := aput x.waits h { w with ev := true, evWho := who } })) ∧
    (w.claim = n.claim → (n.ev = none ∨ w.ev = false ∨ n.ev = some w.evWho) → ∀ pa e r,
      (s.translate (unitIdent n.home) n.space n.cell .read true).1 = .ok pa e →
      s.Wrote r (unitIdent n.home) n.space n.cell pa e l (l.cell (8 * k) 0 1) →
      exec .endNoticeAtHome s = .next (r.wakeWaiters (unitIdent n.home) (l.word k) (.fail 10)))) ∧
  (∀ (s : State) w, s.arg = .wake w → exec .wakeMulticastDelivery s =
    .next (w.recs.foldl (fun s r =>
      if r.dest = 0 then (s.dropOut w.unit r.tid).releaseHeld w.unit else s.land ⟨w.unit, r.tid, w.res⟩) s)) ∧
  (∀ (s : State) id m, s.arg = .multicast id m → exec .lateWakeMulticast s = .next (s.startMulticast m) ∧
    (unitKind m.src ≠ 4 → (mcParts m = [] → s.startMulticast m = s) ∧
      (∀ t ts, mcParts m ≠ [] → s.mcTokens m.src (mcUnits m) = t :: ts → s.startMulticast m = State.send
        { s with nextSeq := s.nextSeq + 1, mcasts := s.mcasts ++ [⟨s.nextSeq, t :: ts, { m with tokens := t :: ts }⟩] }
        6 rankUnit m.src (arbiter t) ⟨true, 0⟩ true 0 ⟨.multicastTokenGrant, .token t s.nextSeq⟩ none))) ∧
  (∀ (s : State) (c : Claim) at_, at_ = (if unitKind c.home = 1 then firstStop c.who.unit c.home else c.home) →
    s.cannotLaunch c = s.send 2 rankUnit c.who.unit at_ c.space false 0
      ⟨.endNoticeAtHome, .notice ⟨c.home, c.space, c.cell, c.claim, none, at_⟩⟩ none) ∧
  (∀ (s : State) u i (e : EvalReq) x at_, x = s.slot u i → at_ = firstStop u e.home → ∀ starts : Slot → Prop,
    (∀ y, starts y ↔ y.work = .evaluator ⟨e.space, e.cell, e.claim, e.home, e.h, e.defPlace⟩ ∧ y.pc = e.body ∧ y.g = 6 ∧ y.s = 0 ∧
      y.l = 21 ∧ y.ix = 0 ∧ y.prio = e.prio ∧ y.frm = 0 ∧ y.rkey = 0 ∧ y.ln = 0 ∧ y.pred = 0 ∧ y.evc = e.cell ∧ y.run = .ready ∧
      y.readyAt = s.cycle + 1 ∧ (awf 0 x.regs = true → y.reg 1 = e.cell ∧ y.isFull 1 = true ∧
        ∀ k, k < 5 → y.reg (2 + k) = e.args.getD k 0 ∧ y.isFull (2 + k) = true)) →
    (∃ y, starts y ∧ y.folds = [] ∧ s.startEval u i e = (s.setSlot u i y).send 2 rankUnit u at_ e.space false 0
      ⟨.evaluatorReport, .notice ⟨e.home, e.space, e.cell, e.claim, some ⟨u, i, y.sgen⟩, at_⟩⟩ none) ∧
    (∃ y f c, starts y ∧ y.folds = f :: x.folds ∧ f.eval = true ∧ f.frame = x.ffrm.toNat ∧ f.work = x.work ∧ f.sgen = x.sgen ∧
      f.run = x.run ∧ f.holds = x.holds ∧ y.ffrm = BitVec.ofNat 20 (x.ffrm.toNat + 256) ∧ y.anchor = x.anchor ∧
      s.foldEval u i e = ((s.setCore u c).setSlot u i y).send 2 rankUnit u at_ e.space false 0
        ⟨.evaluatorReport, .notice ⟨e.home, e.space, e.cell, e.claim, some ⟨u, i, y.sgen⟩, at_⟩⟩ none)) ∧
  (∀ (s : State) u, s.arg = .unit u → ∀ due : Nat → Prop, (∀ i, due i ↔ (s.slot u i).evc ≠ 0 ∧ (s.slot u i).evRaised = false ∧
      max 4096 (s.core u).evto.toNat ≤ (s.slot u i).evage.toNat) →
    ((s.core u).evto = 0 ∨ (∀ i, i < (s.core u).nslots → ¬due i) → exec .watchdogTest s = .next s) ∧
    (∀ i, (s.core u).evto ≠ 0 → i < (s.core u).nslots → due i →
      (∀ k, k < (s.core u).nslots → k ≠ i → ¬due k) → (s.slot u i).run = .ready → (∃ e, (s.slot u i).work = .evaluator e) → ∀ r,
      r = s.modSlot u i (fun x => { x with
        evRaised := true, asyncs := x.asyncs ++ [(x.sgen, { code := 33, addr := x.evc })] }) →
      exec .watchdogTest s = .next (if isService u then r
        else r.viEvent (sliceOfDie (unitDie u)) (s.core u).viid 3 0 0 (s.slot u i).evc)))

/-- R23, R105, R198, R199, R235, R262: read after write, of the pool, of a context through the pool, and of a line in memory. -/
def Obligations.MemoryWrites : Prop :=
  (∀ (c : Core) off n v, awf 0 c.pool = true → c.rfEnd ≤ off →
    (c.poolWrite off (bytesOf n v)).poolRead off n = v % 2 ^ (8 * n) ∧
    (∀ o, o < off ∨ off + n ≤ o → (c.poolWrite off (bytesOf n v)).poolByte o = c.poolByte o)) ∧
  (∀ (c : Core) i w v, 256 * i + 256 ≤ c.rfEnd → w < 27 → awf 0 (c.slot i).regs = true →
    ((c.setPoolWord (256 * i + 8 * w) v).slot i).reg (w + 1) = v ∧
    (∀ k, k ≠ w + 1 → ((c.setPoolWord (256 * i + 8 * w) v).slot i).reg k = (c.slot i).reg k) ∧
    (∀ j, j ≠ i → (c.setPoolWord (256 * i + 8 * w) v).slot j = c.slot j) ∧
    (c.setPoolWord (256 * i + 8 * w) v).pool = c.pool) ∧
  (∀ (c : Core) i w, 256 * i + 256 ≤ c.rfEnd → w < 32 → c.poolWord (256 * i + 8 * w) = (c.slot i).ctxWord w) ∧
  (∀ (s : State) l, s.MemoryCanonical → l.pa % 128 = 0 →
    (s.writeBack l).physRead l.pa 128 = l.data.toNat ∧ (∀ k, k < 16 → (s.writeBack l).physTag (l.pa + 8 * k) = l.tag k) ∧
    ∀ pa, pa < l.pa ∨ l.pa + 128 ≤ pa → (s.writeBack l).physByte pa = s.physByte pa ∧ (s.writeBack l).physTag pa = s.physTag pa)

/-- R110, R202 to R206, R216, R221 to R228: queueing and completing engine commands. -/
def Obligations.EngineCommands : Prop :=
  (∀ i g x d k op, vecForm i = some (g, x, d, k, op) → ∀ (s : State) vb vc vd t,
    s.Ready g [x.b, x.c, d] [x.a] true [vb, vc, vd] t → ∀ y, y = t.vecCommand op x vb vc vd k → y.Fits t.curCore t.curUnit →
    t.curCore.vq.length < 8 → t.curCore.locks.length + (y.ranges t.curUnit).length ≤ 16 →
    ∃ r, exec i s = .next r ∧ t.Queued r x.a ∧ r.curCore.vq = t.curCore.vq ++ [y] ∧
      r.curCore.locks = t.curCore.locks ++ (y.ranges t.curUnit).map (fun q => poolLock q.1 0 y.tid q.2.1 q.2.2) ∧
      (t.curCore.vq = [] → ∃ p, r.agenda = p :: t.agenda ∧ p.due = t.cycle + t.slowed t.curUnit y.time ∧
        p.ev = ⟨.vectorCommandCompletion, .tid t.curUnit y.tid 0⟩) ∧
      (t.curCore.vq ≠ [] → r.agenda = t.agenda)) ∧
  ((∀ g acc s, s.cur.guard g = true → s.curCore.AccOk acc → s.MatrixRoom 0 →
    ∃ r, exec (.mzero g acc) s = .next r ∧ s.MatrixQueued r (.zero acc.toNat) [] ∧ r.cur.pc = s.cur.nextPc ∧
      r.cur.regs = s.cur.regs ∧ r.cur.pend = s.cur.pend ∧ r.cur.full = s.cur.full ∧ r.curCore.pool = s.curCore.pool) ∧
  (∀ g a b c acc steps1 s v0 v1 v2 v3 t k fa fb, s.Ready g [b, b + 1, c, c + 1] [a] true [v0, v1, v2, v3] t →
    pairReg b = true → pairReg c = true → isService s.curUnit = false → matRow t.curCore.mfmt = some k →
    mfmtA t.curCore.mfmt = some fa → mfmtB t.curCore.mfmt = some fb →
    t.curCore.AccOk acc → t.curCore.PairOk t.curUnit v0 v1 (steps1.toNat + 1) (pairTile v1) (rowBytes fa k) →
    t.curCore.PairOk t.curUnit v2 v3 (steps1.toNat + 1) (pairTile v3) (rowBytes fb k) → t.MatrixRoom 2 →
    ∃ r, exec (.mmac g a b c acc steps1) s = .next r ∧ t.Queued r a ∧
      t.MatrixQueued r (.mmac acc.toNat (steps1.toNat + 1) v0 v1 v2 v3)
        [(false, v0.toNat, footBytes (steps1.toNat + 1) (pairTile v1) (pairRow v1) (rowBytes fa k)),
         (false, v2.toNat, footBytes (steps1.toNat + 1) (pairTile v3) (pairRow v3) (rowBytes fb k))]) ∧
  (∀ i g a src dst op, (i = .mxfTranspose g a src dst ∧ op = .transpose src.toNat dst.toNat) ∨
      (i = .mxfRsum g a src dst ∧ op = .rsum src.toNat dst.toNat) ∨ (i = .mxfCsum g a src dst ∧ op = .csum src.toNat dst.toNat) ∨
      (∃ m n, i = .mxfExch g a src dst m n ∧ op = .exch src.toNat dst.toNat m.toNat n.toNat) →
    ∀ s t, s.Ready g [] [a] true [] t → isService s.curUnit = false → t.curCore.AccOk src → t.curCore.AccOk dst →
      t.MatrixRoom 0 → ∃ r, exec i s = .next r ∧ t.Queued r a ∧ t.MatrixQueued r op []) ∧
  (∀ g a b src dst s v t, s.Ready g [b] [a] true [v] t → isService s.curUnit = false → t.curCore.AccOk src →
    t.curCore.AccOk dst → v.toNat < 2 ^ 17 → t.curCore.inScratch (poolSize t.curUnit) v.toNat 16 = true → t.MatrixRoom 1 →
    ∃ r, exec (.mxfPerm g a b src dst) s = .next r ∧ t.Queued r a ∧
      t.MatrixQueued r (.perm src.toNat dst.toNat v.toNat) [(false, v.toNat, 16)]) ∧
  (∀ g fmt a b acc s j p t, s.Ready g [b, b + 1] [a] true [j, p] t → pairReg b = true → isService s.curUnit = false →
    (matRow t.curCore.mfmt).isSome = true → mldaFmt (mfmtAcc t.curCore.mfmt) fmt = true → t.curCore.AccOk acc →
    t.curCore.PairOk t.curUnit j p 1 0 (rowBytes fmt 16) → t.MatrixRoom 1 →
    ∃ r, exec (.mlda g fmt a b acc) s = .next r ∧ t.Queued r a ∧
      t.MatrixQueued r (.lda fmt acc.toNat j p) [(false, j.toNat, 15 * pairRow p + rowBytes fmt 16)]) ∧
  (∀ g fmt sc a b acc sh s j p t, s.Ready g [b, b + 1] [a] true [j, p] t → pairReg b = true → isService s.curUnit = false →
    (matRow t.curCore.mfmt).isSome = true → t.curCore.AccOk acc → t.curCore.PairOk t.curUnit j p 1 0 (rowBytes fmt 16) →
    (sc = true → t.curCore.inScratch (poolSize t.curUnit) t.curCore.msca.toNat 16 = true ∧
      t.curCore.inScratch (poolSize t.curUnit) t.curCore.mscb.toNat 16 = true) → t.MatrixRoom (if sc then 3 else 1) →
    ∃ r, exec (.msta g fmt sc a b acc sh) s = .next r ∧ t.Queued r a ∧
      t.MatrixQueued r (.sta fmt acc.toNat j p sh sc)
        ((true, j.toNat, 15 * pairRow p + rowBytes fmt 16) ::
          if sc then [(false, t.curCore.msca.toNat, 16), (false, t.curCore.mscb.toNat, 16)] else [])) ∧
  (∀ g acc s, isService s.curUnit = true → exec (.mzero g acc) s = .next (s.exactFault { code := 1, sub := 1 }))) ∧
  ((∀ (s : State) u tid k (x : VCmd) rest, s.arg = .tid u tid k → (s.core u).vq = x :: rest → x.tid = tid →
    (s.core u).Alone 0 → ∃ r : State, exec .vectorCommandCompletion s =
        .next (((r.freeLocks u tid .vecQueue).startVector u).landToken u tid (x.run (s.core u) u).token (x.run (s.core u) u).flags) ∧
      (r.core u).vq = rest ∧ (r.core u).locks = (s.core u).locks ∧ s.SameMemory r ∧ (∀ v, v ≠ u → r.core v = s.core v) ∧
      (r.core u).pool = ((x.run (s.core u) u).writes.foldl (fun (c : Core) w => c.poolWrite w.1 w.2) (s.core u)).pool) ∧
  (∀ (s : State) u tid k (x : MCmd) rest, s.arg = .tid u tid k → (s.core u).mq = x :: rest → x.tid = tid →
    (s.core u).Alone 1 → ∃ r : State, exec .matrixCommandCompletion s =
        .next (((r.freeLocks u tid .matQueue).startMatrix u).landToken u tid (x.run (s.core u)).token (x.run (s.core u)).flags) ∧
      (r.core u).mq = rest ∧ (r.core u).locks = (s.core u).locks ∧ s.SameMemory r ∧ (∀ v, v ≠ u → r.core v = s.core v) ∧
      (r.core u).pool = ((x.run (s.core u)).writes.foldl (fun (c : Core) w => c.poolWrite w.1 w.2)
        ((s.core u).withTile x.mfmt (x.run (s.core u)).tile)).pool) ∧
  (∀ (s : State) u tid q, (∀ l ∈ ((s.freeLocks u tid q).core u).locks, l.tid ≠ tid) ∧
    ∀ l ∈ (s.core u).locks, l.tid ≠ tid → l ∈ ((s.freeLocks u tid q).core u).locks))

/-- R204, R205. -/
def Obligations.VectorElements : Prop :=
  (∀ (c : Core) f base xs, awf 0 c.pool = true → c.rfEnd ≤ base →
    (c.poolWrite base (c.vecImage f base xs)).vecRead f base xs.length = xs.map (fun x => BitVec.ofNat 64 (x.toNat % 2 ^ fmtBits f)) ∧
    ∀ off, (off < base ∨ base + (fmtBits f * xs.length + 7) / 8 ≤ off) → c.rfEnd ≤ off →
      (c.poolWrite base (c.vecImage f base xs)).poolByte off = c.poolByte off) ∧
  (∀ (x : VCmd) c e d, (fpBits x.fmt = none) → x.fmt ≠ .lg6 → x.fmt ≠ .q4 →
    ∀ V : Int,
    (x.op = .add ∧ V = elemInt x.fmt c + elemInt x.fmt e) ∨ (x.op = .sub ∧ V = elemInt x.fmt c - elemInt x.fmt e) ∨
    (x.op = .mul ∧ V = elemInt x.fmt c * elemInt x.fmt e) ∨
    (x.op = .fma ∧ V = elemInt x.fmt c * elemInt x.fmt e + elemInt x.fmt d) ∨
    (x.op = .min ∧ V = min (elemInt x.fmt c) (elemInt x.fmt e)) ∨ (x.op = .max ∧ V = max (elemInt x.fmt c) (elemInt x.fmt e)) ∨
    (x.op = .abs ∧ V = (elemInt x.fmt c).natAbs) ∨ (x.op = .neg ∧ V = -elemInt x.fmt c) →
    ((x.elem c e d).1.toNat : Int) = V % 2 ^ fmtBits x.fmt ∧ (x.elem c e d).2 = 0)

/-- R216, R217, R219, R223, R224, R226. -/
def Obligations.MatrixTiles : Prop :=
  (∀ (x : MCmd) (c : Core), ∀ M : Nat → Nat → Nat → Word, (∀ a i j, M a i j = c.tileRead x.mfmt a i j) →
    (∀ acc, x.op = .zero acc → ∃ T, (x.run c).tile = some (acc, T) ∧ ∀ i j, i < 16 → j < 16 → cell T i j = 0) ∧
    (∀ src dst, x.op = .transpose src dst → ∃ T, (x.run c).tile = some (dst, T) ∧
      ∀ i j, i < 16 → j < 16 → cell T i j = M src j i) ∧
    (∀ src dst m n, m < 16 → n < 16 → x.op = .exch src dst m n → ∃ T, (x.run c).tile = some (dst, T) ∧
      ∀ i j, i < 16 → j < 16 → cell T i j = M src (if i = m then n else if i = n then m else i) j) ∧
    (∀ src dst off, x.op = .perm src dst off → ∃ T, (x.run c).tile = some (dst, T) ∧
      ∀ i j, i < 16 → j < 16 → cell T i j =
        if (c.poolByte (off + i)).toNat < 16 then M src (c.poolByte (off + i)).toNat j else 0) ∧
    (∀ src dst, x.op = .rsum src dst → mfmtAcc x.mfmt = 0 → mfmtLxm x.mfmt = false → ∃ T, (x.run c).tile = some (dst, T) ∧
      ∀ i j, i < 16 → j < 16 → cell T i j = BitVec.ofNat 64 (sumOf 16 fun k => (M src i k).toNat)) ∧
    (∀ src dst, x.op = .csum src dst → mfmtAcc x.mfmt = 0 → mfmtLxm x.mfmt = false → ∃ T, (x.run c).tile = some (dst, T) ∧
      ∀ i j, i < 16 → j < 16 → cell T i j = BitVec.ofNat 64 (sumOf 16 fun k => (M src k j).toNat))) ∧
  (∀ (x : MCmd) (c : Core) acc n aj ap bj bp, x.op = .mmac acc n aj ap bj bp → mfmtA x.mfmt = some .i8 →
    mfmtB x.mfmt = some .i8 → mfmtAcc x.mfmt = 0 → mfmtLxm x.mfmt = false →
    ∃ T, (x.run c).tile = some (acc, T) ∧ ∀ i j, i < 16 → j < 16 → cell T i j = c.tileRead x.mfmt acc i j +
      BitVec.ofInt 64 (((List.range n).map fun st => ((List.range 16).map fun k =>
        (c.poolByte (pairBase aj + st * pairTile ap + i * pairRow ap + k)).toInt *
        (c.poolByte (pairBase bj + st * pairTile bp + j * pairRow bp + k)).toInt).sum).sum))

/-- R340, R343 to R350: the copy engine. -/
def Obligations.CopyCommands : Prop :=
  ((∀ g scope (ch : BitVec 2) a b c d s x y n t, s.Ready g [b, c, d] [a] true [x, y, n] t → n.toNat < 2 ^ 32 →
    ∀ dst src, dst = ownForm t.curUnit x → src = ownForm t.curUnit y →
    t.copyRanges [span dst n, span src n] = .ok () →
    (n = 0 ∨ (span dst n).2 < (span src n).1 ∨ (span src n).2 < (span dst n).1) →
    t.CopyRoom ch.toNat (if n = 0 then 0 else 2) →
    ∃ r, exec (.xcopy g scope ch a b c d) s = .next r ∧
      t.CopyQueued r a .copy scope ch.toNat dst src n.toNat (if n = 0 then [] else [(true, span dst n), (false, span src n)])) ∧
  (∀ g scope (ch : BitVec 2) a b c d s x y n t, s.Ready g [b, c, d] [a] true [x, y, n] t → n.toNat < 2 ^ 32 →
    ∀ dst, dst = ownForm t.curUnit x → t.copyRanges [span dst n] = .ok () →
    t.CopyRoom ch.toNat (if n = 0 then 0 else 1) →
    ∃ r, exec (.xfill g scope ch a b c d) s = .next r ∧
      t.CopyQueued r a .fill scope ch.toNat dst y n.toNat (if n = 0 then [] else [(true, span dst n)])) ∧
  (∀ g scope (ch : BitVec 2) a b c d s x y p t, s.Ready g [b, c, d] [a] true [x, y, p] t → p.toNat % 64 = 0 →
    ∀ va k e sh dst src, targetOf t.curUnit p = some (.global va) →
    (t.curCore.recs.find? fun q => q.2.space == t.spaceOf t.curUnit && q.2.addr == p) = some (k, e) →
    shapeOf e.data = some sh → sh.count ≠ 0 → dst = ownForm t.curUnit x → src = ownForm t.curUnit y →
    0 ≤ (sh.footprints dst src).1.1 → (sh.footprints dst src).1.2 < 2 ^ 64 → 0 ≤ (sh.footprints dst src).2.1 →
    (sh.footprints dst src).2.2 < 2 ^ 64 →
    t.copyRanges [(sh.footprints dst src).2, (sh.footprints dst src).1] = .ok () → t.CopyRoom ch.toNat 2 →
    ∃ r, exec (.xshape g scope ch a b c d) s = .next r ∧ t.CopyQueued r a (.shape e.data) scope ch.toNat dst src sh.count
      [(true, (sh.footprints dst src).2), (false, (sh.footprints dst src).1)]) ∧
  (∀ g scope ch a b c d s x y p t va, s.Ready g [b, c, d] [a] true [x, y, p] t → p.toNat % 64 = 0 →
    targetOf t.curUnit p = some (.global va) →
    (t.curCore.recs.find? fun q => q.2.space == t.spaceOf t.curUnit && q.2.addr == p) = none →
    (t.curCore.recReads.any fun q => q.space == t.spaceOf t.curUnit && q.addr == p) = false →
    ∃ r q, exec (.xshape g scope ch a b c d) s = .next r ∧ r.cur.run = .wait .record ∧ r.cur.pc = s.cur.pc ∧
      r.curCore.recReads = s.curCore.recReads ++ [q] ∧ q.addr = p ∧ q.who = s.curWho ∧ q.tids.length = 12) ∧
  (∀ g a (ch : BitVec 2) s t, s.Ready g [] [a] false [] t →
    exec (.xwptr g a ch) s = .next ((t.writeDst a (t.curCore.chan ch.toNat).wptr).advance))) ∧
  ((∀ (s : State) (lo hi : Int) a, a = BitVec.ofInt 64 lo →
    (∀ va, targetOf s.curUnit a = some (.global va) → s.copyRegion lo hi = .ok () ∧
      s.copyForm lo hi = if (va.toNat : Int) + (hi - lo) < 2 ^ 53 then .ok () else .error (.fault { code := 22, sub := 2 })) ∧
    (∀ v off, targetOf s.curUnit a = some (.pool v off) →
      s.copyForm lo hi = (if (off : Int) + (hi - lo) < poolSize v then .ok () else .error (.fault { code := 22, sub := 2 })) ∧
      s.copyRegion lo hi = if isService v = true ∧ s.sysOf s.curUnit = false then .error privFault else .ok ()) ∧
    (∀ off, targetOf s.curUnit a = some (.own off) →
      s.copyForm lo hi = (if (off : Int) + (hi - lo) < poolSize s.curUnit then .ok () else .error (.fault { code := 22, sub := 2 })) ∧
      (lo ≤ hi → s.curCore.accEnd ≤ off → (off : Int) + (hi - lo) < poolSize s.curUnit - 4096 → s.copyRegion lo hi = .ok ())) ∧
    (targetOf s.curUnit a = none → s.copyForm lo hi = .error (.fault { code := 10, addr := a }))) ∧
  (∀ (s : State) d c, (∀ e, s.copyForm d.1 d.2 = .error e → s.copyRanges [d, c] = .error e) ∧
    (∀ e, s.copyForm d.1 d.2 = .ok () → s.copyForm c.1 c.2 = .error e → s.copyRanges [d, c] = .error e) ∧
    (s.copyForm d.1 d.2 = .ok () → s.copyForm c.1 c.2 = .ok () → ∀ e, s.copyRegion d.1 d.2 = .error e →
      s.copyRanges [d, c] = .error e) ∧
    (s.copyForm d.1 d.2 = .ok () → s.copyForm c.1 c.2 = .ok () → s.copyRegion d.1 d.2 = .ok () →
      s.copyRanges [d, c] = s.copyRegion c.1 c.2))) ∧
  (∀ (s : State) u ch (x : XCmd) so doff, s.arg = .chan u ch → (s.core u).chanHead ch = some x → x.kind = .copy → 0 < x.n →
    x.ch = ch → (s.core u).stopped = false → ((s.core u).chan ch).running = true → ((s.core u).chan ch).failed = 0 →
    64 * ((s.core u).chan ch).pos < x.n → (s.core u).Alone (2 + ch) →
    ∀ off, off = BitVec.ofNat 64 (64 * ((s.core u).chan ch).pos) → targetOf u (x.src + off) = some (.own so) →
    targetOf u (x.dst + off) = some (.own doff) →
    ∀ n, n = min 64 (x.n - 64 * ((s.core u).chan ch).pos) →
    ∃ r, exec .copyGranule s = .next r ∧
      (r.core u).pool = ((s.core u).poolWrite doff ((List.range n).map fun k => (s.core u).poolByte (so + k))).pool ∧
      ((r.core u).chan ch).pos = ((s.core u).chan ch).pos + 1 ∧
      ((r.core u).chan ch).wptr = x.dst + BitVec.ofNat 64 (min x.n (64 * (((s.core u).chan ch).pos + 1))) ∧
      (∃ p, r.agenda = p :: s.agenda ∧
        ((x.n ≤ 64 * (((s.core u).chan ch).pos + 1) → p.ev = ⟨.copyCompletion, .chan u ch⟩ ∧ p.due = s.cycle) ∧
         (64 * (((s.core u).chan ch).pos + 1) < x.n → p.ev = ⟨.copyGranule, .chan u ch⟩ ∧ s.cycle < p.due))) ∧
      s.SameMemory r ∧ ∀ v, v ≠ u → r.core v = s.core v) ∧
  (∀ (s : State) u ch (x : XCmd), s.arg = .chan u ch → (s.core u).chanHead ch = some x → x.ch = ch →
    (∀ off, x.xcw ≠ 0 → ((s.core u).chan ch).stored = false → targetOf u x.xcw = some (.own off) →
      ∃ r v, exec .copyCompletion s = .next r ∧ v < 2 ^ 32 ∧
        v = x.seq.toNat + (if ((s.core u).chan ch).failed = 0 then 0 else 2 ^ 31) ∧
        (r.core u).pool = ((s.core u).poolWrite off (bytesOf 4 v)).pool ∧ ((r.core u).chan ch).stored = true ∧
        (r.core u).xq = (s.core u).xq) ∧
    ((x.xcw = 0 ∨ ((s.core u).chan ch).stored = true) →
      ∃ r q : State, exec .copyCompletion s = .next r ∧ (q.core u).xq = (s.core u).xq.filter (fun y => y.tid ≠ x.tid) ∧
        ((q.core u).chan ch).running = false ∧ s.SameMemory q ∧
        (let z := (q.landToken u x.tid (BitVec.ofNat 64 (x.seq.toNat +
            (if ((s.core u).chan ch).failed = 0 then 0 else 2 ^ 31) + ((s.core u).chan ch).failed * 2 ^ 40)) 0).freeLocks u x.tid .copyQueue
         r = if ((z.core u).chanHead ch).isSome then z.chanTurnAt u ch (z.cycle + 1) else z)))

/-- R24 to R30, R48 to R54, R140 to R143, R310 (every core of the place is asked, and a bound FALLOC decides in one step: log 23, DESIGN CHOICE). -/
def Obligations.FamilyAllocations : Prop :=
  ((∀ g a b c x s pl rng t spec, s.Ready g [b, c] [a] false [pl, rng] t → t.fallocCheck x 2 pl rng = .ok spec →
    x.chain = false → t.cur.ffrm.toNat + 256 ≤ t.cur.fflim.toNat →
    ∃ q : State, exec (.fallocSeq g a b c x) s =
        .next (q.fallocDone t.curUnit t.curSlot a (foldHandle t.curUnit t.curSlot t.cur.ffrm.toNat) false) ∧
      q.cur.ffrm = BitVec.ofNat 20 (t.cur.ffrm.toNat + 256) ∧ q.cur.pushed = t.cur.ffrm.toNat :: t.cur.pushed ∧ t.SameMemory q) ∧
  (∀ g a b c x s pl rng t spec, s.Ready g [b, c] [a] false [pl, rng] t → t.fallocCheck x 2 pl rng = .ok spec →
    (x.chain = true ∨ t.cur.fflim.toNat < t.cur.ffrm.toNat + 256) →
    exec (.fallocSeq g a b c x) s = .next (t.fallocDone t.curUnit t.curSlot a 0 false)) ∧
  (∀ g a b c x s pl rng t spec e q i, s.Ready g [b, c] [a] false [pl, rng] t → t.fallocCheck x 0 pl rng = .ok spec →
    spec.base = t.curUnit → spec.count = 1 → x.chain = false → t.curCore.bq = [] → t.curCore.firstFree = some i →
    t.curCore.freeCq = some q → t.curCore.freeFam = some e → specN spec ≠ some 0 →
    ∃ r : State, exec (.fallocFree g a b c x) s =
        .next (r.fallocDone t.curUnit t.curSlot a (famHandle t.curUnit e (t.fam t.curUnit e).gen) true) ∧
      (r.fam t.curUnit e).st = .staged ∧ (r.fam t.curUnit e).gen = (t.fam t.curUnit e).gen ∧ (r.fam t.curUnit e).g = x.g ∧
      (r.fam t.curUnit e).s = x.s ∧ (r.fam t.curUnit e).l = x.l ∧ (r.fam t.curUnit e).start = rng.setWidth 32 ∧
      (r.fam t.curUnit e).limit = rng.extractLsb' 32 32 ∧ (r.fam t.curUnit e).step = x.step ∧
      (r.slot t.curUnit i).anchor = some q ∧ t.SameMemory r) ∧
  (∀ g a b c x s pl rng t spec, s.Ready g [b, c] [a] false [pl, rng] t → t.fallocCheck x 0 pl rng = .ok spec →
    ¬(spec.base = t.curUnit ∧ spec.count = 1) →
    ∃ r y, exec (.fallocFree g a b c x) s = .next r ∧ r.cur.run = .wait .reply ∧ r.cur.pc = t.cur.pc ∧
      r.curCore.reserving = y :: t.curCore.reserving ∧ y.spec = spec ∧ y.dest = a ∧ y.who = t.curWho ∧
      y.waiting = ((List.range spec.count).map (spec.base + ·)).filter (· ≠ t.curUnit)) ∧
  (∀ g a b c x s pl rng t spec k e, s.Ready g [b, c] [a] false [pl, rng] t → t.fallocCheck x 1 pl rng = .ok spec →
    ((List.range spec.count).find? fun k => (t.core (spec.base + k)).freeFam.isSome) = some k →
    (t.core (spec.base + k)).freeFam = some e →
    ∃ q : State, exec (.fallocBound g a b c x) s = .next
        (((q.enqueueBound ⟨⟨spec.base + k, e, (t.fam (spec.base + k) e).gen⟩, t.cycle, t.curUnit, spec.base, spec.count⟩).fallocDone
          t.curUnit t.curSlot a (famHandle (spec.base + k) e (t.fam (spec.base + k) e).gen) true)) ∧
      (q.fam (spec.base + k) e).st = .queued ∧ (q.fam (spec.base + k) e).start = rng.setWidth 32 ∧
      (q.fam (spec.base + k) e).limit = rng.extractLsb' 32 32 ∧ t.SameMemory q)) ∧
  ((∀ (s : State) u i a h made,
    ((s.slot u i).trip = .none → ∃ q, onlyPred q (s.slot u i).pred 0 (h ≠ 0) ∧
      s.fallocDone u i a h made = (((s.modSlot u i fun x =>
        { x with pred := q, created := if made then h :: x.created else x.created }).writeDstAt u i a h).advanceAt u i)) ∧
    ((s.slot u i).trip = .out .reply → (s.slot u i).run = .wait .reply → s.fallocDone u i a h made = s.modSlot u i fun x =>
        { x with
          created := if made then h :: x.created else x.created
          trip := .done h (some (h ≠ 0)), run := .ready, readyAt := s.cycle + 1, aging := 0 })) ∧
  (∀ (s : State) g h b, s.cur.guard g = true → s.cur.trip = .done h (some b) → s.waitDst s.cur.replyDest = .ok () →
    ∃ q, onlyPred q s.cur.pred 0 b ∧
      s.again g = (((s.modCur fun x => { x with pred := q }).writeDst s.cur.replyDest h).advance)))

/-- R27, R139 to R149, R371. -/
def Obligations.HandlesAtOwnCore : Prop :=
  ((∀ g a b (k : BitVec 3) s h v t e x, s.Ready g [a, b] [] false [h, v] t → t.OwnHandle h e x →
    (x.st = .staged ∨ x.st = .queued) →
    (k.toNat < x.g.toNat → exec (.fsetg g a b k) s =
      .next ((t.modFam t.curUnit e fun x => { x with glob := aput x.glob k.toNat v }).advance)) ∧
    (k.toNat < x.s.toNat → exec (.fsets g a b k) s =
      .next ((t.modFam t.curUnit e fun x => { x with inis := aput x.inis k.toNat v }).advance))) ∧
  (∀ g a i s h t e x, s.Ready g [a] [] false [h] t → t.OwnHandle h e x →
    ((x.st = .staged ∨ x.st = .queued) → exec (.fhand g a i) s =
      .next ((t.modFam t.curUnit e fun x => { x with hnd := true, handler := targetAddr t.cur.pc i }).advance)) ∧
    (x.st = .staged → exec (.fgo g a i) s =
      .next (t.goesOn (t.runFamily t.curUnit e (targetAddr t.cur.pc i) t.cur.mode t.cur.rkey) 0 0)) ∧
    (x.st = .queued → x.heldFgo = none → ∃ r, exec (.fgo g a i) s = .next r ∧ r.cur.run = .wait .reply ∧ r.cur.pc = t.cur.pc ∧
      (r.fam t.curUnit e).heldFgo = some (t.curWho, .fgo (targetAddr t.cur.pc i) t.cur.mode t.cur.rkey))) ∧
  (∀ g a b (k : BitVec 3) s h t e x, s.Ready g [b] [a] false [h] t → t.OwnHandle h e x →
    (x.st = .ended → exec (.fsync g a b) s = .next ((t.writeDst a x.status).advance)) ∧
    (x.st = .ended → k.toNat < x.s.toNat → exec (.fgets g a b k) s = .next ((t.writeDst a
      (if x.status.toNat % 256 = 2 ∨ x.status.toNat % 256 = 3 then 0 else aget 0 x.fins k.toNat)).advance)) ∧
    (x.st = .running → ∃ r, exec (.fsync g a b) s = .next r ∧ r.cur.run = .wait .reply ∧ r.cur.replyDest = a ∧
      r.cur.pc = t.cur.pc ∧ (r.fam t.curUnit e).waiters = x.waiters ++ [(t.curWho, .fsync)]) ∧
    (x.st = .running → k.toNat < x.s.toNat → ∃ r, exec (.fgets g a b k) s = .next r ∧ r.cur.run = .wait .reply ∧
      r.cur.replyDest = a ∧ r.cur.pc = t.cur.pc ∧ (r.fam t.curUnit e).waiters = x.waiters ++ [(t.curWho, .fgets k.toNat)])) ∧
  (∀ g b s h t e x, s.Ready g [b] [] false [h] t → t.OwnHandle h e x →
    (x.st = .ended → exec (.fkill g b) s = .next (t.goesOn t 0 0) ∧ exec (.frel g b) s = .next (t.goesOn (t.freeEntry t.curUnit e) 0 0)) ∧
    (x.st = .staged → exec (.fkill g b) s = .next (t.goesOn ((t.releaseAnchors t.curUnit ⟨t.curUnit, e, x.gen⟩ x.coreList).modFam
        t.curUnit e fun x => { x with st := .ended, kld := true, status := 2, cores := [] }) 0 0)) ∧
    (x.st = .running → exec (.fkill g b) s = .next (t.goesOn (((t.modFam t.curUnit e fun x =>
        { x with kld := true, killAll := true }).sendKills t.curUnit e 0).checkFam t.curUnit e) 0 0)) ∧
    (x.st = .running → ∃ r, exec (.frel g b) s = .next r ∧ r.cur.run = .wait .reply ∧
      (r.fam t.curUnit e).waiters = x.waiters ++ [(t.curWho, .frel)]))) ∧
  ((∀ g a b (k : BitVec 3) s h v t e x, s.Ready g [a, b] [] false [h, v] t → t.OwnHandle h e x →
    (x.g.toNat ≤ k.toNat → exec (.fsetg g a b k) s = .next (s.exactFault { code := 8, sub := 9 })) ∧
    (x.s.toNat ≤ k.toNat → exec (.fsets g a b k) s = .next (s.exactFault { code := 8, sub := 9 })) ∧
    ((x.st = .running ∨ x.st = .ended) →
      (k.toNat < x.g.toNat → exec (.fsetg g a b k) s = .next (s.exactFault { code := 8, sub := 10 })) ∧
      (k.toNat < x.s.toNat → exec (.fsets g a b k) s = .next (s.exactFault { code := 8, sub := 10 })))) ∧
  (∀ g a i s h t e x, s.Ready g [a] [] false [h] t → t.OwnHandle h e x →
    ((x.st = .running ∨ x.st = .ended) → exec (.fhand g a i) s = .next (s.exactFault { code := 8, sub := 10 }) ∧
      exec (.fgo g a i) s = .next (s.exactFault { code := 8, sub := 10 })) ∧
    (x.st = .queued → x.heldFgo ≠ none → exec (.fgo g a i) s = .next (s.exactFault { code := 8, sub := 10 }))) ∧
  (∀ g a b (k : BitVec 3) s h t e x, s.Ready g [b] [a] false [h] t → t.OwnHandle h e x →
    (x.s.toNat ≤ k.toNat → exec (.fgets g a b k) s = .next (s.exactFault { code := 8, sub := 9 })) ∧
    ((x.st = .staged ∨ x.st = .queued) → exec (.fsync g a b) s = .next (s.exactFault { code := 8, sub := 10 }) ∧
      (k.toNat < x.s.toNat → exec (.fgets g a b k) s = .next (s.exactFault { code := 8, sub := 10 }))))) ∧
  (∀ g b s h t e x f, s.Ready g [b] [] false [h] t → t.OwnHandle h e x → f = ⟨t.curUnit, e, x.gen⟩ →
    (x.st = .queued → ∀ q : State, q = t.unqueueBound f x.base x.count → ∀ ended : State → State,
      (∀ r : State, ended r = r.modFam t.curUnit e fun x => { x with st := .ended, kld := true, status := 2, heldFgo := none }) →
      (x.heldFgo = none → exec (.fkill g b) s = .next (t.goesOn (ended q) 0 0)) ∧
      (∀ w op, x.heldFgo = some (w, op) → exec (.fkill g b) s = .next (t.goesOn (ended (q.answer t.curUnit w (.ok 0))) 0 0))) ∧
    ((x.st = .staged ∨ x.st = .queued) → exec (.frel g b) s = .next (t.goesOn
      (((t.unqueueBound f x.base (if x.cls = 1 then x.count else 0)).releaseAnchors t.curUnit f x.coreList).freeEntry t.curUnit e) 0 0))) ∧
  ((∀ (s : State) u e body mode rkey, ((s.runFamily u e body mode rkey).fam u e).st = .running ∧
    ((s.runFamily u e body mode rkey).fam u e).body = body ∧ ((s.runFamily u e body mode rkey).fam u e).mode = mode ∧
    ((s.runFamily u e body mode rkey).fam u e).rkey = rkey ∧ ((s.runFamily u e body mode rkey).fam u e).glob = (s.fam u e).glob ∧
    ((s.runFamily u e body mode rkey).fam u e).gen = (s.fam u e).gen) ∧
  (∀ (s : State) u e, ((s.freeEntry u e).fam u e).st = .free ∧
    ((s.freeEntry u e).fam u e).gen.toNat = (if (s.fam u e).gen.toNat = 32767 then 1 else (s.fam u e).gen.toNat + 1) ∧
    ∀ d, d ≠ e → (s.freeEntry u e).fam u d = s.fam u d))

/-- R53, R55, R139, R144 to R149. -/
def Obligations.HandlesElsewhere : Prop :=
  (∀ i s g srcs dsts op a h vs (t : State), handleForm t.cur.pc t.cur.mode t.cur.rkey i = some (g, srcs, dsts, op, a) →
    s.Ready g srcs dsts false (h :: vs) t → ∀ f, handleParts h = some f → f.owner ≠ t.curUnit →
    t.inPart (unitDie t.curUnit) f.owner = true →
    exec i s = .next ((t.modCur fun x =>
        { x with run := .wait .reply, aging := 0, trip := .out .reply, replyDest := a }).send 0 rankReply t.curUnit f.owner
      (t.spaceOf t.curUnit) false 0 ⟨.handleReply, .handle (.serve f.owner t.curWho (op (vs.getD 0 0)) h)⟩
      (some ⟨.handleReply, .handle (.answer t.curWho (.stale h))⟩))) ∧
  (∀ i s g srcs dsts op a h vs (t : State), handleForm t.cur.pc t.cur.mode t.cur.rkey i = some (g, srcs, dsts, op, a) →
    s.Ready g srcs dsts false (h :: vs) t → (h.getLsbD 32 = false ∨ h.getLsbD 33 = true) →
    (handleParts h = none ∨ ∃ f, handleParts h = some f ∧ f.owner = t.curUnit ∧
      ((t.fam t.curUnit f.entry).st = .free ∨ (t.fam t.curUnit f.entry).gen ≠ f.gen)) →
    exec i s = .next (s.exactFault { code := 7, addr := h })) ∧
  ((∀ g a b (k : BitVec 3) s h v t frame, s.Ready g [a, b] [] false [h, v] t → h.getLsbD 32 = true → h.getLsbD 33 = false →
    t.foldFrame h = some frame → t.curCore.frameEnd frame = 0 → k.toNat < fld (t.curCore.frameWord frame 31) 43 41 →
    exec (.fsetg g a b k) s = .next ((t.modCurCore fun c => c.setFrameWord frame k.toNat v).advance)) ∧
  (∀ g a b s h t frame, s.Ready g [b] [a] false [h] t → h.getLsbD 32 = true → h.getLsbD 33 = false →
    t.foldFrame h = some frame → 4 ≤ t.curCore.frameEnd frame →
    exec (.fsync g a b) s = .next ((t.writeDst a (t.foldStatus frame)).advance)) ∧
  (∀ g b s h t frame, s.Ready g [b] [] false [h] t → h.getLsbD 32 = true → h.getLsbD 33 = false →
    t.foldFrame h = some frame → ∀ y, y = (t.curCore.setFrameEnd frame 2).slot t.curSlot →
    exec (.frel g b) s = .next ((t.modCurCore fun c => (c.setFrameEnd frame 2).lowerFrames t.curSlot
      (1 + y.pushed.length + (y.folds.map fun f => f.pushed.length).sum)).advance)) ∧
  (∀ (c : Core) i n, (c.frameEnd ((c.slot i).ffrm.toNat - 256) ≠ 2 → c.lowerFrames i n = c) ∧
    ((c.slot i).pushed.contains ((c.slot i).ffrm.toNat - 256) = true → c.frameEnd ((c.slot i).ffrm.toNat - 256) = 2 →
      ∃ y : Slot, y.ffrm = BitVec.ofNat 20 ((c.slot i).ffrm.toNat - 256) ∧ y.regs = (c.slot i).regs ∧
        c.lowerFrames i (n + 1) = (c.setSlot i y).lowerFrames i n)) ∧
  (∀ g a b s h t frame, s.Ready g [b] [a] false [h] t → h.getLsbD 32 = true → h.getLsbD 33 = false →
    t.foldFrame h = some frame → t.curCore.frameEnd frame = 1 → ∃ v q, exec (.fsync g a b) s = .next ((State.writeDst q a v).advance) ∧
      q.cores = t.cores ∧ q.curUnit = t.curUnit ∧ q.curSlot = t.curSlot) ∧
  (∀ g a i s h t frame, s.Ready g [a] [] false [h] t → h.getLsbD 32 = true → h.getLsbD 33 = false →
    t.foldFrame h = some frame → t.curCore.frameEnd frame = 0 → t.cur.pend = 0 →
    ∃ q : State, exec (.fgo g a i) s = .next (q.foldGo frame (targetAddr t.cur.pc i)) ∧ q.cur.regs = t.cur.regs ∧
      q.cur.pc = t.cur.pc ∧ q.curCore.pool = t.curCore.pool))

/-- R40, R42, R45, R134, R148, R150, R151, R370 (an FBRK that must wait reports its break at once: log 30, DEDUCED). -/
def Obligations.SelfEndAndBarrier : Prop :=
  ((∀ g a s t, s.Ready g [] [a] false [] t →
    ∃ v, exec (.fself g a) s = .next ((t.writeDst a v).advance) ∧ (t.curUnit < 4096 → t.curSlot < 64 → v.toNat =
      t.curUnit + t.cur.sgen.toNat * 2 ^ 17 + (if t.cur.work = .folded then 2 ^ 32 else 0) + 2 ^ 33 + t.curSlot * 2 ^ 34)) ∧
  (∀ g s, s.cur.guard g = true → s.cur.endWait = none → exec (.exit g) s = .next (s.endWork s.curUnit s.curSlot .exit)) ∧
  (∀ g s r, s.cur.guard g = true → s.cur.endWait = some r →
    exec (.exit g) s = .next (s.modCur fun x => { x with run := .wait .pass, aging := 0 })) ∧
  (∀ g s q, s.cur.guard g = true → s.cur.work = .member q → s.cur.endWait = none →
    exec (.fbrk g) s = .next ((s.tellBreak s.curUnit s.curSlot).endWork s.curUnit s.curSlot .brk)) ∧
  (∀ g s q r, s.cur.guard g = true → s.cur.work = .member q → s.cur.endWait = some r →
    exec (.fbrk g) s = .next ((s.tellBreak s.curUnit s.curSlot).modCur fun x => { x with run := .wait .pass, aging := 0 })) ∧
  (∀ g s, s.cur.guard g = true → s.cur.work = .folded → s.cur.endWait = none →
    exec (.fbrk g) s = .next (s.endWork s.curUnit s.curSlot .brk)) ∧
  (∀ g die s, s.cur.guard g = true → s.inBound = false → exec (.fbar g die) s = .next (s.exactFault { code := 9 })) ∧
  (∀ g die s, s.cur.guard g = true → s.inBound = true → s.cur.holds = [] →
    s.curCore.loadsOut s.curSlot = false →
    (die = false ∨ ∀ p ∈ s.curCore.journal, p.2.counted = false) →
    ∃ r, exec (.fbar g die) s = .next r ∧ r.cur.run = .wait .bar ∧ r.cur.fence = none ∧ r.cur.pc = s.cur.pc)) ∧
  (∀ g (s : State) q e x, s.cur.guard g = true → s.cur.work = .member q → s.cur.s = 0 → s.cur.eos = false → s.cur.created = [] →
    s.cur.holds = [] → s.cur.asyncs = [] → s.cur.pushed = [] → afind s.curCore.cq q = some e → e.fam.owner = s.curUnit → e.chain = false →
    s.fam s.curUnit e.fam.entry = x → x.gen = e.fam.gen → x.st = .running →
    ∃ r, exec (.exit g) s = .next r ∧ r.cur.work = .none ∧ r.cur.anchor = (if e.bound = true then none else s.cur.anchor) ∧
      (r.fam s.curUnit e.fam.entry).ended = x.ended + 1 ∧
      (∃ e', afind r.curCore.cq q = some e' ∧ e'.resident = e.resident - 1) ∧ s.SameMemory r)

/-- R24, R32, R36, R138, R152, R292, R306, R394. -/
def Obligations.SlotsTakeWork : Prop :=
  (∀ (s : State) u i q e x, s.slot u i = x → x.work = .none → afind (s.core u).cq q = some e →
    1 + e.g.toNat + 2 * e.s.toNat + e.l.toNat ≤ 28 →
    ∃ r y, r = s.startMember u i q ∧ r.slot u i = y ∧
      (s.arg = .slot u i → (s.core u).halted = false → (s.core u).retired = false → i < (s.core u).nslots → x.anchor = some q →
        (e.ready = true → exec .slotAssignment s = .next (r.offer u)) ∧ (e.ready = false → exec .slotAssignment s = .next s)) ∧ y.work = .member q ∧ y.pc = e.body ∧ y.frm.toNat = e.mode.toNat ∧
      y.rkey = e.rkey ∧ y.prio = e.prio ∧ y.g = e.g ∧ y.s = e.s ∧ y.l = e.l ∧ y.ord.toNat = e.next % 2 ^ 32 ∧
      y.ix = BitVec.ofInt 64 (Int.bmod (e.start.toInt + e.step.toInt * e.next) (2 ^ 32)) ∧ y.sgen = x.scnt + 1 ∧ y.anchor = x.anchor ∧
      y.run = .ready ∧ y.readyAt = s.cycle + 1 ∧ y.pend = 0 ∧ y.target = true ∧ y.holds = [] ∧
      (∀ k, k < e.g.toNat → y.isFull (1 + k) = true ∧ y.reg (1 + k) = aget 0 e.glob k) ∧
      (∀ k, k < e.s.toNat → y.isFull (1 + e.g.toNat + k) = false) ∧
      (e.next = 0 → ∀ k, k < e.s.toNat → y.isFull (1 + e.g.toNat + e.s.toNat + k) = true ∧
        y.reg (1 + e.g.toNat + e.s.toNat + k) = aget 0 e.inis k) ∧
      (∃ e', afind (r.core u).cq q = some e' ∧ e'.resident = e.resident + 1 ∧ e'.next = nextOrd e.count e.blk e.next) ∧ s.SameMemory r) ∧
  (∀ (s : State) u i c, s.arg = .slot u i → s.core u = c → (c.slot i).work = .none → (c.slot i).anchor = none → c.halted = false →
    c.retired = false → i < c.nslots →
    (∀ h hs, c.hq = h :: hs → exec .slotAssignment s = .next ((s.setCore u { c with hq := hs }).startHandler u i h)) ∧
    (∀ e es, c.hq = [] → c.eq = e :: es → exec .slotAssignment s = .next ((s.setCore u { c with eq := es }).startEval u i e)) ∧
    (∀ b bs, c.hq = [] → c.eq = [] → c.bq = b :: bs →
      exec .slotAssignment s = .next (s.schedule s.cycle rankAssign .boundGrant (.bound b))) ∧
    (c.hq = [] → c.eq = [] → c.bq = [] → ∀ may : Nat × CqEntry → Prop,
      (∀ p, may p ↔ p ∈ c.cq ∧ p.2.ready = true ∧ p.2.bound = false ∧ c.anchorEmpty p.1 = false) →
      (∀ p, may p → (∀ k, may k → k.1 ≠ p.1 → k.2.prio.toNat < p.2.prio.toNat ∨ (k.2.prio = p.2.prio ∧ p.2.seq < k.2.seq)) →
        exec .slotAssignment s = .next (s.startMember u i p.1)) ∧
      ((∀ p, ¬may p) → exec .slotAssignment s = .next s))) ∧
  (∀ (s : State) u i, s.arg = .slot u i → (s.slot u i).work ≠ .none →
    exec .slotAssignment s = .next s ∧ ((s.core u).firstFree = none → exec .handlerMemberStart s = .next s)) ∧
  (∀ (s : State) u i h hs x, s.arg = .slot u i → s.slot u i = x → x.work = .none → x.anchor = none → (s.core u).hq = h :: hs →
    ∃ r y, exec .handlerMemberStart s = .next r ∧ r.slot u i = y ∧ y.work = .handler h.held h.recNo h.stamp ∧ y.pc = h.body ∧
      y.frm.toNat = h.h.mode.toNat ∧ y.rkey = h.h.rkey ∧ y.prio = h.prio ∧ y.g = 2 ∧ y.s = 0 ∧ y.l = 25 ∧ y.isFull 1 = true ∧
      y.isFull 2 = true ∧ y.reg 2 = ownAddr (poolSize u - 4096 + 64 * h.recNo) ∧ y.reg 1 = memberHandle h.held h.fold ∧
      (∀ k, 3 ≤ k → k < 28 → y.isFull k = false) ∧ (r.core u).hq = hs ∧ s.SameMemory r) ∧
  (∀ (s : State) u i x p, s.arg = .slot u i → s.slot u i = x → x.holds = [] → (s.core u).stopped = false → x.work ≠ .none →
    x.asyncs.find? (fun k => k.1 == x.sgen) = some p → (x.fence = none ∨ p.2.code ≠ 32) → exec .asyncFaultDelivery s =
      .next ((s.setSlot u i { x with asyncs := x.asyncs.erase p }).takeFault u i p.2)) ∧
  (∀ (s : State) u i x, s.arg = .slot u i → s.slot u i = x → x.holds = [] → (∃ f j, x.fence = some f ∧ f.j = some j) → (∀ p ∈ x.asyncs, p.2.code = 32) →
    exec .asyncFaultDelivery s = .next s) ∧
  (∀ (s : State) u i f x, s.arg = .slot u i → s.slot u i = x → x.holds = [.noRecord f] → (s.core u).freeRecordNo ≠ none →
    exec .asyncFaultDelivery s = .next ((s.setSlot u i { x with holds := [] }).takeFault u i f))

/-- R38, R41, R45, R46, R48, R49, R59, R139, R148, R305, R370. -/
def Obligations.FamilyMessages : Prop :=
  (∀ (s : State) f x, s.arg = .forward f → f.final = true → s.fam f.fam.owner f.fam.entry = x → x.gen = f.fam.gen → x.st = .running →
    ((∀ o, afind x.finOrd f.k = some o → f.ord ≤ o) → exec .forwardedSharedArrival s =
      .next ((s.modFam f.fam.owner f.fam.entry fun x =>
        { x with fins := aput x.fins f.k f.v, finOrd := aput x.finOrd f.k f.ord }).checkFam f.fam.owner f.fam.entry)) ∧
    (∀ o, afind x.finOrd f.k = some o → o < f.ord → exec .forwardedSharedArrival s = .next s)) ∧
  (∀ (s : State) f q e, s.arg = .forward f → f.final = false → (s.core f.unit).cqOf f.fam = some (q, e) →
    afind (s.core f.unit).cq q = some e →
    (∀ i, (∀ j, j < i → ¬((s.slot f.unit j).work = .member q ∧ (s.slot f.unit j).ord.toNat = f.ord)) →
      i < (s.core f.unit).nslots → (s.slot f.unit i).work = .member q → (s.slot f.unit i).ord.toNat = f.ord →
      (s.slot f.unit i).run = .ready → (s.slot f.unit i).ending = none →
      exec .forwardedSharedArrival s = .next (s.modSlot f.unit i fun x => x.fill (1 + x.g.toNat + x.s.toNat + f.k) f.v)) ∧
    ((∀ i, (s.slot f.unit i).work ≠ .member q ∧ ∀ fo ∈ (s.slot f.unit i).folds, fo.work ≠ .member q) → e.next ≤ f.ord →
      exec .forwardedSharedArrival s =
        .next (s.modCore f.unit fun c => { c with cq := aput c.cq q { e with fwd := (f.ord, f.k, f.v) :: e.fwd } }))) ∧
  (∀ (s : State) u e x, s.arg = .entry u e → s.fam u e = x →
    (x.over = false → exec .familyEnd s = .next s) ∧
    (x.over = true → x.orphan = false → x.waiters = [] → x.launch = none → ∃ q r, exec .familyEnd s = .next r ∧
      r = q.modFam u e (fun x => { x with st := .ended, status := x.statusWord, waiters := [], bar := [], cores := [] }) ∧
      q = s.releaseAnchors u ⟨u, e, x.gen⟩ x.coreList ∧ (r.fam u e).st = .ended ∧ (r.fam u e).fins = x.fins ∧
      (r.fam u e).status = x.statusWord)) ∧
  (∀ (s : State) k, s.arg = .kill k → exec .killArrival s = .next ((s.killLocal k).report k.unit k.fam (.killDone k.unit))) ∧
  (∀ (s : State) r x, s.arg = .report r → s.fam r.fam.owner r.fam.entry = x →
    ((x.gen ≠ r.fam.gen ∨ x.st ≠ .running) → exec .breakKillFaultReport s = .next s) ∧
    (x.gen = r.fam.gen → x.st = .running →
      (∀ o, r.ev = .ended o → exec .breakKillFaultReport s =
        .next ((s.modFam r.fam.owner r.fam.entry fun y => y.addEnded o).checkFam r.fam.owner r.fam.entry)) ∧
      (∀ o ix, r.ev = .broke o ix → o < x.brk.toNat → exec .breakKillFaultReport s =
        .next (((s.modFam r.fam.owner r.fam.entry fun y => { y with brk := BitVec.ofNat 32 o, brkIx := ix, eosEnd := false }).sendKills
          r.fam.owner r.fam.entry (o + 1)).checkFam r.fam.owner r.fam.entry)) ∧
      (∀ o ix, r.ev = .faulted o ix true → ∃ q, exec .breakKillFaultReport s =
          .next ((q.sendKills r.fam.owner r.fam.entry 0).checkFam r.fam.owner r.fam.entry) ∧
        (q.fam r.fam.owner r.fam.entry).killAll = true ∧
        (q.fam r.fam.owner r.fam.entry).flt = (if o < x.flt.toNat then BitVec.ofNat 32 o else x.flt) ∧ s.SameMemory q))) ∧
  (∀ (s : State) u id w x, s.arg = .reserve (.ask u id w x) →
    ∀ r, r = s.reserveAt u id w false x → exec .reservationReply s = .next (r.2.2.send 6 rankReply u w (r.2.2.spaceOf u) false 0
      ⟨.reservationReply, .reserve (.answer w id u (!r.1) r.2.1)⟩ none)) ∧
  (∀ (s : State) u id w f, s.arg = .reserve (.settle u id w f) → exec .reservationReply s = .next (s.settleAt u id w f)) ∧
  (∀ (s : State) u w op h, s.arg = .handle (.serve u w op h) →
    (∀ r q, s.serveHandle u w op h = (some r, q) → exec .handleReply s = .next (q.answer u w r)) ∧
    (∀ q, s.serveHandle u w op h = (none, q) → exec .handleReply s = .next q)) ∧
  (∀ (s : State) w v, s.arg = .handle (.answer w (.ok v)) → (s.slot w.unit w.slot).seat w.sgen = .occupant →
    ((s.slot w.unit w.slot).trip = .out .bar → exec .handleReply s = .next (s.complete w.unit w.slot 0 0)) ∧
    (∀ k, (s.slot w.unit w.slot).trip = .out .reply → (s.slot w.unit w.slot).run = .wait k →
      exec .handleReply s = .next (s.modSlot w.unit w.slot fun x =>
        { x with trip := .done v none, run := .ready, readyAt := s.cycle + 1, aging := 0 }))) ∧
  (∀ (s : State) b, s.arg = .bound b →
    ((s.fam b.fam.owner b.fam.entry).st = .queued → (s.fam b.fam.owner b.fam.entry).gen = b.fam.gen →
      exec .boundEnqueueRetry s = .next (s.enqueueBound b) ∧
      (s.boundReady b (s.fam b.fam.owner b.fam.entry) = false → exec .boundGrant s = .next s) ∧
      (s.boundReady b (s.fam b.fam.owner b.fam.entry) = true → ∃ r, exec .boundGrant s = .next r ∧
        ((s.fam b.fam.owner b.fam.entry).heldFgo = none → (r.fam b.fam.owner b.fam.entry).st = .staged))) ∧
    ((s.fam b.fam.owner b.fam.entry).st ≠ .queued → exec .boundEnqueueRetry s = .next s ∧ exec .boundGrant s = .next s))

/-- R66, R67, R70 to R73, R79, R104. -/
def Obligations.LineFetches : Prop :=
  ((∀ (s : State) u i x, s.arg = .slot u i → s.slot u i = x →
    ((∀ b, x.line ≠ some (x.pc &&& ~~~63#64, b)) → x.fetching = none → ∀ va, targetOf u (x.pc &&& ~~~63#64) = some (.global va) →
      ∃ r tid, exec .lineFetch s = .next r ∧ (r.slot u i).run = .wait .fetch ∧ (r.slot u i).fetching = some tid ∧
        (r.slot u i).pc = x.pc ∧ s.SameMemory r) ∧
    ((∀ b, x.line ≠ some (x.pc &&& ~~~63#64, b)) → x.fetching ≠ none →
      exec .lineFetch s = .next (s.modSlot u i fun x => { x with run := .wait .fetch, aging := 0 })) ∧
    ((∀ b, x.line ≠ some (x.pc &&& ~~~63#64, b)) → x.fetching = none → (∀ va, targetOf u (x.pc &&& ~~~63#64) ≠ some (.global va)) →
      exec .lineFetch s = .next (s.takeFault u i { code := 5, addr := x.pc &&& ~~~63#64, opc := x.branchPc })) ∧
    (∀ b, x.line = some (x.pc &&& ~~~63#64, b) →
      (x.target = true → exec .lineFetch s = .next (s.takeFault u i { code := 3, addr := x.pc, opc := x.branchPc })) ∧
      (x.target = false → exec .lineFetch s = .next (s.modSlot u i fun x => { x with pc := (x.pc &&& ~~~63#64) + 64 })))) ∧
  (∀ (s : State) m b x, s.arg = .fetch m → m.res = .data b → s.slot m.who.unit m.who.slot = x → x.seat m.who.sgen = .occupant →
    x.fetching = some m.tid →
    (lineOk b = true → exec .lineFetch s = .next (s.setSlot m.who.unit m.who.slot
      { x with run := .ready, readyAt := s.cycle + 1, aging := 0, fetching := none, line := some (m.line, b) })) ∧
    (lineOk b = false → exec .lineFetch s = .next ((s.setSlot m.who.unit m.who.slot
      { x with run := .ready, readyAt := s.cycle + 1, aging := 0, fetching := none }).takeFault m.who.unit m.who.slot
        { code := 2, addr := m.line, opc := x.branchPc }))) ∧
  (∀ (s : State) l o, s.arg = .land l → (s.core l.unit).outOf l.tid = some o → ∃ q : State, exec .longLatencyLanding s = .next q ∧
    q = (s.land l).wakeWhere l.unit (fun w => match w with | .busy t => decide (t ≤ (s.land l).cycle) | _ => false)) ∧
  (∀ (s : State) l o v0 v1 fl, l.res = .val v0 v1 fl → (s.core l.unit).outOf l.tid = some o →
    (o.kind = .unit ∨ o.kind = .token ∨ (∃ a, o.kind = .access a ∧ a.kind ≠ .jtab) ∨ ∃ vi k n, o.kind = .rdadd vi k n) →
    (s.slot l.unit o.who.slot).seat o.who.sgen = .occupant → o.noticed = false → ∃ q : State,
    (o.dest2 = none → s.land l = q.afterLanding l.unit o.who.slot) ∧
    (∀ r, o.dest2 = some r → s.land l = (q.landDst l.unit o.who.slot r v1).afterLanding l.unit o.who.slot) ∧ q = ((s.modCore l.unit fun c => { c with out := c.out.filter fun k => k.tid ≠ l.tid }).modSlot
      l.unit o.who.slot fun (x : Slot) =>
        { x with
          frm := x.frm ||| ((fl.setWidth 7 : BitVec 7) <<< (2 : Nat))
          landed := (s.cycle, fl ||| if x.landed.1 = s.cycle then x.landed.2 else 0) }).landDst l.unit o.who.slot o.dest v0) ∧
  (∀ (s : State) u i (r : Reg) v x y, s.slot u i = x → y = (s.landDst u i r v).slot u i → awf 0 x.regs = true →
    (r = 31 → y.ln = v ∧ y.lnPend = false ∧ y.regs = x.regs ∧ (x.run = .wait .ln → y.run = .ready ∧ y.readyAt = s.cycle + 1)) ∧
    (isWindow r = true → x.role r.toNat = .loc → y.reg r.toNat = v ∧ y.isFull r.toNat = true ∧ y.isPend r.toNat = false ∧
      (∀ k, k < 32 → k ≠ r.toNat → y.reg k = x.reg k ∧ y.isFull k = x.isFull k ∧ y.isPend k = x.isPend k) ∧
      (x.run = .wait (.reg r) → y.run = .ready ∧ y.readyAt = s.cycle + 1)))) ∧
  ((∀ line k, lineHeads line = k → k ≤ 32 ∧ (∀ j, j < k → lineHalf line j ≠ 0) ∧ (k < 32 → lineHalf line k = 0) ∧
    (lineOk line = true ↔ (k = 32 ∧ sumOf k (fun j => tlLen (headTl (lineHalf line j))) = 0) ∨
      (k < 32 ∧ k + 1 + sumOf k (fun j => tlLen (headTl (lineHalf line j))) ≤ 32))) ∧
  (∀ line j, lineOk line = true → j < lineHeads line → ∀ top, top = 31 - sumOf j (fun m => tlLen (headTl (lineHalf line m))) →
    (lineTail line j).toNat = sumOf (tlLen (headTl (lineHalf line j))) (fun q =>
      (lineHalf line (top - tlLen (headTl (lineHalf line j)) + 1 + q)).toNat * 2 ^ (16 * q))) ∧
  (∀ (x : Slot) a line, x.line = some (a, line) → a = x.pc &&& ~~~63 →
    x.nextPc = if x.pc.toNat % 64 / 2 + 1 < lineHeads line then x.pc + 2 else a + 64))

/-- R330 to R334, R357 to R360, R377. -/
def Obligations.ReductionSteps : Prop :=
  (∀ g a b c s k d (t : State) d', s.Ready g [b, c] [a] false [k, d] t → k ≠ 0 → k.toNat % 64 = 0 →
    (∃ va, targetOf t.curUnit k = some (.global va)) → descOk d = true → t.resolveDesc d = some d' →
    ∃ r, exec (.rdjoin g a b c) s = .next r ∧ r = t.sendJoin .rdjoinAtHome a k d' 0 ∧ r.cur.run = .wait .reply ∧
      r.cur.pc = t.cur.pc ∧ r.cur.regs = t.cur.regs ∧ t.SameMemory r) ∧
  (∀ g b s h (t : State), s.Ready g [b] [] false [h] t → ∃ r, exec (.rdfree g b) s = .next r ∧
    r = t.sendJoin .rdfreeAtHome 0 (BitVec.ofNat 64 (h.toNat / 64 % 2 ^ 47 * 64)) 0 h ∧ r.cur.run = .wait .reply ∧
    r.cur.pc = t.cur.pc ∧ t.SameMemory r) ∧
  (∀ g a b c s h v (t : State), s.Ready g [b, c] [a] true [h, v] t → fld h 55 53 = 0 → fld h 5 0 = 0 →
    ∃ r, exec (.rdadd g a b c) s = .next r ∧ r.cur.pc = t.cur.nextPc ∧ r.cur.regs = t.cur.regs ∧ t.SameMemory r ∧
      (isWindow a = true → r.cur.isPend a.toNat = true ∧ ∃ o, r.curCore.out = t.curCore.out ++ [o] ∧ o.dest = a ∧ o.who = t.curWho ∧
        o.kind = .rdadd (t.spaceOf t.curUnit).viid (handleKey h) none) ∧ (a = 0 → r.curCore.out = t.curCore.out)) ∧
  (∀ (s : State) j, s.arg = .join j → j.res = .pending → ∀ id x, id = unitIdent j.at_ → s.slice id = x →
    x.heldAt j.space (chunkOf j.key) = none → ∀ vi, vi = j.space.viid →
    (∀ k e, x.dir.find? (fun p => p.2.viid == vi && p.2.key == j.key) = some (k, e) →
      exec .rdjoinAtHome s = .next (s.replyJoin .rdjoinAtHome j (.ok (if e.desc = j.desc then e.handle else 0)))) ∧
    (x.dir.find? (fun p => p.2.viid == vi && p.2.key == j.key) = none → j.desc.getLsbD 46 = false →
      (freeKey x.dir 256 = none → exec .rdjoinAtHome s = .next (s.replyJoin .rdjoinAtHome j (.xarg 6))) ∧
      (∀ k st n, freeKey x.dir 256 = some k → s.redStation id = st → freeKey (s.station st).ctx 8 = some n →
        fld (s.viWord id vi 0) 39 32 < fld (s.viWord id vi 0) 47 40 → ∃ q, exec .rdjoinAtHome s =
            .next (State.recordJoin ((State.modStation q st fun t => { t with ctx := aput t.ctx n (newContext vi j.key j.desc s.nextSeq) }).addUse
              id vi 32 true) id k j (.station st n)) ∧ q = { s with nextSeq := s.nextSeq + 1 })) ∧
    (x.dir.find? (fun p => p.2.viid == vi && p.2.key == j.key) = none →
      exec .rdfreeAtHome s = .next (s.replyJoin .rdfreeAtHome j (.ok 0))) ∧
    (∀ k e st n, x.dir.find? (fun p => p.2.viid == vi && p.2.key == j.key) = some (k, e) → e.handle = j.handle →
      e.ctx = .station st n → exec .rdfreeAtHome s = .next (State.replyJoin
        ((((s.modStation st fun t => { t with ctx := adel t.ctx n }).modSlice id fun x => { x with dir := adel x.dir k }).addUse id vi 32
          false)) .rdfreeAtHome j (.ok 0)))) ∧
  (∀ (s : State) j v, s.arg = .join j → j.res = .ok v → (s.slot j.who.unit j.who.slot).seat j.who.sgen = .occupant → ∀ o,
    (s.core j.who.unit).outOf j.tid = some o → o.noticed = false → ∀ q,
    q = s.modCore j.who.unit (fun c => { c with out := c.out.filter fun k => k.tid ≠ j.tid }) →
    ∀ k, (s.slot j.who.unit j.who.slot).trip = .out .reply → (s.slot j.who.unit j.who.slot).run = .wait k →
    ∀ r, r = State.modSlot q j.who.unit j.who.slot (fun x =>
        { x with trip := .done v none, run := .ready, readyAt := s.cycle + 1, aging := 0 }) →
    exec .rdjoinAtHome s = .next r ∧ exec .rdfreeAtHome s = .next r) ∧
  (∀ (s : State) (x : Contribution) st k c, s.arg = .contrib x → x.handle.getLsbD 63 = true → x.handle.getLsbD 62 = false →
    st = fld x.handle 61 56 → findCtx (s.station st).ctx x.viid (handleKey x.handle) = some (k, c) → ∀ q, q = c.apply x.v →
    ∀ z, z = (s.ackContribution (stationUnit st) x c.round).modStation st (fun t =>
      { t with ctx := aput t.ctx k (if q.roundFull then q.nextRound else q) }) →
    exec .reductionContribution s = .next (if q.roundFull then z.deliverRound (stationUnit st) q else z) ∧
    (q.roundFull = true ↔ q.count = q.expect)) ∧
  (∀ (s : State) (x : Contribution), s.arg = .contrib x → x.handle.getLsbD 63 = true → x.handle.getLsbD 62 = false →
    findCtx (s.station (fld x.handle 61 56)).ctx x.viid (handleKey x.handle) = none →
    exec .reductionContribution s = .next (s.refuseContribution (stationUnit (fld x.handle 61 56)) x)) ∧
  (∀ (s : State) u d, s.arg = .delivery u d → ∃ q : State, exec .deliveryLanding s = .next q ∧
    q = ((s.landDelivery u d).modCore u fun c => { c with deliveries := c.deliveries ++ [d] }).pruneDeliveries u) ∧
  (∀ (s : State) (x : ContribAck), s.arg = .contribAck x →
    (x.round = none → exec .contributionAck s = .next ((s.land ⟨x.unit, x.tid, .fail 11⟩).pruneDeliveries x.unit)) ∧
    (∀ r, x.round = some r → (s.core x.unit).deliveries = [] → exec .contributionAck s =
      .next ((s.modOut x.unit x.tid fun o => { o with kind := .rdadd x.viid x.key (some r) }).pruneDeliveries x.unit))) ∧
  (∀ (s : State) (p : PeerState), s.arg = .peer p →
    (findCtx (s.engine p.die).ctx p.viid p.key = none → exec .peerStateArrival s = .next s) ∧
    (∀ k x, findCtx (s.engine p.die).ctx p.viid p.key = some (k, x) → ∃ y, exec .peerStateArrival s =
        .next ((s.modEngine p.die fun e => { e with ctx := aput e.ctx k y }).tryCrossRound p.die k) ∧
      y.states = x.states ++ [p] ∧ y.acc = x.acc ∧ y.count = x.count ∧ (p.round ≠ x.round → y.peers = x.peers))) ∧
  (∀ (s : State) die k rd al, s.arg = .round die k rd al →
    (afind (s.engine die).ctx k = none → exec .crossDeviceRoundTimeout s = .next s) ∧
    (∀ x, afind (s.engine die).ctx k = some x → (x.round ≠ rd ∨ x.alloc ≠ al ∨ x.full = false) →
      exec .crossDeviceRoundTimeout s = .next s) ∧
    (∀ x, afind (s.engine die).ctx k = some x → x.round = rd → x.alloc = al → x.full = true → x.late = [] →
      exec .crossDeviceRoundTimeout s = .next ((s.viEvent (64 * die) x.viid 4 0 0 (redHandle (.port die k) x.key)).modEngine die fun e =>
        { e with ctx := aput e.ctx k x.nextRound })))

/-- R110, R186, R326, R352, R353, R362, R389, R390, R405, R464. -/
def Obligations.CoreUnitSteps : Prop :=
  (∀ (s : State) u v, s.arg = .unitWord u v →
    (∃ r, exec .timerWrite s = .next r ∧ r.core u = { s.core u with timer := v } ∧ (v = 0 → r.agenda = s.agenda) ∧
      (v ≠ 0 → ∃ p, r.agenda = p :: s.agenda ∧ p.due = max (s.cycle + 1) v.toNat ∧ p.ev = ⟨.timerEvent, .unitWord u v⟩) ∧
      s.SameMemory r) ∧
    (∃ r, exec .gstopWrite s = .next r ∧ r.core u = { s.core u with gstop := v } ∧ (v = 0 → r.agenda = s.agenda) ∧
      (v ≠ 0 → ∃ p, r.agenda = p :: s.agenda ∧ p.due = max (s.cycle + 1) v.toNat ∧ p.ev = ⟨.syncStop, .unitWord u v⟩) ∧
      s.SameMemory r) ∧
    exec .viidWrite s = .next (s.modCore u fun c => { c with viid := v.setWidth 6 }) ∧
    ((s.core u).timer ≠ v ∨ (s.core u).stopped = true → exec .timerEvent s = .next s) ∧
    ((s.core u).timer = v → v ≠ 0 → (s.core u).stopped = false → exec .timerEvent s = .next ((s.modCore u fun c =>
      { c with timer := 0, timerEv := some (c.timerEv.getD (BitVec.ofNat 64 s.cycle)) }).giveEvents u)) ∧
    (exec .combiningRegisterWrite s = .next (s.modSlice (unitIdent u) fun x => { x with w := v.setWidth 8 }))) ∧
  (∀ (s : State) u, (s.core u).eventWaiters = [] → s.giveEvents u = s) ∧
  (∀ (s : State) pa v, s.arg = .physWord pa v → (v ≠ 0 → exec .counterClearStore s = .next s) ∧
    (∀ k off, v = 0 → k < 256 → off < 2 ^ 16 → off ≠ 0x28 → pa = 0xFF0002000000 + 2 ^ 16 * k + off →
      exec .counterClearStore s = .next (s.modSlice k fun x => { x with perf := aset 0 x.perf off 0 })) ∧
    (∀ u off, v = 0 → u < 4096 → off < 4096 → pa = 0xFF0100000000 + 4096 * u + off →
      exec .counterClearStore s = .next (s.modCore u fun c => { c with perf := aset 0 c.perf off 0 }))) ∧
  (∀ (s : State) u tid j (k : CurveCmd), s.arg = .tid u tid j → (s.core u).curve = some k → k.tid = tid →
    (∀ c, k.killed = some c → c ≠ s.cycle → exec .csplitCompletion s = .next s) ∧ (k.killed = none →
    (s.slot u k.who.slot).seat k.who.sgen = .occupant →
    (∀ a b, k.split.1[j]? = some (a, b) → exec .csplitCompletion s =
      .next (s.modCore u fun c => (c.setPoolWord (k.off + 16 * j) a).setPoolWord (k.off + 16 * j + 8) b)) ∧
    (k.split.1[j]? = none → k.split.1.length < 2 ^ 16 → k.who.slot < 64 → ∃ (q : State) (p : BitVec 8), exec .csplitCompletion s =
        .next ((q.modSlot u k.who.slot fun x => { x with pred := p }).complete u k.who.slot (s.slot u k.who.slot).replyDest
          (BitVec.ofNat 64 k.split.1.length)) ∧
      onlyPred p (s.slot u k.who.slot).pred 0 k.split.2 ∧ (q.core u).pool = (s.core u).pool ∧
      ((s.core u).curves = [] → (q.core u).curve = none) ∧
      (∀ n ks, (s.core u).curves = n :: ks → (s.core u).curveDead n = false →
        (q.core u).curve = some { n with til := s.cycle + 4 + n.split.1.length } ∧ (q.core u).curves = ks)))) ∧
  (∀ (s : State) u w src fam, s.arg = .chain u w src fam →
    ((s.core u).cqOf fam = none → (∀ p ∈ (s.core u).cq, p.2.chain = true → p.2.fam.gen ≠ 0) → exec .chainWordArrival s = .next s) ∧
    (∀ p ∈ (s.core u).cq, (s.core u).cqOf fam = none → p.2.chain = true → p.2.fam.gen = 0 → exec .chainWordArrival s =
      .next (s.modCore u fun c => { c with early := c.early ++ [(fam, w)] })) ∧
    (∀ x, (s.core u).cqOf fam = some x → exec .chainWordArrival s =
      .next (((s.modCore u fun c => { c with qi := c.qi ++ [w] }).wakeWhere u fun k => k == .qi).giveEvents u))) ∧
  (∀ (s : State) u fam, s.arg = .credit u fam →
    ((s.core u).cqOf fam = none → exec .chainCredit s = .next s) ∧
    (∀ x q, (s.core u).cqOf fam = some x → q = (s.modCore u fun c => { c with qoOut := c.qoOut - 1 }).drainQo u →
      exec .chainCredit s = .next (if (q.core u).qo.length < 8 then q.wakeWhere u fun k => k == .qo else q)))

/-- R83, R395, R400 to R411 (how requests travel: log 14, DEDUCED; IMAP as one request, to the issuer's own unit: log 19, DESIGN CHOICE). -/
def Obligations.SystemForms : Prop :=
  (∀ i g srcs a, sysRow i = some (g, srcs, a) → ∀ s : State, s.arg = .none → s.cur.guard g = true → s.sysOf s.curUnit = false →
    exec i s = .next (s.exactFault { code := 12 })) ∧
  ((∀ i g srcs a ks, sysRow i = some (g, srcs, a) → sysKinds i = some ks → ∀ (s : State) v w t, s.arg = .none →
    s.sysOf s.curUnit = true → s.Ready g srcs [a] true [v, w] t → sysOperandOk i w →
    (∀ u q, t.sysUnit v ks = some u → t.sysSend i a [u] v w 0 0 = .ok q → exec i s = .next q) ∧
    (t.sysUnit v ks = none → exec i s = .next ((t.writeDst a 3).advance))) ∧
  (∀ g a b c vi slot (s : State) v w t q, s.arg = .none → s.sysOf s.curUnit = true → s.Ready g [b, c] [a] true [v, w] t →
    (t.sysSend (.wakeResume g a b c vi slot) a [sliceUnit (t.homeOf t.curUnit ⟨false, vi⟩ v)] v w 0 0 = .ok q →
      exec (.wakeResume g a b c vi slot) s = .next q) ∧
    (t.sysSend (.wakeFail g a b c vi slot) a [sliceUnit (t.homeOf t.curUnit ⟨false, vi⟩ v)] v w 0 0 = .ok q →
      exec (.wakeFail g a b c vi slot) s = .next q) ∧
    (∀ ts, t.cellTargets v = some ts → t.sysSend (.wakeCell g a b c vi slot) a ts v w 0 0 = .ok q →
      exec (.wakeCell g a b c vi slot) s = .next q)) ∧
  (∀ g a c vi dies (s : State) v t q, s.arg = .none → s.sysOf s.curUnit = true → s.Ready g [c] [a] true [v] t →
    t.sysDies dies = true →
    ((t.beginStop t.curWho vi dies v.toNat (t.stopTargets t.curUnit vi dies)).sysSend (.stopatStop g a c vi dies) a
      (t.stopTargets t.curUnit vi dies) 0 v 0 0 = .ok q → exec (.stopatStop g a c vi dies) s = .next q) ∧
    (((bitsBelow 4 dies.toNat).foldl (fun (s : State) d => s.schedule (max (s.cycle + 1) v.toNat) 0 (.stopatGo g a c vi dies) (.vi d vi))
      t).sysSend (.stopatGo g a c vi dies) a (t.stopTargets t.curUnit vi dies) 0 v 0 0 = .ok q →
      exec (.stopatGo g a c vi dies) s = .next q)) ∧
  (∀ g a b c op vi dies (s : State) v w t q, s.arg = .none → s.sysOf s.curUnit = true → s.Ready g [b, c] [a] true [v, w] t →
    t.sysDies dies = true →
    (t.sysSend (.tinv g a b c op true vi dies) a
      ((bitsBelow 4 dies.toNat).flatMap fun d => (List.range 64).map fun k => sliceUnit (64 * d + k)) v w 0 0 = .ok q →
      exec (.tinv g a b c op true vi dies) s = .next q) ∧
    (v.toNat ≤ 256 → ¬(v = 256 ∧ w.toNat % 4 = 3) → t.sysSend (.imap g a b c dies) a [t.curUnit] v w 0 0 = .ok q →
      exec (.imap g a b c dies) s = .next q)) ∧
  (∀ g a b (s : State) v t q, s.arg = .none → s.sysOf s.curUnit = true → s.Ready g [b] [a] true [v] t → v.toNat % 8192 = 0 →
    t.sysSend (.pgver g a b) a [sliceUnit (64 * (dieOfPa v.toNat % 4))] v 0 0 0 = .ok q → exec (.pgver g a b) s = .next q) ∧
  (∀ g a b c d vi (s : State) v w x y t q, s.arg = .none → s.sysOf s.curUnit = true →
    s.Ready g [b, c, d, a] [a] true [v, w, x, y] t →
    t.sysSend (.pgswap g a b c d vi) a [sliceUnit (t.homeOf t.curUnit ⟨false, vi⟩ v)] v w x y = .ok q →
      exec (.pgswap g a b c d vi) s = .next q)) ∧
  (∀ (t : State) i a ts b c d v,
    (ts ≠ [] → ∃ q, t.sysSend i a ts b c d v = .ok q ∧ q.cur.run = .wait .reply ∧ q.cur.replyDest = a ∧ q.cur.pc = t.cur.pc ∧
      q.cur.regs = t.cur.regs ∧ q.curCore.sysRuns = t.curCore.sysRuns ++ [⟨t.nextSeq, ts.length, 0⟩] ∧ t.SameMemory q) ∧
    (ts = [] → t.sysSend i a ts b c d v = .ok ((t.writeDst a 0).advance))) ∧
  ((∀ i g srcs a, sysRow i = some (g, srcs, a) → ∀ (s : State) m r q, s.arg = .sys m → m.ans = some r →
    (s.core m.who.unit).sysRuns.find? (fun x => x.tid == m.tid) = some q →
    (s.slot m.who.unit m.who.slot).work ≠ .none → (s.slot m.who.unit m.who.slot).sgen = m.who.sgen →
    (∀ k, q.left ≤ 1 → (s.slot m.who.unit m.who.slot).trip = .out .reply → (s.slot m.who.unit m.who.slot).run = .wait k →
      exec i s = .next ((s.modCore m.who.unit fun c => { c with sysRuns := c.sysRuns.filter fun x => x.tid ≠ m.tid }).modSlot
        m.who.unit m.who.slot fun x => { x with trip := .done (q.acc + r) none, run := .ready, readyAt := s.cycle + 1, aging := 0 })) ∧
    (1 < q.left → ∃ t, exec i s = .next t ∧ (t.slot m.who.unit m.who.slot) = s.slot m.who.unit m.who.slot ∧
      (t.core m.who.unit).sysRuns = (s.core m.who.unit).sysRuns.map fun x =>
        if x.tid = m.tid then { x with left := x.left - 1, acc := q.acc + r } else x)) ∧
  (∀ i g srcs a, sysRow i = some (g, srcs, a) → ∀ (s : State) m e es, s.arg = .sys m → m.ans = none → unitKind m.unit ≠ 1 →
    (s.core m.unit).sysQueue = e :: es → e ≠ ⟨i, .sys m⟩ →
    exec i s = .next (s.modCore m.unit fun c => { c with sysQueue := c.sysQueue ++ [⟨i, .sys m⟩] })))

/-- R402, R403, R405. -/
def Obligations.ContextFormsAtTargets : Prop :=
  ∀ (s : State) m, s.arg = .sys m → m.ans = none → m.who.slot ≠ 64 → (s.core m.unit).sysQueue = [] → ∀ g a b c (vi : BitVec 6) (slot : BitVec 6) (dies : BitVec 4),
    (∀ h, (s.slice (unitIdent m.unit)).heldAt ⟨false, vi⟩ (chunkOf m.b) = some h → h.notice = true →
      exec (.wakeResume g a b c vi slot) s = .next (State.answered
        ((s.endNotices h).releaseChunk (unitIdent m.unit) ⟨false, vi⟩ (chunkOf m.b)) (.wakeResume g a b c vi slot) m 0) ∧
      (m.c.toNat % 16 = 1 ∨ m.c.toNat % 16 = 2 → ∃ q, q = (s.endNotices h).modSlice (unitIdent m.unit) (fun x =>
          { x with held := x.held.filter fun y => y ≠ h }) ∧
        exec (.wakeFail g a b c vi slot) s = .next (State.answered
          (h.reqs.foldl (fun s e => s.failEv e (m.c.toNat % 16)) q) (.wakeFail g a b c vi slot) m 0))) ∧
    (exec (.wakeCell g a b c vi slot) s = .next (State.answered
      (((s.core m.unit).out.filter fun o => o.parked && !o.accepted && !o.failed && match o.kind with
        | .access x => x.kind == .ldv && x.addr == m.c
        | _ => false).foldl (fun (s : State) o => s.resendLdv m.unit o.tid) s) (.wakeCell g a b c vi slot) m 0)) ∧
    ((s.slot m.unit slot.toNat).holds.contains .save = true → exec (.wakeGo g a b c vi slot) s = .next (State.answered
      ((s.setSlot m.unit slot.toNat { s.slot m.unit slot.toNat with
        holds := (s.slot m.unit slot.toNat).holds.erase .save, readyAt := s.cycle + 1 }).resumeEnding m.unit slot.toNat)
        (.wakeGo g a b c vi slot) m 0)) ∧
    ((s.core m.unit).stopped = false → (s.slot m.unit slot.toNat).work ≠ .none → (s.slot m.unit slot.toNat).saveHeld = false →
      exec (.slotsv g a b c false slot) s = .next (((s.setSlot m.unit slot.toNat { s.slot m.unit slot.toNat with
        holds := .save :: (s.slot m.unit slot.toNat).holds, aging := 0 }).modCore m.unit fun k =>
          { k with sysQueue := ⟨.slotsv g a b c false slot, .sys { m with v := 1 }⟩ :: k.sysQueue }).schedule (s.cycle + 1) rankUnit
            (.slotsv g a b c false slot) (.sys { m with v := 1 }))) ∧
    (∀ q, (s.core m.unit).stopped = false → (s.slot m.unit slot.toNat).work ≠ .none → (s.slot m.unit slot.toNat).saveHeld = true →
      (s.core m.unit).unitsLanded slot.toNat = true →
      s.imageStore m.who.unit (s.spaceOf m.who.unit) m.c ((List.range 32).map (s.slot m.unit slot.toNat).ctxWord) = .ok q →
      exec (.slotsv g a b c false slot) s = .next (State.answered q (.slotsv g a b c false slot) m 0)) ∧
    ((s.core m.unit).stopped = false → (s.slot m.unit slot.toNat).work ≠ .none → (s.slot m.unit slot.toNat).saveHeld = true →
      (s.core m.unit).unitsLanded slot.toNat = true → m.v ≠ 1 →
      s.imageStore m.who.unit (s.spaceOf m.who.unit) m.c ((List.range 32).map (s.slot m.unit slot.toNat).ctxWord) = .error .fails →
      exec (.slotsv g a b c false slot) s = .next (State.answered s (.slotsv g a b c false slot) m 3)) ∧
    (∀ W : Nat → Word, (∀ k, k < 32 → s.imageGet m.who.unit (s.spaceOf m.who.unit) (m.c + BitVec.ofNat 64 (8 * k)) = some (W k)) →
      (s.slot m.unit slot.toNat).holds.contains .save = true → awf 0 (s.slot m.unit slot.toNat).regs = true →
      ∃ y, exec (.slotld g a b c false slot) s =
          .next (State.answered (s.setSlot m.unit slot.toNat y) (.slotld g a b c false slot) m 0) ∧
        (∀ r, 1 ≤ r → r ≤ 27 → y.reg r = W (r - 1)) ∧ y.pc = W 27 ∧ y.pred = (W 28).extractLsb' 0 8 ∧
        y.frm = (W 28).extractLsb' 8 7 ∧ y.rkey = W 30 ∧ y.evc = W 31 ∧ y.holds = (s.slot m.unit slot.toNat).holds) ∧
    (∃ q p v, exec (.stopatStop g a c vi dies) s = .next (State.answered q (.stopatStop g a c vi dies) m v) ∧
      (q.core m.unit).gstop = m.c ∧ (∀ u, u ≠ m.unit → q.core u = s.core u) ∧ q.agenda = p :: s.agenda ∧
      p.ev = ⟨.syncStop, .unitWord m.unit m.c⟩ ∧
      (unitDie m.unit ≠ 3 ∨ (s.cycle + 4096 ≤ m.c.toNat ∧ ∀ r ∈ (s.die 3).stops, r.gstop = m.c.toNat → r.cycle ≠ m.c.toNat + 8) →
        (s.cycle < m.c.toNat → v = 0 ∧ p.due = m.c.toNat) ∧ (m.c.toNat ≤ s.cycle → v = 1 ∧ p.due = s.cycle) ∧ q.dies = s.dies) ∧
      (unitDie m.unit = 3 → s.cycle < m.c.toNat → m.c.toNat < s.cycle + 4096 → v = 0 ∧ p.due = m.c.toNat + 8 ∧
        ∀ r ∈ (q.die 3).stops, r.gstop = m.c.toNat → r.cycle = m.c.toNat + 8)) ∧
    (∃ v, exec (.stopatGo g a c vi dies) s = .next (State.answered
      (s.schedule (max (s.cycle + 1) m.c.toNat) 0 (.stopatGo g a c vi dies) (.unitWord m.unit m.c)) (.stopatGo g a c vi dies) m v) ∧
      v = if m.c.toNat ≤ s.cycle then 1 else 0)

/-- R198, R406, R409 to R411 (IMAP on every copy in one step: log 19; the place and layout of a posted event: log 38; both DESIGN CHOICE). -/
def Obligations.CoreFormsAtTargets : Prop :=
  ∀ (s : State) m, s.arg = .sys m → m.ans = none → m.who.slot ≠ 64 → (s.core m.unit).sysQueue = [] → ∀ g a b c,
    ((s.core m.unit).retired = false → ((s.core m.unit).idle = true ∨ (s.core m.unit).stopped = true) →
      ∃ q, exec (.pzero g a b c) s = .next (State.answered q (.pzero g a b c) m 0) ∧ (q.core m.unit).pool = [] ∧
        (q.core m.unit).viid.toNat = m.c.toNat % 64 ∧ (q.core m.unit).sysMode = m.c.getLsbD 6 ∧ (q.core m.unit).assigned = true ∧
        (q.core m.unit).stopped = false ∧ (q.core m.unit).poolw = (s.core m.unit).poolw ∧ (q.core m.unit).journal = [] ∧
        (q.core m.unit).zeroFillUntil = s.cycle + poolSize m.unit / 2048 ∧
        (∀ i, (q.slot m.unit i).regs = [] ∧ (q.slot m.unit i).full = 0 ∧ (q.slot m.unit i).pend = 0) ∧
        ∀ u, u ≠ m.unit → q.core u = s.core u) ∧
    (∀ bob : BitVec 8, (s.core m.unit).idle = true → (s.core m.unit).stopped = false → (s.core m.unit).retired = false →
      1 ≤ m.c.toNat % 16 → m.c.toNat % 16 ≤ 4 → m.c.toNat / 16 % 32 ≤ 4 → 1 ≤ bob.toNat →
      4096 * (m.c.toNat % 16 + m.c.toNat / 16 % 32) + 256 * bob.toNat * (16 * (m.c.toNat % 16)) ≤ poolSize m.unit - 4096 →
      ∃ q, exec (.poolpart g a b c bob) s = .next (State.answered q (.poolpart g a b c bob) m 0) ∧ (q.core m.unit).pool = [] ∧
        (q.core m.unit).poolw.toNat = m.c.toNat % 512 ∧ (q.core m.unit).zeroFillUntil = s.cycle + poolSize m.unit / 2048 ∧
        (∀ i, i < 16 * (m.c.toNat % 16) → (q.slot m.unit i).fflim.toNat =
            poolSize m.unit - 4096 - 256 * bob.toNat * (16 * (m.c.toNat % 16) - 1 - i) ∧
          (q.slot m.unit i).ffrm.toNat + 256 * bob.toNat = (q.slot m.unit i).fflim.toNat ∧ (q.slot m.unit i).regs = [])) ∧
    (unitKind m.unit = 4 → exec (.selv g a b c) s = .next (State.answered
      (s.modEngine (unitIdent m.unit) fun e => { e with dies := m.c.setWidth 4 }) (.selv g a b c) m 0)) ∧
    (unitKind m.unit ≠ 4 → exec (.selv g a b c) s = .next (State.answered
      (s.modPort (unitIdent m.unit) fun p => { p with pass := m.c.getLsbD 4 }) (.selv g a b c) m 0)) ∧
    (∀ dies : BitVec 4, m.b.toNat < 256 → (∀ p ∈ s.cores, isCompute p.1 = true → dies.getLsbD (unitDie p.1) = true →
        p.2.idle = true ∨ p.2.stopped = true) →
      ∃ q, exec (.imap g a b c dies) s = .next (State.answered q (.imap g a b c dies) m 0) ∧
        (∀ id, id < 256 → dies.getLsbD (id / 64) = true → afind (q.slice id).imap m.b.toNat = some (m.c.setWidth 8)) ∧
        (∀ u x, afind s.cores u = some x → dies.getLsbD (unitDie u) = true → unitDie u < 4 →
          afind (q.core u).imap m.b.toNat = some (m.c.setWidth 8)) ∧ q.mem = s.mem) ∧
    (∀ vi gen k, isService m.unit = false → k < 64 → (s.core m.unit).posts.contains k = false →
      (∀ j, j < k → (s.core m.unit).posts.contains j = true) →
      exec (.evpost g a b c vi gen true) s = .next (State.answered
        ((s.modCore m.unit fun x => { x.setPoolWord (poolSize m.unit - 3072 + 16 * k) (BitVec.ofNat 64 (3 * 2 ^ 60 + m.c.toNat % 2 ^ 60)) with
          posts := x.posts ++ [k] }).giveEvents m.unit)
        (.evpost g a b c vi gen true) m 0)) ∧
    (∀ slice, unitKind m.unit = 0 → exec (.haltRetire g a b c slice) s =
      .next (State.answered (s.retireCore m.unit) (.haltRetire g a b c slice) m 0)) ∧
    (∀ slice, unitKind m.unit = 1 → ∃ q, exec (.haltRetire g a b c slice) s =
        .next (State.answered q (.haltRetire g a b c slice) m 0) ∧ (q.slice (unitIdent m.unit)).retired = true ∧
      (q.slice (unitIdent m.unit)).replicas = []) ∧
    (∀ slice, s.dieBusy (unitDie m.unit) = false → unitKind m.unit = 0 → 256 ≤ m.c.toNat → m.c.toNat ≤ 263 →
      ∃ q, exec (.haltRemap g a b c slice) s = .next (State.answered q (.haltRemap g a b c slice) m 0) ∧
        afind (q.die (unitDie m.unit)).seats (m.unit % 1024) = some m.c.toNat ∧ (q.core m.unit).retired = false ∧
        (q.core m.unit).pool = []) ∧
    (∀ slice, s.dieBusy (unitDie m.unit) = false → unitKind m.unit = 1 → 64 ≤ m.c.toNat → m.c.toNat ≤ 67 →
      ∃ q, exec (.haltRemap g a b c slice) s = .next (State.answered q (.haltRemap g a b c slice) m 0) ∧
        afind (q.die (unitDie m.unit)).sliceMap (unitIdent m.unit % 64) = some m.c.toNat ∧
        (q.slice (unitIdent m.unit)).retired = false)

/-- R261, R407, R408. -/
def Obligations.TranslationFormsAtTargets : Prop :=
  ∀ (s : State) m, s.arg = .sys m → m.ans = none → m.who.slot ≠ 64 → (s.core m.unit).sysQueue = [] → ∀ g a b c d (vi : BitVec 6) all dies,
    (∀ op : BitVec 2, op ≠ 3 → exec (.tinv g a b c op all vi dies) s = .next (State.answered
      (s.modSlice (unitIdent m.unit) fun x => { x with tcache := x.tcache.filter fun e => !(
        op = 0 || (op = 1 && !e.svs && e.viid == vi) ||
        (op = 2 && !e.svs && e.viid == vi && e.vpage == m.c.toNat / 2 ^ pageBits e.psize.toNat % 2 ^ (53 - pageBits e.psize.toNat))) })
      (.tinv g a b c op all vi dies) m 0)) ∧
    (∃ q n, 13 ≤ n ∧ exec (.tinv g a b c 3 all vi dies) s = .next (State.answered q (.tinv g a b c 3 all vi dies) m 0) ∧
      (∀ e ∈ (q.slice (unitIdent m.unit)).tcache, e.maps vi m.c = false) ∧
      (∀ e ∈ (s.slice (unitIdent m.unit)).tcache, e.maps vi m.c = true → pageBits e.psize.toNat ≤ n) ∧
      ∀ inPage : Bool → BitVec 6 → Nat → Bool,
        (∀ svs v line, inPage svs v line = true ↔ svs = false ∧ v = vi ∧ line * 128 / 2 ^ n = m.c.toNat / 2 ^ n) →
      (q.slice (unitIdent m.unit)).replicas =
        (s.slice (unitIdent m.unit)).replicas.filter (fun l => !inPage l.svs l.viid l.line) ∧
      (q.slice (unitIdent m.unit)).lines = (s.slice (unitIdent m.unit)).lines.filter (fun l => !inPage l.svs l.viid l.line) ∧
      q.mem = (((s.slice (unitIdent m.unit)).lines.filter fun l => inPage l.svs l.viid l.line && l.dirty).foldl
        (fun s l => s.writeBack l) s).mem ∧
      ∀ w ∈ (q.slice (unitIdent m.unit)).windows, inPage w.svs w.viid w.line = true →
        (s.slice (unitIdent m.unit)).lineAt ⟨w.svs, w.viid⟩ w.line = none) ∧
    (m.b.toNat < hbmSize → exec (.pgver g a b) s = .next (State.answered s (.pgver g a b) m (s.version m.b.toNat))) ∧
    (∀ at_ old frame, at_ = m.c.toNat → at_ < hbmSize → at_ % 8 = 0 → old = s.physWord at_ → old.getLsbD 0 = true →
      frame = old.toNat / 2 ^ 13 % 2 ^ 35 * 8192 →
      (∀ e pa, s.walkFrom ⟨false, vi⟩ m.b 3 (s.rootOf (unitIdent m.unit) ⟨false, vi⟩) = .ok pa e → e.leafAt = at_ → e.psize = 0) →
      (frame < hbmSize → s.version frame = m.v → ∃ q, exec (.pgswap g a b c d vi) s =
          .next (State.answered q (.pgswap g a b c d vi) m 0) ∧ q.mem = (s.setPhysWord at_ (setFld m.d 4 1 (fld old 4 4))).mem ∧
        ∀ e ∈ (q.slice (unitIdent m.unit)).tcache, e.maps vi m.b = false) ∧
      (frame < hbmSize → s.version frame ≠ m.v → exec (.pgswap g a b c d vi) s =
        .next (State.answered s (.pgswap g a b c d vi) m 2))) ∧
    (∀ at_, at_ = m.c.toNat → at_ < hbmSize → at_ % 8 = 0 → (s.physWord at_).getLsbD 0 = false →
      exec (.pgswap g a b c d vi) s = .next (State.answered s (.pgswap g a b c d vi) m 1)) ∧
    (∀ pa e, m.c.toNat < hbmSize → m.c.toNat % 8 = 0 → (s.physWord m.c.toNat).getLsbD 0 = true →
      s.walkFrom ⟨false, vi⟩ m.b 3 (s.rootOf (unitIdent m.unit) ⟨false, vi⟩) = .ok pa e → e.leafAt = m.c.toNat → e.psize ≠ 0 →
      exec (.pgswap g a b c d vi) s = .next (State.answered s (.pgswap g a b c d vi) m 4))

/-- R45, R136, R152, R200, R393, R394: taking an exception, and TRAP. -/
def Obligations.TakingAnException : Prop :=
  (∀ (s : State) u i f r b, (s.core u).freeRecordNo = some r → (s.handlerInfo u i).body = some b → awf 0 (s.core u).pool = true →
    (s.core u).rfEnd ≤ poolSize u - 4096 → ∀ t, t = s.takeFault u i f →
    t.slot u i = { s.slot u i with holds := (s.slot u i).holds ++ [.fault r { f with stamp := s.nextSeq }], aging := 0 } ∧
    (∀ j, j ≠ i → t.slot u j = s.slot u j) ∧ (∀ v, v ≠ u → t.core v = s.core v) ∧
    (∀ k, k < 16 → (t.core u).recUsed.getLsbD k = ((s.core u).recUsed.getLsbD k || k == r)) ∧
    (t.core u).hq = (s.core u).hq ++ [⟨s.who u i, r, s.nextSeq, s.handlerInfo u i, b, (s.slot u i).prio, (s.slot u i).defPlace,
      (s.slot u i).work == .folded⟩] ∧
    (∀ k, k < 8 → (t.core u).poolWord (poolSize u - 4096 + 64 * r + 8 * k) = (s.faultRecord u i f).getD k 0) ∧
    (∀ o, o < poolSize u - 4096 + 64 * r ∨ poolSize u - 4096 + 64 * r + 64 ≤ o → (t.core u).poolByte o = (s.core u).poolByte o) ∧
    s.SameMemory t) ∧
  (∀ (s : State) u i f, (s.core u).freeRecordNo = none →
    s.takeFault u i f = s.modSlot u i fun x => { x with holds := x.holds ++ [.noRecord f], aging := 0 }) ∧
  (∀ (s : State) u i f r, (s.core u).freeRecordNo = some r → (s.handlerInfo u i).body = none → (s.core u).rfEnd ≤ poolSize u - 4096 →
    s.takeFault u i f = (s.modCore u fun c => c.poolWrite (poolSize u - 4096 + 64 * r)
      ((s.faultRecord u i f).flatMap fun w => bytesOf 8 w.toNat)).killFaulted u i f) ∧
  (∀ (s : State) u r, (s.core u).freeRecordNo = some r → r < 16 ∧ (s.core u).recUsed.getLsbD r = false ∧
    ∀ k, k < r → (s.core u).recUsed.getLsbD k = true) ∧
  (∀ g b code s x t, s.Ready g [b] [] false [x] t →
    exec (.trap g b code) s = .next (s.takeFault s.curUnit s.curSlot { code := 17, ucode := code, val := x }))

/-- R138, R139, R153. -/
def Obligations.ReturnFromException : Prop :=
  (∀ g b s h (t : State), s.Ready g [b] [] false [h] t → fld h 63 41 = 0 → h.getLsbD 33 = true → fld h 16 12 = 0 →
    handleUnit h = t.curUnit → (h.getLsbD 40 = true → fld h 11 5 = 0) → t.inPart (unitDie t.curUnit) t.curUnit = true →
    t.cur.work ≠ .none → ∀ i, i = fld h 39 34 →
    ((t.slot t.curUnit i).seat (BitVec.ofNat 15 (fld h 31 17)) = .gone → exec (.frsmRetry g b) s = .next (s.exactFault { code := 7, addr := h }) ∧
      exec (.frsmSkip g b) s = .next (s.exactFault { code := 7, addr := h }) ∧
      exec (.frsmKill g b) s = .next (s.exactFault { code := 7, addr := h })) ∧
    ((t.slot t.curUnit i).seat (BitVec.ofNat 15 (fld h 31 17)) = .occupant →
      ((t.slot t.curUnit i).heldFault = none → exec (.frsmRetry g b) s = .next (s.exactFault { code := 8, sub := 10 })) ∧
      ∀ r f, (t.slot t.curUnit i).heldFault = some (r, f) →
        exec (.frsmRetry g b) s = .next (t.goesOn (t.resumeHeld t.curUnit i r f false) 0 0) ∧
        exec (.frsmSkip g b) s = .next (t.goesOn (t.resumeHeld t.curUnit i r f true) 0 0) ∧
        exec (.frsmKill g b) s = .next (t.goesOn (t.frsmKill t.curUnit i) 0 0))) ∧
  (∀ (s : State) u i r f skip, f.code ≠ 14 → f.code ≠ 18 → f.code ≠ 32 → f.code ≠ 33 → (s.slot u i).holds = [.fault r f] →
    (s.slot u i).ending = none → r < 16 → ∀ t, t = s.resumeHeld u i r f skip →
    (t.slot u i).holds = [] ∧ (t.slot u i).pc = (if skip then (s.slot u i).nextPc else (s.slot u i).pc) ∧
    (t.slot u i).readyAt = s.cycle + 1 ∧ (t.slot u i).aging = 0 ∧ (t.slot u i).regs = (s.slot u i).regs ∧
    (t.slot u i).full = (s.slot u i).full ∧ (t.slot u i).pred = (s.slot u i).pred ∧ (t.slot u i).frm = (s.slot u i).frm ∧
    (t.slot u i).run = .ready ∧ (t.slot u i).work = (s.slot u i).work ∧
    (t.core u).recUsed.getLsbD r = false ∧ (∀ k, k ≠ r → (t.core u).recUsed.getLsbD k = (s.core u).recUsed.getLsbD k) ∧
    (∀ j, j ≠ i → t.slot u j = s.slot u j) ∧ (t.core u).pool = (s.core u).pool ∧ s.SameMemory t)

/-- R198, R324, R335 to R339, R384, R391, R396, R404, R405, R411, R413, R414, R446 (a trip loses what the HBM holds: log 18; the agent repairs: log 29; the event area's places: log 38; all DESIGN CHOICE). -/
def Obligations.HardwareSteps : Prop :=
  (∀ (s : State) t id q, s.arg = .token t id → q = aget [] s.tokens t →
    (q = [] → exec .multicastTokenGrant s = .next (State.grantToken { s with tokens := aset [] s.tokens t [id] } t id)) ∧
    (q ≠ [] → exec .multicastTokenGrant s = .next { s with tokens := aset [] s.tokens t (q ++ [id]) }) ∧
    (q = [id] → exec .multicastTokenRelease s = .next { s with tokens := aset [] s.tokens t [] }) ∧
    (∀ n ns, q = id :: n :: ns → id ∉ n :: ns → exec .multicastTokenRelease s =
      .next (State.grantToken { s with tokens := aset [] s.tokens t (n :: ns) } t n))) ∧
  (∀ (s : State) id r, s.mcasts.find? (fun x => x.id == id) = some r →
    (∀ t, s.grantToken t id = s.send 6 rankUnit (arbiter t) r.mc.src ⟨true, 0⟩ true 0 ⟨.multicastTokenGrant, .granted id⟩ none) ∧
    (s.arg = .granted id → (∀ t, r.left = [t] → exec .multicastTokenGrant s = .next (s.sendMulticast id r.mc)) ∧
      (∀ t n ns, r.left = t :: n :: ns → ∃ q : State, exec .multicastTokenGrant s = .next (q.askToken r.mc.src n id) ∧ q.cores = s.cores ∧
        q.tokens = s.tokens))) ∧
  (∀ (s : State) u v, s.arg = .unitWord u v →
    ((s.core u).gstop ≠ v ∨ v = 0 → exec .syncStop s = .next s) ∧
    ((s.core u).gstop = v → v ≠ 0 →
      (s.stopOf u = none → exec .syncStop s = .next (s.modCore u fun c => { c with stopped := true })) ∧
      (∀ x, s.stopOf u = some x → x.gstop = v.toNat → s.cycle < x.cycle →
        exec .syncStop s = .next (s.schedule x.cycle rankUnit .syncStop (.unitWord u v))) ∧
      (∀ x, s.stopOf u = some x → x.gstop ≠ v.toNat ∨ x.cycle ≤ s.cycle → x.kept = true → (s.core u).drained = false →
        ∃ r p, exec .syncStop s = .next r ∧ (r.core u).stopped = true ∧ (r.core u).swept = true ∧ r.agenda = p :: s.agenda ∧ p.due = s.cycle + 1 ∧
          p.ev = ⟨.syncStop, .unitWord u v⟩))) ∧
  (∀ (s : State) d k vi, s.arg = .sweep d k vi → (s.die d).stops.any (fun x => x.viid == vi && !x.kept) = false →
    ∃ r, exec .shuttleLaunch s = .next r ∧ r.agenda.length = s.agenda.length + 96 ∧
    (∀ x ∈ (r.die d).stops, x.viid = vi → x.shuttles = 96 ∧ x.launched = true) ∧ r.cores = s.cores ∧ r.mem = s.mem) ∧
  (∀ (s : State) st k vi, s.arg = .sweep st k vi → ∀ q, q = s.modDie (st / 16) (fun d =>
      { d with stops := d.stops.map fun x => if x.viid = vi then { x with shuttles := x.shuttles - 1 } else x }) →
    ((q.die (st / 16)).stops.any (fun x => x.viid == vi && x.launched && x.shuttles = 0) = false → exec .shuttleReturn s = .next q) ∧
    ((q.die (st / 16)).stops.any (fun x => x.viid == vi && x.launched && x.shuttles = 0) = true →
      exec .shuttleReturn s = .next (q.stopComplete (st / 16) vi))) ∧
  (∀ (s : State) k seq, s.arg = .way k seq →
    (s.agenda.find? (fun p => p.packet && p.seq = seq) = none → exec .stationSave s = .next s) ∧
    (∀ p v left, s.agenda.find? (fun p => p.packet && p.seq = seq) = some p → (s.waysOf p)[k]? = some (.station v, left) →
      (s.keeps v.id ⟨p.svs, p.viid⟩ = false ∨ s.drains p.ev = true →
        exec .stationSave s = .next ((s.countStation v.id p.cls (flitsOf p.ev)).watchFrom p (k + 1))) ∧
      (s.keeps v.id ⟨p.svs, p.viid⟩ = true → s.drains p.ev = false → ∃ (r : State) (sp : Option Nat), exec .stationSave s = .next r ∧
        (sp ≠ none ↔ (∃ x ∈ (s.station v.id).save, x.spilled ≠ none) ∨ 113 < (s.station v.id).savedFlits + flitsOf p.ev) ∧
        r.agenda = s.agenda.filter (fun y => y.seq ≠ seq) ∧
        (r.station v.id).save = (s.station v.id).save ++ [⟨p, left, k, v.sideIn, [v.sideOut], flitsOf p.ev, sp⟩] ∧ r.cores = s.cores ∧
        (sp = none → r.mem = s.mem))) ∧
    (∀ p n out left, s.agenda.find? (fun p => p.packet && p.seq = seq) = some p → (s.waysOf p)[k]? = some (.port n out, left) →
      (p.exempt = true ∨ (s.port n).pass = true →
        exec .stationSave s = .next ((s.countPort n out (flitsOf p.ev)).watchFrom p (k + 1))) ∧
      (p.exempt = false → (s.port n).pass = false → exec .stationSave s = .next (s.stopAtPort n p)))) ∧
  (∀ (s : State) st viid, s.arg = .reread st viid → ∀ q : State, q = s.modStation st (fun x =>
      { x with reading := x.reading.filter fun v => v ≠ viid }) →
    (s.stoppedAt (st / 16) false viid s.cycle = true → exec .stationSave s = .next q) ∧
    (s.stoppedAt (st / 16) false viid s.cycle = false → exec .stationSave s = .next (q.putBackAll st fun x => x.packet.viid == viid))) ∧
  (∀ (s : State) u, s.arg = .unit u → ∃ r, exec .zeroFillComplete s = .next r ∧ r = s.offer u ∧ r.cores = s.cores ∧ s.SameMemory r ∧
    ((s.core u).hq = [] → (s.core u).eq = [] → (s.core u).bq = [] → (s.core u).cq = [] → r = s) ∧
    (¬((s.core u).hq = [] ∧ (s.core u).eq = [] ∧ (s.core u).bq = [] ∧ (s.core u).cq = []) → ∀ i, i < (s.core u).nslots →
      (s.slot u i).work = .none → ∃ p ∈ r.agenda, p.due = s.cycle ∧ p.ev = ⟨.slotAssignment, .slot u i⟩) ∧
    (s.issues (s.core u) = true ↔ s.released = true ∧ (s.core u).halted = false ∧ (s.core u).stopped = false ∧
      (s.core u).retired = false ∧ (s.core u).zeroFillUntil ≤ s.cycle)) ∧
  (∀ (s : State) pair place second, pair < 36 → s.arg = .link pair place second → ∀ old, old = aget 0 s.bundles (pair * 64 + place) →
    (old = 0 → aget 0 s.degraded pair = 0 → ∃ q : State, q.degraded = aput s.degraded pair 1 ∧ ∃ u w,
      exec .linkBundleFailure s = .next (q.healdEvent u w) ∧ w.toNat / 2 ^ 56 = 7) ∧
    (old ||| (if second then 2 else 1) = 3 → aget 0 s.degraded pair < 2 → ∃ q u w, q = { s with
        bundles := aput s.bundles (pair * 64 + place) 3, degraded := aput s.degraded pair 2 } ∧
      exec .linkBundleFailure s = .next ((State.losePair q pair).healdEvent u w) ∧ w.toNat / 2 ^ 56 = 7) ∧
    (aget 0 s.degraded pair = 2 → ∃ r, exec .linkBundleFailure s = .next r ∧ aget 0 r.degraded pair = 2 ∧ r.agenda = s.agenda)) ∧
  (∀ (s : State) pair d u q p x, pair = 8 * d + 2 * q + p → d < 4 → q < 4 → p < 2 → unitDie u = d →
    (u < 4096 ∨ ∃ k, k < 64 ∧ u = sliceUnit (64 * d + k)) → s.locOf u = .ring d q p x →
    u ∈ ((s.losePair pair).part (s.pidOf d)).repairs) ∧
  (∀ (s : State) u q, s.arg = .memError (.pool u) → q = (s.modCore u fun c => { c with stopped := true }).healdEvent u (hkind 5 (unitField u + 1)) →
    (isCompute u = false → exec .uncorrectableError s = .next q) ∧
    (isCompute u = true → ∃ r : State, exec .uncorrectableError s = .next (r.schedule s.cycle rankUnit .timeSliceEnd (.die (q.pidOf (unitDie u)))) ∧
      (r.part (q.pidOf (unitDie u))).repairs = (q.part (q.pidOf (unitDie u))).repairs ++ [u] ∧ r.cores = q.cores)) ∧
  (∀ (s : State) id sp va l, s.arg = .memError (.slice id sp va) → (s.slice id).lineAt sp (va.toNat / 128) = some l →
    exec .uncorrectableError s = .next ((s.putLine id { l with marked := setBitN l.marked (va.toNat % 128 / 8) true }).healdEvent
      (sliceUnit id) (hkind 5 (unitField (sliceUnit id) + 2)))) ∧
  (∀ (s : State) u i, s.arg = .parity u i false → isCompute u = true ∨ isService u = true → ∀ q n, q = s.modCore u (fun c => { c with perf := bumpPerf c.perf 0x20 1 }) →
    n = (aget 0 (q.core u).perf 0x20).toNat % 2 ^ 48 →
    exec .parityReplay s = .next (if n % 1024 = 0 then q.healdEvent u (hkind 6 (unitField u + n % 2 ^ 32)) else q)) ∧
  (∀ (s : State) id i again, id < 256 → s.arg = .parity (sliceUnit id) i again → ∀ q n,
    q = s.modSlice id (fun x => { x with perf := bumpPerf x.perf 0x30 1 }) → n = (aget 0 (q.slice id).perf 0x30).toNat % 2 ^ 48 →
    exec .parityReplay s = .next (if n % 1024 = 0 then q.healdEvent (sliceUnit id) (hkind 6 (unitField (sliceUnit id) + n % 2 ^ 32)) else q)) ∧
  (∀ (s : State) u w, s.arg = .unitWord u w → unitIdent u % 8 ≠ 0 → (w.toNat / 2 ^ 56 % 16) ≠ 9 →
    ((∀ k, k < 64 → (s.core u).posts.contains k = true) → exec .healdEventRetry s =
      .next (s.schedule (s.cycle + 256) rankUnit .healdEventRetry (.unitWord u w))) ∧
    (∀ k, k < 64 → (s.core u).posts.contains k = false → (∀ j, j < k → (s.core u).posts.contains j = true) →
      exec .healdEventRetry s = .next ((s.modCore u fun c =>
        { c.setPoolWord (poolSize u - 3072 + 16 * k) (setFld w 60 4 3) with posts := c.posts ++ [k] }).giveEvents u))) ∧
  (∀ (s : State) d x, s.arg = .power d x → ∃ r, exec .throttleUpdate s = .next r ∧ (r.die d).throttle.toNat =
    (if x.powerHigh || x.hot then min 7 ((s.die d).throttle.toNat + 1)
     else if x.powerLow && x.cool then (s.die d).throttle.toNat - 1 else (s.die d).throttle.toNat) ∧
    (r.die d).power = (s.die d).power ∧ r.cores = s.cores ∧ r.mem = s.mem) ∧
  (∀ (s : State) d, s.arg = .die d → ∃ r, exec .thermalTrip s = .next r ∧ (r.die d).power = .tripped ∧
    (∀ p ∈ r.cores, unitDie p.1 ≠ d) ∧ (∀ p ∈ s.cores, unitDie p.1 ≠ d → p ∈ r.cores) ∧
    (∀ p ∈ r.parts, p.1 ≠ d) ∧ (∀ p ∈ s.parts, p.1 ≠ d → p ∈ r.parts) ∧
    (∀ c ∈ r.mem, c.1 / 2 ^ 38 ≠ d) ∧ ∀ c ∈ s.mem, c.1 / 2 ^ 38 ≠ d → c ∈ r.mem) ∧
  (∀ s : State, ∃ r, exec .gcycAdvance s = .next r ∧ r.cycle = s.cycle + 1 ∧ r.cursor = 0 ∧ s.SameMemory r ∧
    (s.released = false → r = { s with cycle := s.cycle + 1, cursor := 0 }) ∧
    ∀ u i, (s.core u).stopped = false → (r.slot u i).evage = (if (s.slot u i).evc = 0 ∨ (s.slot u i).evage = 0xFFFFFFFF ∨ s.released = false
      then (s.slot u i).evage else (s.slot u i).evage + 1))

/-- R447 to R452 (registers and memory at reset: log 2, 3, 4, DESIGN CHOICE). -/
def Obligations.ResetAndBoot : Prop :=
  (State.reset.cycle = 0 ∧ State.reset.released = false ∧ State.reset.pick = none ∧
  (∀ pa, State.reset.physByte pa = 0 ∧ State.reset.physTag pa = 0) ∧
  (∀ d, (State.reset.die d).power = .off) ∧ (∀ u, (State.reset.core u).halted = true) ∧
  (∀ u i, (State.reset.slot u i).work = .none ∧ ∀ r, (State.reset.slot u i).reg r = 0) ∧
  State.reset.MemoryCanonical ∧ State.reset.CoresCanonical ∧
  ∃ p, State.reset.due = some p ∧ p.ev = ⟨.powerOn, .die 0⟩ ∧ step State.reset = exec .powerOn (State.reset.take p)) ∧
  ((∀ (s : State) d, s.arg = .die d → (s.die d).power ≠ .off → exec .powerOn s = .next s) ∧
  (∀ (s : State) d img, s.arg = .die d → (s.die d).power = .off → d ≠ 0 → Config.hbmTrains d = true → chosenImage d = some img →
    ∃ r p, exec .powerOn s = .next r ∧ (r.die d).power = .rom ∧ r.agenda = p :: s.agenda ∧ p.ev = ⟨.computeDieRelease, .die d⟩ ∧
      p.due ≤ s.cycle + 1000000000 ∧ (r.die d).m0 = extendM (s.die d).m0 (imageSigned img)) ∧
  (∀ (s : State) d, s.arg = .die d → (s.die d).power = .off → d ≠ 0 → chosenImage d = none →
    ∃ r, exec .powerOn s = .next r ∧ (r.die d).power = .halted ∧ r.agenda = s.agenda) ∧
  (∀ (s : State) d, s.arg = .die d → (s.die d).power = .rom →
    exec .computeDieRelease s = .next (s.modDie d fun x => { x with power := .ready })) ∧
  (∀ s : State, s.arg = .none → s.released = true → exec .computeDieRelease s = .next s) ∧
  (∀ s : State, s.arg = .none → s.released = false → ∃ r, exec .computeDieRelease s = .next r ∧ r.released = true ∧ r.cycle = 0 ∧
    ∀ d, d < 4 → (r.die d).power = if (s.die d).power = .ready then .running else (s.die d).power) ∧
  (∀ (s : State) pid n, s.arg = .part pid n → exec .computeDieRelease s = .next (s.prepare pid)))

/-- R65, R302, R421, R424, R426 to R428, R430 to R437, R448, R450, R451 (the order of the checks, DEFINE keeping the generation, and the statuses of host offsets: log 15, DESIGN CHOICE). -/
def Obligations.RequestsAtHeald : Prop :=
  (∀ rows : List (Instr × List HostVia), rows = [(.launch, [.queue]), (.copyin, [.queue]), (.copyout, [.queue]), (.storage, [.queue]),
      (.define, [.operator]), (.weight, [.operator]), (.reset, [.operator]), (.undefine, [.operator]), (.hostreg, [.operator]),
      (.store, [.operator]), (.group, [.operator]), (.merge, [.operator]), (.attest, [.queue, .operator])] →
  (∀ (s : State) q, s.arg = .host q → s.heardBy q.pid = none → exec .notsupRequest s = .next s ∧
    ∀ i from_, (i, from_) ∈ rows → (i = .attest → (s.die q.pid).power ≠ .halted) → exec i s = .next s) ∧
  (∀ (s : State) q pid r v, s.arg = .host q → s.heardBy q.pid = some pid → r = { q with pid := pid } → v = reqVi r →
    (s.healdHolds pid (r.via == .queue) = true →
      exec .notsupRequest s = .next (s.modPart pid fun p => { p with heldReqs := p.heldReqs ++ [⟨.notsupRequest, .host r⟩] }) ∧
      ∀ i from_, (i, from_) ∈ rows →
        exec i s = .next (s.modPart pid fun p => { p with heldReqs := p.heldReqs ++ [⟨i, .host r⟩] })) ∧
    (s.healdHolds pid (r.via == .queue) = false →
      (entryInstr r = .notsupRequest → exec .notsupRequest s = .next (s.finishReq r 0x17)) ∧
      (∀ i from_, (i, from_) ∈ rows → entryInstr r = i →
        ((from_.contains r.via = false ∨ BitVec.ofNat 6 (fld (reqWord r 0) 53 48) ≠ v) → exec i s = .next (s.finishReq r 0x10)) ∧
        (from_.contains r.via = true → BitVec.ofNat 6 (fld (reqWord r 0) 53 48) = v →
          (i = .merge → fld (reqWord r 0) 47 32 ≠ s.guestGen pid v → exec i s = .next (s.finishReq r 0x16)) ∧
          (i ≠ .define → i ≠ .merge →
            (s.viDefined pid v = false → exec i s = .next (s.finishReq r 0x10)) ∧
            (s.viDefined pid v = true → s.viEntryOk pid v = true → r.via ≠ .operator → s.vst pid v = 3 →
              exec i s = .next (s.finishReq r 0x12)) ∧
            (s.viDefined pid v = true → s.viEntryOk pid v = true → (r.via = .operator ∨ s.vst pid v ≠ 3) →
              fld (reqWord r 0) 47 32 ≠ s.guestGen pid v → exec i s = .next (s.finishReq r 0x16)))))))) ∧
  ((∀ (s : State) r, s.Serves .launch r [.queue] →
    (s.launchSpec r = none → exec .launch s = .next ((s.launchData r).2.finishReq r 0x10)) ∧
    (∀ x ws q, s.launchSpec r = some x → s.launchData r = (some ws, q) → exec .launch s = .next (q.admitVi r.pid (reqVi r)))) ∧
  (∀ (s : State) r va n off, s.Serves .copyin r [.queue] → va = (reqWord r 2).toNat → n = (reqWord r 4).toNat → off = (reqWord r 3).toNat →
    reqWord r 5 = 0xFFFFFFFFFFFFFFFF →
    (2 ^ 40 ≤ n → exec .copyin s = .next (s.finishReq r 0x10)) ∧
    (n < 2 ^ 40 → s.hostAt r.pid (reqVi r) off n = none → exec .copyin s = .next (s.finishReq r 0x11)) ∧
    (∀ a q, n < 2 ^ 40 → s.hostAt r.pid (reqVi r) off n = some a → va + n ≤ 2 ^ 53 →
      s.viStore r.pid (reqVi r) ((pieces va n).map fun p => ⟨p.1, p.2, ofBytes (hostRead s.hostMem (a + (p.1 - va)) p.2), 0⟩) = (.done, q) →
      exec .copyin s = .next (q.finishReq r 0))) ∧
  (∀ (s : State) r va n off, s.Serves .copyout r [.queue] → va = (reqWord r 2).toNat → n = (reqWord r 4).toNat → off = (reqWord r 3).toNat →
    reqWord r 5 = 0xFFFFFFFFFFFFFFFF → n < 2 ^ 40 →
    (s.hostAt r.pid (reqVi r) off n = none → exec .copyout s = .next (s.finishReq r 0x11)) ∧
    (∀ a ws q, s.hostAt r.pid (reqVi r) off n = some a → va + n ≤ 2 ^ 53 → s.viLoad r.pid (reqVi r) (pieces va n) = (some ws, q) →
      exec .copyout s = .next (State.finishReq { q with hostMem := (hostWrite q.hostMem a
        ((ws.zip (pieces va n)).flatMap fun w => bytesOf w.2.2 w.1.1)) } r 0))) ∧
  (∀ (s : State) r f, s.byRoutine r f =
    match if r.via = .operator then Config.serviceRoutine r.pid (reqType r) else none with
    | some (svc, g, sh, l, body, regs) => s.startService r (svc % 32) g sh l body regs
    | none => f s) ∧
  (∀ (s : State) r svc g sh l body regs, ∀ later : State → State,
    (∀ t : State, later t = t.schedule (t.cycle + 1024) rankUnit (entryInstr r) (.host r)) →
    ((s.part r.pid).reassign.contains svc = true → s.startService r svc g sh l body regs = later s) ∧
    ((s.part r.pid).reassign.contains svc = false → ∀ x : FamSpec,
      x = { start := 0, limit := 1, args := { step := 1, blk := 1, g := g, s := sh, l := l, prio := 0, chain := false, unb := false },
            cls := 0, base := svcUnit svc, count := 1, creator := ⟨healdUnit r.pid, 64, 0⟩, sys := true, defPlace := 0x2000000, root := true } →
      (∀ t, s.attempt (healdUnit r.pid) x = (none, t) → s.startService r svc g sh l body regs = later t) ∧
      (∀ f t q, s.attempt (healdUnit r.pid) x = (some f, t) → q = t.loadService r.pid (reqType r) →
        s.startService r svc g sh l body regs =
          (({ q with nextSeq := q.nextSeq + 1 } : State).modPart r.pid fun p =>
            { p with merge := .routine r svc f.entry q.nextSeq false false }).startLaunch f regs body ⟨r.pid, 0, regs.getD 0 0, true⟩))) ∧
  (∀ (s : State) r (W : Nat → Word), s.Serves .define r [.operator] → (∀ k, W k = reqWord r k) →
    ((fld (W 2) 7 0 ≠ 1 ∨ s.viDefined r.pid (reqVi r) = true) → exec .define s = .next (s.byRoutine r fun _ => s.finishReq r 0x10)) ∧
    (fld (W 2) 7 0 = 1 → s.viDefined r.pid (reqVi r) = false → (W 3).toNat % 8192 = 0 → (W 3).toNat < 2 ^ 48 → fld (W 4) 15 8 ≤ 128 →
      fld (W 4) 39 32 ≤ 64 → 3 ≤ fld (W 4) 20 16 → fld (W 4) 20 16 ≤ 20 → 3 ≤ fld (W 4) 28 24 → fld (W 4) 28 24 ≤ 16 →
      (W 5).toNat % 8 = 0 → (W 5).toNat < 2 ^ 48 → (W 6).toNat % 64 = 0 → (W 6).toNat < 2 ^ 48 →
      (s.quotaOk r.pid (reqVi r) (fld (W 4) 15 8) (fld (W 4) 39 32) = false →
        exec .define s = .next (s.byRoutine r fun _ => s.finishReq r 0x14)) ∧
      (s.quotaOk r.pid (reqVi r) (fld (W 4) 15 8) (fld (W 4) 39 32) = true → exec .define s = .next (s.byRoutine r fun _ => State.finishReq
        ((List.range 16).foldl (fun s k => s.setVi r.pid (reqVi r) k (List.getD
          [BitVec.ofNat 64 (2 ^ 63 + fld (W 4) 7 0 * 2 ^ 48 + fld (W 4) 15 8 * 2 ^ 40 + fld (W 4) 39 32 * 2 ^ 16 + s.guestGen r.pid (reqVi r)),
           W 3, 0, 0, BitVec.ofNat 64 (fld (W 4) 20 16 * 2 ^ 59 + (W 5).toNat), 0,
           BitVec.ofNat 64 (fld (W 4) 28 24 * 2 ^ 59 + (W 6).toNat)] k 0)) s) r 0)))) ∧
  (∀ (s : State) r w, s.Serves .weight r [.operator] → w = reqWord r 4 →
    ((128 < fld w 15 8 ∨ 64 < fld w 39 32) → exec .weight s = .next (s.byRoutine r fun _ => s.finishReq r 0x10)) ∧
    (fld w 15 8 ≤ 128 → fld w 39 32 ≤ 64 →
      (s.quotaOk r.pid (reqVi r) (fld w 15 8) (fld w 39 32) = false → exec .weight s = .next (s.byRoutine r fun _ => s.finishReq r 0x14)) ∧
      (s.quotaOk r.pid (reqVi r) (fld w 15 8) (fld w 39 32) = true → ∃ q : State,
        exec .weight s = .next (s.byRoutine r fun _ => (q.finishReq r 0).schedule (q.finishReq r 0).cycle rankUnit .timeSliceEnd (.die r.pid)) ∧
        q = s.setVi r.pid (reqVi r) 0 (setFld (setFld (setFld (s.vi r.pid (reqVi r) 0) 48 8 (fld w 7 0)) 40 8 (fld w 15 8)) 16 8 (fld w 39 32))))) ∧
  (∀ (s : State) i r v (mine : Bool), (i = .reset ∨ i = .undefine) → s.Serves i r [.operator] → v = reqVi r →
    mine = decide ((s.part r.pid).running = some v) →
    (s.vst r.pid v ≠ 0 → s.vst r.pid v ≠ 3 → exec i s = .next (s.byRoutine r fun _ => s.finishReq r 0x10)) ∧
    ((s.vst r.pid v = 0 ∨ s.vst r.pid v = 3) →
      (mine = true → (s.viCores r.pid v).any (·.2.occupied) = true →
        exec i s = .next (s.byRoutine r fun _ => s.schedule (s.cycle + 1024) rankUnit i (.host r))) ∧
      ((mine = false ∨ (s.viCores r.pid v).any (·.2.occupied) = false) → ∀ p : State,
        p = (if mine then s.modPart r.pid fun p => { p with running := none } else s) →
        (i = .undefine → exec i s = .next (s.byRoutine r fun _ => ((p.setViField r.pid v 0 63 1 0).forgetVi r.pid v).finishReq r 0)) ∧
        (i = .reset → ∃ q : State, exec i s = .next (s.byRoutine r fun _ => q.finishReq r 0) ∧
          (∀ x ∈ q.stations, x.1 / 16 ∈ (s.part r.pid).dies → ∀ c ∈ x.2.ctx, c.2.viid ≠ v) ∧
          (∀ x ∈ q.slices, x.1 / 64 ∈ (s.part r.pid).dies → ∀ c ∈ x.2.dir, c.2.viid ≠ v) ∧ q.cores = s.cores)))) ∧
  (∀ (s : State) r, s.Serves .hostreg r [.operator] → ∃ q : State, exec .hostreg s = .next (s.byRoutine r fun _ => q.finishReq r 0) ∧
    aget 0 (q.part r.pid).hostReg (reqVi r).toNat = reqWord r 3 ∧ aget 0 (q.part r.pid).hostLen (reqVi r).toNat = reqWord r 4 ∧
    aget 0 (q.part r.pid).hostKey (reqVi r).toNat = BitVec.ofNat 64 ((reqWord r 5).toNat % 2 ^ 32) ∧ q.mem = s.mem) ∧
  (∀ (s : State) r, s.Serves .store r [.operator] → ∃ q : State, exec .store s = .next (s.byRoutine r fun _ => q.finishReq r 0) ∧
    aget 0 (q.part r.pid).winFirst (reqVi r).toNat = reqWord r 3 ∧ aget 0 (q.part r.pid).winCount (reqVi r).toNat = reqWord r 4 ∧
    q.mem = s.mem) ∧
  (∀ (s : State) r g n, s.Serves .group r [.operator] → g = (reqWord r 3).toNat % 16 → n = (reqWord r 4).toNat →
    (15 < n → exec .group s = .next (s.byRoutine r fun _ => s.finishReq r 0x10)) ∧
    (n ≤ 15 → s.groupUsed (s.part r.pid).dies (reqVi r) g = true → exec .group s = .next (s.byRoutine r fun _ => s.finishReq r 0x13)) ∧
    (n = 0 → s.groupUsed (s.part r.pid).dies (reqVi r) g = false → ∃ q : State,
      exec .group s = .next (s.byRoutine r fun _ => q.finishReq r 0) ∧
      ∀ d ∈ (s.part r.pid).dies, aget [] (q.engine d).groups ((reqVi r).toNat * 16 + g) = []) ∧
    (1 ≤ n → n ≤ 15 → s.groupUsed (s.part r.pid).dies (reqVi r) g = false →
      (s.hostAt r.pid (reqVi r) (reqWord r 5).toNat (16 * n) = none → exec .group s = .next (s.byRoutine r fun _ => s.finishReq r 0x11)) ∧
      (∀ a, s.hostAt r.pid (reqVi r) (reqWord r 5).toNat (16 * n) = some a → ∃ q : State,
        exec .group s = .next (s.byRoutine r fun _ => q.finishReq r 0) ∧
        ∀ d ∈ (s.part r.pid).dies, aget [] (q.engine d).groups ((reqVi r).toNat * 16 + g) =
          (List.range n).map fun k => BitVec.ofNat 128 (ofBytes (hostRead s.hostMem (a + 16 * k) 16))))) ∧
  (∀ (s : State) r v, v = reqVi r → ∀ write : Nat → Nat → State, (∀ a b, write a b = { s with
      hostMem := hostWrite s.hostMem b (s.report544 r.pid (dieMask (s.partDies r.pid)) (hostRead s.hostMem a 32)),
      replies := s.replies ++ [.certificate r.pid (Config.certificate r.pid)] }) →
    (s.Serves .attest r [.queue, .operator] →
      ((reqWord r 4).toNat < 544 → exec .attest s = .next (s.byRoutine r fun _ => s.finishReq r 0x11)) ∧
      (∀ a b, 544 ≤ (reqWord r 4).toNat → s.hostAt r.pid v (reqWord r 2).toNat 32 = some a → s.hostAt r.pid v (reqWord r 3).toNat 544 = some b →
        exec .attest s = .next (s.byRoutine r fun _ => (write a b).finishReq r 0))) ∧
    (s.arg = .host r → (s.die r.pid).power = .halted → ∀ reply : State → Word → State,
      (∀ t st, reply t st = { t with replies := t.replies ++ [.reply r.pid v st (BitVec.ofNat 64 ((reqWord r 0).toNat % 2 ^ 32))] }) →
      ((reqWord r 4).toNat < 544 → exec .attest s = .next (reply s 0x11)) ∧
      (544 ≤ (reqWord r 4).toNat → exec .attest s = .next (reply (write (reqWord r 2).toNat (reqWord r 3).toNat) 0)))) ∧
  (∀ (s : State) r va lba n, s.Serves .storage r [.queue] → va = (reqWord r 2).toNat → lba = (reqWord r 3).toNat →
    n = (reqWord r 4).toNat →
    (va % 4096 ≠ 0 → exec .storage s = .next (s.finishReq r 0x10)) ∧
    (va % 4096 = 0 →
      ((aget 0 (s.part r.pid).winCount (reqVi r).toNat).toNat < lba + n ∨ aget 0 (s.part r.pid).winCount (reqVi r).toNat = 0 ∨
        2 ^ 53 < va + 4096 * n) → exec .storage s = .next (s.finishReq r 0x11)) ∧
    (va % 4096 = 0 → lba + n ≤ (aget 0 (s.part r.pid).winCount (reqVi r).toNat).toNat →
      aget 0 (s.part r.pid).winCount (reqVi r).toNat ≠ 0 → va + 4096 * n ≤ 2 ^ 53 → exec .storage s =
        .next (s.blocks r ((reqWord r 5).getLsbD 0) va ((aget 0 (s.part r.pid).winFirst (reqVi r).toNat).toNat + lba) (List.range n)))) ∧
  (∀ (s : State) r w va lba k ks, s.blocks r w va lba [] = s.finishReq r 0 ∧
    ∀ q : State, q = { s with freeCtr := s.freeCtr + 1 } → s.blocks r w va lba (k :: ks) =
      if Config.storageError s.freeCtr then q.finishReq r 0x19
      else if w then
        match q.viLoad r.pid (reqVi r) (pieces (va + 4096 * k) 4096) with
        | (none, t) => t.finishReq r 0x11
        | (some ws, t) => ({ t with nvme := aput t.nvme r.pid (hostWrite (aget [] t.nvme r.pid) ((lba + k) * 4096)
            (ws.flatMap fun x => bytesOf 8 x.1)) } : State).blocks r w va lba ks
      else
        match q.viStore r.pid (reqVi r) ((pieces (va + 4096 * k) 4096).map fun p =>
            ⟨p.1, p.2, ofBytes (hostRead (aget [] q.nvme r.pid) ((lba + k) * 4096 + (p.1 - (va + 4096 * k))) p.2), 0⟩) with
        | (.done, t) => t.blocks r w va lba ks
        | (.busy, t) => t.finishReq r 0x1A
        | (.failed, t) => t.finishReq r 0x11
        | (.full, t) => t.retryRequest .storage r))

/-- R303, R381, R421, R427, R429, R430, R433, R434, R437 (BADREQ for a VI that is not defined: log 15; residency and attempt in one step: log 17; RMA as packets: log 6; DESIGN CHOICE). -/
def Obligations.SendsAndSlices : Prop :=
  (∀ (s : State) q, s.arg = .guest q → (s.heardBy q.pid = none → exec .qsetup s = .next s ∧ exec .doorbell s = .next s) ∧
    (∀ pid g, s.heardBy q.pid = some pid → g = { q with pid := pid } →
      (s.healdHolds pid false = true →
        exec .qsetup s = .next (s.modPart pid fun p => { p with heldReqs := p.heldReqs ++ [⟨.qsetup, .guest g⟩] }) ∧
        exec .doorbell s = .next (s.modPart pid fun p => { p with heldReqs := p.heldReqs ++ [⟨.doorbell, .guest g⟩] })) ∧
      (s.healdHolds pid false = false → s.viDefined pid g.viid = false →
        exec .qsetup s = .next (s.replySend pid g.viid 0x10 0) ∧ exec .doorbell s = .next (s.replySend pid g.viid 0x10 0)))) ∧
  (∀ (s : State) g v, s.Hears g → v = g.viid →
    (s.lqwr g.pid v ≠ s.lqrd g.pid v → exec .qsetup s = .next (s.replySend g.pid v 0x13 0)) ∧
    (s.lqwr g.pid v = s.lqrd g.pid v → 6 ≤ fld g.w0 12 8 → fld g.w0 12 8 ≤ 20 → g.w1.toNat % 64 = 0 →
      g.w1.toNat + 64 * 2 ^ fld g.w0 12 8 ≤ 2 ^ 53 → s.pagesMapped g.pid v g.w1.toNat (64 * 2 ^ fld g.w0 12 8) = true →
      exec .qsetup s = .next (((s.setVi g.pid v 2 (BitVec.ofNat 64 (fld g.w0 12 8 * 2 ^ 59 + g.w1.toNat))).setVi g.pid v 3 0).replySend
        g.pid v 0 0)) ∧
    (∀ wr new size, wr = s.lqwr g.pid v → new = g.w0.toNat % 2 ^ 32 → size = 2 ^ fld (s.vi g.pid v 2) 63 59 →
      ((wr + 2 ^ 32 - new) % 2 ^ 32 ≤ size → exec .doorbell s = .next (s.replySend g.pid v 0 0)) ∧
      (size < (wr + 2 ^ 32 - new) % 2 ^ 32 → (new + 2 ^ 32 - wr) % 2 ^ 32 ≤ size → (new + 2 ^ 32 - s.lqrd g.pid v) % 2 ^ 32 ≤ size →
        ∃ q : State, exec .doorbell s = .next (q.schedule (s.setViField g.pid v 3 32 32 new).cycle rankUnit .timeSliceEnd (.die g.pid)) ∧
          q = ((s.setViField g.pid v 3 32 32 new).replySend g.pid v 0 0).serveNext g.pid v))) ∧
  (∀ (s : State) pid n, s.arg = .part pid n → ((s.part pid).sliceStamp ≠ n → exec .timeSliceEnd s = .next s) ∧
    ((s.part pid).sliceStamp = n → (s.part pid).dies ≠ [] → (s.part pid).merge = .idle → (s.part pid).running = none →
      (s.part pid).repairs = [] →
      (s.nextVi pid = none → exec .timeSliceEnd s = .next s) ∧
      (∀ v, s.nextVi pid = some v → exec .timeSliceEnd s = .next (s.beginSlice pid v)))) ∧
  (∀ (s : State) q v pid, s.arg = .vi q v → pid = s.pidOf q →
    (s.inRoutine pid = true → exec .launchAdmission s = .next (s.holdMessage pid ⟨.launchAdmission, .vi q v⟩)) ∧
    (s.inRoutine pid = false → exec .launchAdmission s = .next ((s.admitVi pid v).reschedule pid false))) ∧
  (∀ (s : State) g pid, s.arg = .guest g → pid = s.pidOf g.pid →
    (s.inRoutine pid = true → exec .launchAdmission s = .next (s.holdMessage pid ⟨.launchAdmission, .guest g⟩)) ∧
    (s.inRoutine pid = false → exec .launchAdmission s = .next (s.writeCompletion pid g.viid g.w0 g.w1))) ∧
  (∀ (s : State) r st pid, s.arg = .finish r st → pid = s.pidOf r.pid →
    (s.inRoutine pid = true → exec .launchAdmission s = .next (s.holdMessage pid ⟨.launchAdmission, .finish r st⟩)) ∧
    (s.inRoutine pid = false → exec .launchAdmission s = .next (s.finishReq { r with pid := pid } st))) ∧
  (∀ (s : State) pid v, s.arg = .vi pid v →
    (afind (s.part pid).retryAt v.toNat ≠ some s.cycle → exec .admissionRetryTimer s = .next s) ∧
    (afind (s.part pid).retryAt v.toNat = some s.cycle →
      (s.inRoutine pid = true → exec .admissionRetryTimer s = .next (s.holdMessage pid ⟨.launchAdmission, .vi pid v⟩)) ∧
      (s.inRoutine pid = false → exec .admissionRetryTimer s = .next (s.admitVi pid v)))) ∧
  (∀ (s : State) pid v r, afind (s.part pid).heads v.toNat = some r → entryInstr r = .launch → s.vst pid v ≠ 3 →
    (s.part pid).running = some v → (s.part pid).stopping = false → s.mergeStops pid = false →
    ∀ x ws q, s.launchSpec r = some x → s.launchData r = (some ws, q) → q.resident v x = true →
    (∀ f t, q.attempt (healdUnit pid) x = (some f, t) →
      s.admitVi pid v = (t.startLaunch f ws (reqWord r 2) ⟨pid, v, reqWord r 1, false⟩).entryServed pid v) ∧
    (∀ t, q.attempt (healdUnit pid) x = (none, t) → s.admitVi pid v =
      (t.modPart pid fun p => { p with retryAt := aput p.retryAt v.toNat (t.cycle + 65536) }).schedule (t.cycle + 65536) rankAssign
        .admissionRetryTimer (.vi pid v))) ∧
  (∀ (s : State) x, s.arg = .ue x → ((x.unreliable = true ∨ s.silent x.die = true) → exec .ueNotSupported s = .next s) ∧
    (x.unreliable = false → s.silent x.die = false → exec .ueNotSupported s =
      .next { s with replies := s.replies ++ [.notSupported x.ticket] })) ∧
  (∀ (s : State) r i, s.arg = .rma r → r.home = none → (i = .rmaWrite ∨ i = .rmaRead) →
    (s.silent r.die = true → exec i s = .next s) ∧
    (s.silent r.die = false →
      (2 ^ 53 < r.addr.toNat + widthBytes r.wd → exec i s = .next { s with replies := s.replies ++ [.rmaError r.ticket] }) ∧
      (∀ (P : Nat → Nat → RmaReq) k ps, (∀ off n, P off n = { r with
            addr := r.addr + BitVec.ofNat 64 off, data := r.data >>> (8 * off), n := n, off := off,
            home := some (sliceUnit (s.homeOfSlice (64 * r.die) ⟨false, r.viid⟩ (r.addr + BitVec.ofNat 64 off))) }) →
        k = 8 - r.addr.toNat % 8 →
        ps = (if widthBytes r.wd ≤ k then [P 0 (widthBytes r.wd)] else [P 0 k, P k (widthBytes r.wd - k)]) →
        r.addr.toNat + widthBytes r.wd ≤ 2 ^ 53 →
        ((∃ p ∈ ps, (s.engine r.die).dies.getLsbD (unitIdent (p.home.getD 0) / 64) = false) → ∃ q : State,
          exec i s = .next { q with replies := s.replies ++ [.rmaError r.ticket] } ∧ q.agenda = s.agenda ∧ q.cores = s.cores ∧
          q.slices = s.slices ∧ q.mem = s.mem) ∧
        ((∀ p ∈ ps, (s.engine r.die).dies.getLsbD (unitIdent (p.home.getD 0) / 64) = true) → ∀ q : State,
          q = ({ s with nextSeq := s.nextSeq + 1 } : State).modEngine r.die (fun e => { e with
            rmas := e.rmas ++ [⟨s.nextSeq, r.ticket, i == .rmaWrite, ps.length, 0, false⟩] }) →
          exec i s = .next (ps.foldl (fun t p => t.send (if i = .rmaWrite then 2 else 0) rankUnit (engineUnit r.die) (p.home.getD 0)
            ⟨false, r.viid⟩ false 0 ⟨i, .rma { p with run := s.nextSeq }⟩
            (some ⟨i, .rma { p with run := s.nextSeq, ans := some false }⟩)) q))))) ∧
  (∀ (s : State) r i u ok, s.arg = .rma r → r.home = some u → r.ans = some ok → (i = .rmaWrite ∨ i = .rmaRead) →
    ((s.engine r.die).rmas.find? (fun q => q.run == r.run) = none → exec i s = .next s) ∧
    (∀ q, (s.engine r.die).rmas.find? (fun q => q.run == r.run) = some q →
      (2 ≤ q.left → exec i s = .next (s.modEngine r.die fun e => { e with rmas := e.rmas.map fun x => if x.run = r.run then
        { q with left := q.left - 1, failed := q.failed || !ok, data := q.data ||| r.data <<< (8 * r.off) } else x })) ∧
      (q.left = 1 → ∃ t : State, t = s.modEngine r.die (fun e => { e with rmas := e.rmas.filter fun x => x.run ≠ r.run }) ∧
        exec i s = .next { t with replies := s.replies ++
          [if q.failed = true ∨ ok = false then .rmaError q.ticket else if q.write then .rmaDone q.ticket
           else .rmaData q.ticket (q.data ||| r.data <<< (8 * r.off))] }))) ∧
  (∀ (s : State) r u id off, s.arg = .rma r → r.home = some u → r.ans = none → id = unitIdent u → off = r.addr.toNat % 128 →
    (∀ pa e l t q, s.AtHome id ⟨false, r.viid⟩ r.addr .read false pa e l t q → exec .rmaRead s =
      .next (q.send 1 rankReply u (engineUnit r.die) ⟨false, r.viid⟩ false t ⟨.rmaRead, .rma (if l.marked.getLsbD (off / 8)
        then { r with ans := some false, data := 0 }
        else { r with ans := some true, data := BitVec.ofNat 64 (l.bytes off r.n) })⟩ none)) ∧
    (∀ pa e l t q, s.AtHome id ⟨false, r.viid⟩ r.addr .write false pa e l t q →
      (l.tag (off / 8) = 3 → exec .rmaWrite s = .next (q.send 3 rankReply u (engineUnit r.die) ⟨false, r.viid⟩ false t
        ⟨.rmaWrite, .rma { r with ans := some false }⟩ none)) ∧
      (l.tag (off / 8) ≠ 3 → ∀ z, q.Wrote z id ⟨false, r.viid⟩ r.addr pa e l
          ((l.put off r.n (r.data.toNat % 2 ^ (8 * r.n))).setTag (off / 8) 0) →
        exec .rmaWrite s = .next (z.send 3 rankReply u (engineUnit r.die) ⟨false, r.viid⟩ false t
          ⟨.rmaWrite, .rma { r with ans := some true, data := 0 }⟩ none))))

/-- R423, R424, R437, R439, R440 (the operator's order to split: log 45, DESIGN CHOICE). -/
def Obligations.MergeSteps : Prop :=
  (∀ (s : State) r, s.Serves .merge r [.operator] → (s.mergeOther r = none → exec .merge s = .next (s.finishReq r 0x10)) ∧
    (∀ o m, s.mergeOther r = some o → m = (s.definedMap r.pid).toNat → ∀ q : State,
      q = ({ s with nextSeq := s.nextSeq + 1 } : State).modPart r.pid (fun p =>
        { p with merge := .asked r o s.nextSeq (s.queuesBusy r.pid) }) →
      exec .merge s = .next (s.byRoutine r fun _ =>
        ((q.tellHeald r.pid (healdUnit o) 8 0 (m % 2 ^ 32)).tellHeald r.pid (healdUnit o) 8 1 (m / 2 ^ 32)).schedule (s.cycle + 10000000)
          rankUnit .mergeTimeout (.part r.pid s.nextSeq)))) ∧
  (∀ (s : State) g r svc e n a b, s.arg = .guest g → (s.part g.pid).merge = .routine r svc e n a b →
    ((s.core (svcUnit svc)).journal ≠ [] → exec .merge s = .next (s.schedule (s.cycle + 1) rankUnit .merge (.guest g))) ∧
    ((s.core (svcUnit svc)).journal = [] → ∀ st,
      st = (if fld g.w1 7 0 = 3 then 0x10 else (s.imageGet (svcUnit svc) ⟨true, 0⟩ g.w0).getD 0x10) →
      ((st ≠ 0 ∨ reqType r ≠ 7 ∨ s.mergeOther r = none) → exec .merge s = .next (s.endMerge r st)) ∧
      (∀ o, st = 0 → reqType r = 7 → s.mergeOther r = some o → exec .merge s = .next ((s.absorb g.pid o).endMerge r 0)))) ∧
  (∀ (s : State) m pid, s.arg = .merge m → pid = s.pidOf m.die →
    (∀ r o n busy, (s.part pid).merge = .asked r o n busy →
      (busy = true → exec .answer s = .next ((s.tellHeald pid (healdUnit o) 12 0 0).endMerge r 0x13)) ∧
      (busy = false → m.data.toNat % 256 ≠ 0 →
        exec .answer s = .next ((s.tellHeald pid (healdUnit o) 12 0 0).endMerge r (BitVec.ofNat 64 (m.data.toNat % 256)))) ∧
      (busy = false → m.data.toNat % 256 = 0 → exec .answer s =
        .next (((s.stopRunning pid).modPart pid fun p => { p with merge := .stopping r o false }).tellHeald pid (healdUnit o) 10 0 0))) ∧
    ((s.part pid).running = none → s.stopRunning pid = s) ∧
    (∀ r o b, (s.part pid).merge = .stopping r o b →
      (s.stopDone pid = true → exec .ready s = .next (s.joinPartitions r o)) ∧
      (s.stopDone pid = false → exec .ready s = .next ((s.modPart pid fun p => { p with merge := .stopping r o true }).schedule
        (s.cycle + 64) rankUnit .ready (.merge m)))) ∧
    ((s.part pid).merge = .idle → (∀ p ∈ s.parts, ∀ r a e st q b, p.2.merge ≠ .routine r a e st q b) →
      exec .answer s = .next s ∧ exec .ready s = .next s ∧ exec .abort s = .next s ∧
      exec .proceed s = .next s ∧ (m.data.getLsbD 32 = true → exec .quiesce s = .next s) ∧
      (m.data.getLsbD 32 = false → ∃ r, exec .quiesce s = .next r ∧
        (r.part pid).merge = .quiesced (fld m.data 51 47) (BitVec.ofNat 64 (m.data.toNat % 2 ^ 32)) ∧ r.cores = s.cores ∧ r.mem = s.mem)) ∧
    (∀ a low, (s.part pid).merge = .quiesced a low → (∀ p ∈ s.parts, ∀ r a e st q b, p.2.merge ≠ .routine r a e st q b) →
      m.data.getLsbD 32 = true → ∀ vis, vis = low ||| (BitVec.ofNat 64 (m.data.toNat % 2 ^ 32) <<< 32) → ∃ q : State,
      q = s.modPart pid (fun p => { p with merge := .quiesced (fld m.data 51 47) vis }) ∧
      exec .quiesce s = .next (q.tellHeald pid (svcUnit (fld m.data 51 47)) 9 0
        (if s.queuesBusy pid then 0x13 else if s.definedMap pid &&& vis ≠ 0 then 0x15 else 0))) ∧
    (∀ ready : State → Nat → State, (∀ t a, ready t a =
        (t.modPart pid fun p => { p with merge := .saved (t.definedMap pid) }).tellHeald pid (svcUnit a) 11 0 0) →
      (∀ a low, (s.part pid).merge = .quiesced a low →
        ((s.part pid).running = none → exec .proceed s = .next (ready s a)) ∧
        (∀ v q, (s.part pid).running = some v →
          q = State.modPart (if (s.part pid).stopping then s else s.agentStop pid v) pid (fun p => { p with merge := .saving a }) →
          exec .proceed s = .next (q.schedule (q.cycle + 20064) rankUnit .proceed (.merge m)))) ∧
      (∀ a v, (s.part pid).merge = .saving a → (s.part pid).running = some v →
        (s.stopDone pid = true → exec .proceed s = .next (ready (s.saveVi pid v) a)) ∧
        (s.stopDone pid = false → exec .proceed s = .next (s.schedule (s.cycle + 64) rankUnit .proceed (.merge m))))) ∧
    (((∃ a low, (s.part pid).merge = .quiesced a low) ∨ ∃ vis, (s.part pid).merge = .saved vis) →
      exec .abort s = .next ((s.modPart pid fun p => { p with merge := .idle }).goOn pid))) ∧
  (∀ (s : State) m dest, s.arg = .merge m → dest = s.pidOf (fld m.data 51 47 / 8) →
    ((∀ vis, (s.part m.die).merge ≠ .saved vis) → exec .done s = .next s) ∧
    (∀ vis, (s.part m.die).merge = .saved vis → dest = m.die → exec .done s = .next s) ∧
    (∀ vis, (s.part m.die).merge = .saved vis → dest ≠ m.die → ∃ q r, exec .done s = .next r ∧
      r = (s.part m.die).heldReqs.foldl (fun t e => t.schedule t.cycle rankUnit (retarget dest e).ins (retarget dest e).arg) q ∧
      (r.part m.die).dies = [] ∧ (r.part m.die).running = none ∧ (∀ d ∈ (s.part dest).dies, d ∈ (r.part dest).dies) ∧
      (∀ d ∈ (s.part m.die).dies, d ∈ (r.part dest).dies) ∧ r.cores = s.cores ∧ r.mem = s.mem)) ∧
  (∀ (s : State) pid n, s.arg = .part pid n →
    (∀ r o st b, (s.part pid).merge = .asked r o st b → (st ≠ n → exec .mergeTimeout s = .next s) ∧
      (st = n → exec .mergeTimeout s = .next ((s.tellHeald pid (healdUnit o) 12 0 0).endMerge r 0x18))) ∧
    (∀ r svc e st q b, (s.part pid).merge = .routine r svc e st q b →
      ((st ≠ n ∨ b = true) → exec .mergeTimeout s = .next s) ∧
      (st = n → b = false → ∃ t : State, svc ∈ (t.part pid).reassign ∧ exec .mergeTimeout s =
        .next (t.schedule (t.cycle + 10000000) rankUnit .serviceCoreReassign (.unit (svcUnit svc))))) ∧
    ((s.part pid).merge = .idle → exec .mergeTimeout s = .next s)) ∧
  (∀ (s : State) u, s.arg = .unit u → ∃ r, exec .serviceCoreReassign s = .next r ∧ (r.core u).assigned = false ∧
    (∀ v, v ≠ u → r.core v = s.core v) ∧ ∀ k ∈ (r.part (s.pidOf (unitDie u))).reassign, svcUnit k ≠ u) ∧
  (∀ (s : State) pid dies ds, s.arg = .split pid dies → ds = bitsBelow 4 dies.toNat →
    ((s.part pid).merge = .idle →
      ((pid ∈ ds ∨ (∃ d ∈ ds, d ∉ (s.part pid).dies) ∨ canMerge ((s.part pid).dies.filter fun d => d ∉ ds) ds = false) →
        exec .merge s = .next (s.replySend pid 0 0x10 0)) ∧
      (pid ∉ ds → (∀ d ∈ ds, d ∈ (s.part pid).dies) → canMerge ((s.part pid).dies.filter fun d => d ∉ ds) ds = true →
        (s.queuesBusy pid = true → exec .merge s = .next (s.replySend pid 0 0x13 0)) ∧
        (s.queuesBusy pid = false → ∀ q, q = (s.stopRunning pid).modPart pid (fun p => { p with merge := .splitting ds }) →
          exec .merge s = .next (q.schedule (q.cycle + 64) rankUnit .merge (.split pid dies))))) ∧
    (∀ x, (s.part pid).merge = .splitting x →
      (s.stopDone pid = false → exec .merge s = .next (s.schedule (s.cycle + 64) rankUnit .merge (.split pid dies))) ∧
      (s.stopDone pid = true → (s.part pid).running = none → pid ∉ ds → ds ≠ [] → ∃ t : State,
        exec .merge s = .next (t.replySend pid 0 0 0) ∧ (t.part pid).dies = (s.part pid).dies.filter (fun d => d ∉ ds) ∧
        (t.part (ds.headD 0)).dies = ds ∧ (t.part pid).merge = .idle)))

/-- R67 to R70: words written out from the spec. -/
def Obligations.DecodedSpecWords : Prop :=
  decode 0x2090 0x10C0 = .ok (.add .always false 4 2 3) ∧ decode 0x208C 0x1017 = .ok (.clz .always false 3 2) ∧
  decode 0x230C 0x1000FFF8 = .ok (.addi .always false 3 2 0xFFF8) ∧ decode 0x0300 0x00000004 = .ok (.br .always 4) ∧
  decode 0x0680 0xF800 = .ok (.jr .always 31) ∧ decode 0x0E01 0 = .ok (.nop .ifP0) ∧
  decode 0x1100 0x10000042 = .ok (.trap .always 2 0x42) ∧ decode 0xC10C 0x08030008 = .ok (.ld .always .d false 3 1 8)

/-- R66 to R70, R80 to R82: the round trip. -/
def Obligations.DecodeEncodeRoundTrip : Prop :=
  ∀ i : Instr, i.wf = true → ∀ w, encode i = some w → decode w.head w.tail = .ok i

/-- R72, R82, R309 to R311: what a step runs, and what it adds around it. -/
def Obligations.StepRunsDecoded : Prop :=
  (∀ (s : State) u i line, s.due = none → s.pick = some (u, i) → (s.slot u i).nextAsync = none →
    (s.slot u i).line = some ((s.slot u i).pc &&& ~~~63, line) → (s.slot u i).pc.getLsbD 0 = false →
    (s.slot u i).pc.toNat % 64 / 2 < lineHeads line →
    (∀ ins, (s.slot u i).trip = .none → decode (lineHalf line ((s.slot u i).pc.toNat % 64 / 2)) (lineTail line ((s.slot u i).pc.toNat % 64 / 2)) = .ok ins →
      step s = exec ins (s.issued u i)) ∧
    (∀ e, decode (lineHalf line ((s.slot u i).pc.toNat % 64 / 2)) (lineTail line ((s.slot u i).pc.toNat % 64 / 2)) = .error e →
      step s = .next ((s.issued u i).exactFault (illegalAt u
        (lineHalf line ((s.slot u i).pc.toNat % 64 / 2)) e))) ∧
    (∀ ins, (s.slot u i).trip ≠ .none → decode (lineHalf line ((s.slot u i).pc.toNat % 64 / 2)) (lineTail line ((s.slot u i).pc.toNat % 64 / 2)) = .ok ins →
      step s = .next ((s.issued u i).again (headG (lineHalf line ((s.slot u i).pc.toNat % 64 / 2)))))) ∧
  (∀ (s : State) u i, s.due = none → s.pick = some (u, i) →
    ((s.slot u i).nextAsync.isSome = true → step s = exec .asyncFaultDelivery (s.atSlot u i false (.slot u i))) ∧
    ((s.slot u i).nextAsync = none →
      (∀ a line, (s.slot u i).line = some (a, line) → a = (s.slot u i).pc &&& ~~~63 →
        (s.slot u i).pc.getLsbD 0 = true ∨ lineHeads line ≤ (s.slot u i).pc.toNat % 64 / 2 →
        step s = exec .lineFetch (s.atSlot u i false (.slot u i))) ∧
      ((∀ a line, (s.slot u i).line = some (a, line) → a ≠ (s.slot u i).pc &&& ~~~63) →
        step s = exec .lineFetch ((s.atSlot u i true (.slot u i)).countIssue u i)))) ∧
  (∀ (s : State) g,
    (s.cur.guard g = false → s.again g = s.advance) ∧
    (s.cur.guard g = true →
      (∀ w, s.cur.trip = .out w → s.again g = (s.suspendCur w).progressFence s.curUnit s.curSlot) ∧
      (∀ v p, s.cur.trip = .done v p →
        (s.waitDst s.cur.replyDest = .ok () →
          s.again g = ((p.elim s fun b => s.modCur fun x => x.setP 0 b).writeDst s.cur.replyDest v).advance) ∧
        (∀ w, s.waitDst s.cur.replyDest = .error (.wait w) → s.again g = s.suspendCur w)))) ∧
  (∀ (s : State) u i, (s.issued u i).curUnit = u ∧ (s.issued u i).curSlot = i ∧ (s.issued u i).cursor = u + 1 ∧
    (s.issued u i).arg = .none ∧ (s.issued u i).cur = { s.slot u i with aging := 0 } ∧ (s.issued u i).cycle = s.cycle ∧
    (s.issued u i).agenda = s.agenda ∧ (∀ v, v ≠ u → (s.issued u i).core v = s.core v) ∧
    ((s.issued u i).core u).pool = (s.core u).pool ∧ s.SameMemory (s.issued u i) ∧
    (∀ j, j ≠ i → (s.issued u i).slot u j = if (s.slot u j).eligible s.cycle = true ∧ (s.slot u j).aging ≠ 4095
      then { s.slot u j with aging := (s.slot u j).aging + 1 } else s.slot u j) ∧
    (∀ phase prio, phase < 8 → prio < 4 → aget 0 ((s.issued u i).core u).rr (phase * 4 + prio) =
      if phase = s.cycle % 8 ∧ prio = (s.slot u i).prio.toNat then i + 1 else aget 0 (s.core u).rr (phase * 4 + prio))) ∧
  (∀ (s : State) p, s.due = some p → step s = exec p.ev.ins (s.take p)) ∧
  (∀ s : State, s.due = none → s.pick = none → step s = exec .gcycAdvance { s with arg := .none })

/-- R68, R83, R215: a false guard, for every instruction. -/
def Obligations.FalseGuardOnlyAdvances : Prop :=
  ∀ i w matrix, encode i = some w → matrix = [0x78, 0x79, 0x7A, 0x7B, 0x7C].contains (headOp w.head).toNat →
    ∀ s : State, s.arg = .none →
    (s.cur.guard (headG w.head) = false → (matrix = true → isService s.curUnit = false) → exec i s = .next s.advance) ∧
    (matrix = true → isService s.curUnit = true → exec i s = .next (s.exactFault { code := 1, sub := 1 }))

/-- R34 to R37, R74, R75, R83, R307. -/
def Obligations.RegisterOperands : Prop :=
  (∀ (s : State) g srcs dsts long, s.cur.guard g = true → (∀ r ∈ srcs, s.cur.plainSrc r) → (∀ r ∈ dsts, s.cur.plainDst r) →
    s.Ready g srcs dsts long (srcs.map s.cur.val) s) ∧
  (∀ i g a b c f, iop2Value i = some (g, a, b, c, f) → ∀ s : State, s.cur.guard g = true →
    (s.cur.badSrc b = true ∨ s.cur.badSrc c = true ∨ s.cur.badDst a = true →
      exec i s = .next (s.exactFault { code := 1, sub := 5 })) ∧
    (s.checkRegs [b, c] [a] false = .ok () → isWindow b = true → s.cur.isFull b.toNat = false →
      exec i s = .next (if s.cur.isPend b.toNat = true ∨ s.cur.role b.toNat = .dep then s.suspendCur (.reg b)
        else s.exactFault { code := 6, dest := b })) ∧
    (s.checkRegs [b, c] [a] false = .ok () → s.cur.plainSrc b → isWindow c = true → s.cur.isFull c.toNat = false →
      exec i s = .next (if s.cur.isPend c.toNat = true ∨ s.cur.role c.toNat = .dep then s.suspendCur (.reg c)
        else s.exactFault { code := 6, dest := c })) ∧
    (s.cur.plainSrc b → s.cur.plainSrc c → isWindow a = true → s.cur.role a.toNat = .loc → s.cur.isPend a.toNat = true →
      exec i s = .next (s.suspendCur (.reg a))))

/-- R38, R74, R103, R104, R352: the frame of every instruction that writes a register. -/
def Obligations.RegisterResultFrame : Prop :=
  ∀ (t : State) (a : Reg) v, awf 0 t.cur.regs = true → ∀ r, r = (t.writeDst a v).advance →
    (a = 0 → r = t.advance) ∧
    (a = 29 → fld t.curCore.qchain 31 31 = 0 → r = t.advance) ∧
    (a = 31 → r.cur.ln = v ∧ r.cur.regs = t.cur.regs ∧ r.cur.full = t.cur.full ∧ r.cur.pend = t.cur.pend) ∧
    (isWindow a = true → t.cur.role a.toNat = .loc → r.cur.reg a.toNat = v ∧ r.cur.isFull a.toNat = true ∧
      r.cur.isPend a.toNat = false ∧ r.cur.ln = t.cur.ln ∧ ∀ k, k < 32 → k ≠ a.toNat →
        r.cur.reg k = t.cur.reg k ∧ r.cur.isFull k = t.cur.isFull k ∧ r.cur.isPend k = t.cur.isPend k) ∧
    (a = 31 ∨ (isWindow a = true ∧ t.cur.role a.toNat = .loc) → r.cur.pc = t.cur.nextPc ∧ r.cur.pred = t.cur.pred ∧
      r.cur.frm = t.cur.frm ∧ r.cur.rkey = t.cur.rkey ∧ r.cur.evc = t.cur.evc ∧ r.cur.ffrm = t.cur.ffrm ∧
      r.cur.fflim = t.cur.fflim ∧ r.cur.holds = t.cur.holds ∧ (∀ v, v ≠ t.curUnit → r.core v = t.core v) ∧
      (∀ j, j ≠ t.curSlot → r.slot t.curUnit j = t.slot t.curUnit j) ∧ r.curCore.pool = t.curCore.pool ∧
      r.curCore.journal = t.curCore.journal ∧ r.curCore.qchain = t.curCore.qchain ∧ r.agenda = t.agenda ∧ t.SameMemory r) ∧
    (isWindow a = true → t.cur.role a.toNat = .shared → t.writeDst a v =
      (t.modCur fun x => x.fill a.toNat v).forwardShared t.curUnit t.curSlot (a.toNat - 1 - t.cur.g.toNat) v)

/-- R309 to R311 (the order of the cores within a cycle: log 19, DESIGN CHOICE): totality, and the rotation. -/
def Obligations.StepOutcomes : Prop :=
  (∀ i s r, exec i s ≠ .refused r) ∧
  (∀ i s, encode i ≠ none → s.arg = .none → ∃ t, exec i s = .next t) ∧
  (∀ (s : State) u i, s.cores.Pairwise (fun p q => p.1 < q.1) → s.pick = some (u, i) →
    s.cursor ≤ u ∧ s.issues (s.core u) = true ∧ i < (s.core u).nslots ∧ i % 8 = s.cycle % 8 ∧
    (s.slot u i).eligible s.cycle = true ∧
    (∀ p ∈ s.cores, s.cursor ≤ p.1 → p.1 < u → s.issues p.2 = true → s.readySlots p.2 = []) ∧
    ((2048 ≤ (s.slot u i).aging.toNat ∧ ∀ j ∈ s.readySlots (s.core u), (s.slot u j).aging.toNat ≤ (s.slot u i).aging.toNat ∧
        ((s.slot u j).aging = (s.slot u i).aging → i ≤ j)) ∨
     ∀ last, last = aget 0 (s.core u).rr (s.cycle % 8 * 4 + (s.slot u i).prio.toNat) → ∀ j ∈ s.readySlots (s.core u),
       (s.slot u j).aging.toNat < 2048 ∧ (s.slot u j).prio.toNat ≤ (s.slot u i).prio.toNat ∧
       ((s.slot u j).prio = (s.slot u i).prio → (last ≤ j → last ≤ i ∧ i ≤ j) ∧ (i < last → i ≤ j))))

/-- R235, R246, R253, R405: the frame of every program instruction beyond its core. -/
def Obligations.ProgramStepsLeaveMemory : Prop :=
  ∀ i s t, encode i ≠ none → s.arg = .none → exec i s = .next t →
    t.mem = s.mem ∧ t.tags = s.tags ∧ t.marks = s.marks ∧ t.slices = s.slices ∧ t.parts = s.parts ∧
    (∀ d, (t.engine d).ctx = (s.engine d).ctx ∧ (t.engine d).dies = (s.engine d).dies ∧ (t.engine d).groups = (s.engine d).groups) ∧
    t.hostMem = s.hostMem ∧ t.nvme = s.nvme ∧ t.replies = s.replies ∧
    ((∀ g a c vi ds, i ≠ .stopatStop g a c vi ds) → t.dies = s.dies)

/-- R109, R395, R401, R405, R406: what user mode cannot change. -/
def Obligations.UserModeKeepsPrivilege : Prop :=
  ∀ i s t, encode i ≠ none → s.arg = .none → s.sysOf s.curUnit = false → exec i s = .next t →
    ∀ u, (s.core u).SamePrivileged (t.core u)

/-- Every step keeps the memories of the state in canonical form (the form is the model's). -/
def Obligations.MemoryCanonicalKept : Prop :=
  ∀ s t : State, s.MemoryCanonical → step s = .next t → t.MemoryCanonical

/-- Every step keeps every core's pool and registers in canonical form (the form is the model's). -/
def Obligations.CoreStorageCanonicalKept : Prop :=
  ∀ s t : State, s.CoresCanonical → step s = .next t → t.CoresCanonical
end

