-- ==== Sys2Proof/Laws/Assoc.lean ====
section
/-! SUPPORT. Sparse maps: reading after writing, and the canonical form that every write keeps. -/

namespace Sys2Proof.Machine

theorem afind_aput_self {α : Type} (m : List (Nat × α)) (i : Nat) (v : α) : afind (aput m i v) i = some v := by
  induction m with
  | nil => simp [aput, afind]
  | cons p m ih =>
    obtain ⟨k, x⟩ := p
    simp only [aput]
    split
    · subst_vars; simp [afind]
    · split
      · simp [afind]
      · simp_all [afind]

theorem afind_aput_ne {α : Type} (m : List (Nat × α)) (i j : Nat) (v : α) (h : j ≠ i) : afind (aput m i v) j = afind m j := by
  induction m with
  | nil => simp [aput, afind, h]
  | cons p m ih =>
    obtain ⟨k, x⟩ := p
    simp only [aput]
    split
    · subst_vars; simp [afind, h]
    · split
      · rename_i h1 h2
        simp only [afind, h, if_false]
        by_cases hj : j < i
        · simp [hj, show j ≠ k by omega, show j < k by omega]
        · simp [hj]
      · simp [afind, ih]

@[simp] theorem aget_aput_self {α : Type} (d : α) (m : List (Nat × α)) (i : Nat) (v : α) : aget d (aput m i v) i = v := by
  simp [aget, afind_aput_self]

theorem aget_aput_ne {α : Type} (d : α) (m : List (Nat × α)) (i j : Nat) (v : α) (h : j ≠ i) :
    aget d (aput m i v) j = aget d m j := by
  simp [aget, afind_aput_ne, h]

/-- What a map reads at `j` after a write at `i`. -/
theorem aget_aput {α : Type} (d : α) (m : List (Nat × α)) (i j : Nat) (v : α) :
    aget d (aput m i v) j = if j = i then v else aget d m j := by
  split
  · subst_vars; simp
  · exact aget_aput_ne d m i j v ‹_›

/-! ## The canonical form -/

/-- A key below every listed one is not listed. -/
theorem afind_below {α : Type} [DecidableEq α] {d : α} : ∀ (m : List (Nat × α)) (lo i : Nat),
    awfFrom d lo m = true → i < lo → afind m i = none
  | [], _, _, _, _ => rfl
  | (k, v) :: m, lo, i, h, hi => by
    simp only [awfFrom, Bool.and_eq_true, decide_eq_true_eq] at h
    have h1 := h.1.1
    simp [afind, show i ≠ k by omega, show i < k by omega]

theorem awfFrom_mono {α : Type} [DecidableEq α] {d : α} {m : List (Nat × α)} {lo lo' : Nat} (h : lo' ≤ lo)
    (w : awfFrom d lo m = true) : awfFrom d lo' m = true := by
  cases m with
  | nil => rfl
  | cons p m =>
    obtain ⟨k, v⟩ := p
    simp only [awfFrom, Bool.and_eq_true, decide_eq_true_eq] at w ⊢
    exact ⟨⟨by omega, w.1.2⟩, w.2⟩

theorem awfFrom_adel {α : Type} [DecidableEq α] {d : α} : ∀ (m : List (Nat × α)) (lo i : Nat),
    awfFrom d lo m = true → awfFrom d lo (adel m i) = true
  | [], _, _, _ => rfl
  | (k, v) :: m, lo, i, h => by
    have h0 := h
    simp only [awfFrom, Bool.and_eq_true, decide_eq_true_eq] at h
    simp only [adel]
    split
    · exact awfFrom_mono (by omega) h.2
    · split
      · exact h0
      · simp only [awfFrom, Bool.and_eq_true, decide_eq_true_eq]
        exact ⟨h.1, awfFrom_adel m _ _ h.2⟩

theorem awfFrom_aput {α : Type} [DecidableEq α] {d v : α} (hv : v ≠ d) : ∀ (m : List (Nat × α)) (lo i : Nat),
    lo ≤ i → awfFrom d lo m = true → awfFrom d lo (aput m i v) = true
  | [], lo, i, hi, _ => by simp [aput, awfFrom, hi, hv]
  | (k, x) :: m, lo, i, hi, h => by
    simp only [awfFrom, Bool.and_eq_true, decide_eq_true_eq] at h
    simp only [aput]
    split
    · subst_vars
      simp only [awfFrom, Bool.and_eq_true, decide_eq_true_eq]
      exact ⟨⟨hi, by simp [hv]⟩, h.2⟩
    · split
      · simp only [awfFrom, Bool.and_eq_true, decide_eq_true_eq]
        exact ⟨⟨hi, by simp [hv]⟩, ⟨by omega, h.1.2⟩, h.2⟩
      · simp only [awfFrom, Bool.and_eq_true, decide_eq_true_eq]
        exact ⟨h.1, awfFrom_aput hv m _ _ (by omega) h.2⟩

/-- Writing keeps the canonical form. -/
theorem awf_aset {α : Type} [DecidableEq α] {d : α} {m : List (Nat × α)} (i : Nat) (v : α) (h : awf d m = true) :
    awf d (aset d m i v) = true := by
  unfold aset
  split
  · exact awfFrom_adel m 0 i h
  · exact awfFrom_aput ‹_› m 0 i (by omega) h

/-- Deleting a key of a canonical map. -/
theorem afind_adel {α : Type} [DecidableEq α] {d : α} : ∀ (m : List (Nat × α)) (lo i j : Nat), awfFrom d lo m = true →
    afind (adel m i) j = if j = i then none else afind m j
  | [], _, i, j, _ => by simp [adel, afind]
  | (k, v) :: m, lo, i, j, h => by
    simp only [awfFrom, Bool.and_eq_true, decide_eq_true_eq] at h
    simp only [adel]
    split
    · subst_vars
      split
      · subst_vars; exact afind_below m _ _ h.2 (by omega)
      · simp only [afind, *, if_false]
        split
        · exact afind_below m _ _ h.2 (by omega)
        · rfl
    · split
      · split
        · subst_vars; simp [afind, *]
        · rfl
      · have ih := afind_adel m _ i j h.2
        simp only [afind, ih]
        by_cases h1 : j = i
        · subst_vars; simp_all
        · simp [h1]

/-- What a canonical map reads after a write. -/
theorem aget_aset {α : Type} [DecidableEq α] {d : α} {m : List (Nat × α)} (i j : Nat) (v : α) (h : awf d m = true) :
    aget d (aset d m i v) j = if j = i then v else aget d m j := by
  unfold aset
  split
  · simp only [aget, afind_adel m 0 i j h]
    split <;> simp_all
  · exact aget_aput d m i j v

end Sys2Proof.Machine
end

