-- ==== Sys2Proof/Laws/Encoding.lean ====
section
/-! SUPPORT. Lemmas about the encoder and the decoder that the round trip (`Laws/PerInstr.lean`) cites:
where a field of a word laid out by concatenation is read back, the five fields of a head (R66, R67) and
the four forms of a tail (R69-R71). -/

namespace Sys2Proof

/-- A field above the low part `y` of a word `x ++ y` is a field of `x`. -/
theorem extract_high (m n : Nat) (x : BitVec m) (y : BitVec n) (k w : Nat) (h : n ≤ k) :
    (x ++ y).extractLsb' k w = x.extractLsb' (k - n) w := by
  ext i hi
  simp [BitVec.getLsbD_append]
  have : ¬ (k + i < n) := by omega
  simp [this]
  congr 1; omega
/-- A field inside the low part `y` of a word `x ++ y` is a field of `y`. -/
theorem extract_low (m n : Nat) (x : BitVec m) (y : BitVec n) (k w : Nat) (h : k + w ≤ n) :
    (x ++ y).extractLsb' k w = y.extractLsb' k w := by
  ext i hi
  simp [BitVec.getLsbD_append]
  intro; omega
/-- The field of full width is the word. -/
theorem extract_all {n : Nat} (x : BitVec n) : x.extractLsb' 0 n = x := by
  ext i hi; simp
/-- A bit of the low part. -/
theorem lsb_low (m n : Nat) (x : BitVec m) (y : BitVec n) (k : Nat) (h : k < n) :
    (x ++ y).getLsbD k = y.getLsbD k := by simp [BitVec.getLsbD_append, h]
/-- A bit of the high part. -/
theorem lsb_high (m n : Nat) (x : BitVec m) (y : BitVec n) (k : Nat) (h : n ≤ k) :
    (x ++ y).getLsbD k = x.getLsbD (k - n) := by
  have : ¬ k < n := by omega
  simp [BitVec.getLsbD_append, this]
/-- The one bit of a flag. -/
theorem lsb_bit (b : Bool) : (bit b).getLsbD 0 = b := by cases b <;> rfl

/-- The operation of a head is read back (R66). -/
theorem headOp_mk (op : BitVec 7) (tl : BitVec 2) (a : Reg) (g : Guard) : headOp (mkHead op tl a g) = op := by
  show BitVec.extractLsb' 9 7 (op ++ tl ++ a ++ guardCode g) = op
  simp [extract_high 14 2, extract_high 9 5, extract_high 7 2]
/-- The tail length of a head is read back. -/
theorem headTl_mk (op : BitVec 7) (tl : BitVec 2) (a : Reg) (g : Guard) : headTl (mkHead op tl a g) = tl := by
  show BitVec.extractLsb' 7 2 (op ++ tl ++ a ++ guardCode g) = tl
  simp [extract_high 14 2, extract_high 9 5, extract_low 7 2]
/-- Field A of a head is read back. -/
theorem headA_mk (op : BitVec 7) (tl : BitVec 2) (a : Reg) (g : Guard) : headA (mkHead op tl a g) = a := by
  show BitVec.extractLsb' 2 5 (op ++ tl ++ a ++ guardCode g) = a
  simp [extract_high 14 2, extract_low 9 5]
/-- The guard of a head is read back. -/
theorem headG_mk (op : BitVec 7) (tl : BitVec 2) (a : Reg) (g : Guard) : headG (mkHead op tl a g) = g := by
  have : BitVec.extractLsb' 0 2 (mkHead op tl a g) = guardCode g := by
    show BitVec.extractLsb' 0 2 (op ++ tl ++ a ++ guardCode g) = guardCode g
    rw [extract_low 14 2 _ _ _ _ (by decide), extract_all]
  unfold headG; rw [this]; cases g <;> rfl
/-- What the decoder reads from a one-word tail. -/
theorem decode_f1 (op : BitVec 7) (g a b c f) (h : formTl op.toNat = some 1) :
    decode (f1 op g a b c f).head (f1 op g a b c f).tail = decodeF1 op.toNat g a b c f := by
  simp [decode, f1, headOp_mk, headTl_mk, headA_mk, headG_mk, h, extract_low 48 16, extract_low 10 6, extract_high 10 6, extract_high 5 5, extract_low 5 5]
/-- What the decoder reads from a two-word tail. -/
theorem decode_f2 (op : BitVec 7) (g a b c f i) (h : formTl op.toNat = some 2) :
    decode (f2 op g a b c f i).head (f2 op g a b c f i).tail = decodeF2 op.toNat g a b c f i (BitVec.extractLsb' 0 27 (b ++ c ++ f ++ i)) := by
  simp [decode, f2, headOp_mk, headTl_mk, headA_mk, headG_mk, h, extract_low 32 32, extract_low 16 16, extract_high 16 16, extract_high 10 6, extract_low 10 6, extract_high 5 5, extract_low 5 5]

/-- What the decoder reads from a two-word tail with the long immediate. -/
theorem decode_f2l (op : BitVec 7) (g a b) (i : BitVec 27) (h : formTl op.toNat = some 2) :
    decode (f2l op g a b i).head (f2l op g a b i).tail = decodeF2 op.toNat g a b (i.extractLsb' 22 5) (i.extractLsb' 16 6) (i.extractLsb' 0 16) i := by
  simp [decode, f2l, headOp_mk, headTl_mk, headA_mk, headG_mk, h, extract_low 32 32, extract_low 5 27, extract_high 5 27]

/-- What the decoder reads from a four-word tail. -/
theorem decode_f4 (op : BitVec 7) (g a b c d f) (i : BitVec 43) (h : formTl op.toNat = some 3) :
    decode (f4 op g a b c d f i).head (f4 op g a b c d f i).tail = decodeF4 op.toNat g a b c d f i (b ++ c ++ d ++ f ++ i) := by
  simp [decode, f4, headOp_mk, headTl_mk, headA_mk, headG_mk, h, extract_low 21 43, extract_high 21 43, extract_high 15 6, extract_low 15 6, extract_high 10 5, extract_low 10 5, extract_high 5 5, extract_low 5 5]

/-- What the decoder reads from an instruction without a tail. -/
theorem decode_h (op : BitVec 7) (g a) (e : formTl op.toNat = some 0) :
    decode (h op g a).head (h op g a).tail = decodeH op.toNat g a := by
  simp [decode, h, headOp_mk, headTl_mk, headA_mk, headG_mk, e]
/-- What the decoder reads from four plain tail words. -/
theorem decode_raw4 (op : BitVec 7) (g a t) (e : formTl op.toNat = some 3) :
    decode (raw4 op g a t).head (raw4 op g a t).tail =
      decodeF4 op.toNat g a (t.extractLsb' 59 5) (t.extractLsb' 54 5) (t.extractLsb' 49 5) (t.extractLsb' 43 6)
        (t.extractLsb' 0 43) t := by
  simp [decode, raw4, headOp_mk, headTl_mk, headA_mk, headG_mk, e]

theorem fmtOf_code (x : Fmt) : fmtOf (fmtCode x) = some x := by cases x <;> rfl
theorem scopeOf_code (x : Scope) : scopeOf (scopeCode x) = x := by cases x <;> rfl
theorem widthOf_code (x : Width) : widthOf (widthCode x) = x := by cases x <;> rfl
theorem condOf_code (x : Cond) : condOf (condCode x) = some x := by cases x <;> rfl
theorem combOf_code (x : Comb) : combOf (combCode x) = some x := by cases x <;> rfl
theorem fcondOf_code (x : FCond) : fcondOf (fcondCode x) = some x := by cases x <;> rfl
theorem vcondOf_code (x : VCond) : vcondOf (vcondCode x) = some x := by cases x <;> rfl

end Sys2Proof
end

