-- ==== Sys2Proof/Laws/State.lean ====
section
/-! SUPPORT. The updates of State: what each leaves as it is, field by field, and what the accessors read after it. -/

namespace Sys2Proof.Machine

/-! ## setCore -/

@[simp] theorem State.setCore_cycle (s : State) (u : UnitId) (c : Core) : (s.setCore u c).cycle = s.cycle := rfl
@[simp] theorem State.setCore_released (s : State) (u : UnitId) (c : Core) : (s.setCore u c).released = s.released := rfl
@[simp] theorem State.setCore_agenda (s : State) (u : UnitId) (c : Core) : (s.setCore u c).agenda = s.agenda := rfl
@[simp] theorem State.setCore_nextSeq (s : State) (u : UnitId) (c : Core) : (s.setCore u c).nextSeq = s.nextSeq := rfl
@[simp] theorem State.setCore_freeCtr (s : State) (u : UnitId) (c : Core) : (s.setCore u c).freeCtr = s.freeCtr := rfl
@[simp] theorem State.setCore_curUnit (s : State) (u : UnitId) (c : Core) : (s.setCore u c).curUnit = s.curUnit := rfl
@[simp] theorem State.setCore_curSlot (s : State) (u : UnitId) (c : Core) : (s.setCore u c).curSlot = s.curSlot := rfl
@[simp] theorem State.setCore_arg (s : State) (u : UnitId) (c : Core) : (s.setCore u c).arg = s.arg := rfl
@[simp] theorem State.setCore_cursor (s : State) (u : UnitId) (c : Core) : (s.setCore u c).cursor = s.cursor := rfl
@[simp] theorem State.setCore_fifo (s : State) (u : UnitId) (c : Core) : (s.setCore u c).fifo = s.fifo := rfl
@[simp] theorem State.setCore_mem (s : State) (u : UnitId) (c : Core) : (s.setCore u c).mem = s.mem := rfl
@[simp] theorem State.setCore_tags (s : State) (u : UnitId) (c : Core) : (s.setCore u c).tags = s.tags := rfl
@[simp] theorem State.setCore_marks (s : State) (u : UnitId) (c : Core) : (s.setCore u c).marks = s.marks := rfl
@[simp] theorem State.setCore_slices (s : State) (u : UnitId) (c : Core) : (s.setCore u c).slices = s.slices := rfl
@[simp] theorem State.setCore_stations (s : State) (u : UnitId) (c : Core) : (s.setCore u c).stations = s.stations := rfl
@[simp] theorem State.setCore_engines (s : State) (u : UnitId) (c : Core) : (s.setCore u c).engines = s.engines := rfl
@[simp] theorem State.setCore_ports (s : State) (u : UnitId) (c : Core) : (s.setCore u c).ports = s.ports := rfl
@[simp] theorem State.setCore_dies (s : State) (u : UnitId) (c : Core) : (s.setCore u c).dies = s.dies := rfl
@[simp] theorem State.setCore_parts (s : State) (u : UnitId) (c : Core) : (s.setCore u c).parts = s.parts := rfl
@[simp] theorem State.setCore_tokens (s : State) (u : UnitId) (c : Core) : (s.setCore u c).tokens = s.tokens := rfl
@[simp] theorem State.setCore_mcasts (s : State) (u : UnitId) (c : Core) : (s.setCore u c).mcasts = s.mcasts := rfl
@[simp] theorem State.setCore_degraded (s : State) (u : UnitId) (c : Core) : (s.setCore u c).degraded = s.degraded := rfl
@[simp] theorem State.setCore_bundles (s : State) (u : UnitId) (c : Core) : (s.setCore u c).bundles = s.bundles := rfl
@[simp] theorem State.setCore_hostMem (s : State) (u : UnitId) (c : Core) : (s.setCore u c).hostMem = s.hostMem := rfl
@[simp] theorem State.setCore_nvme (s : State) (u : UnitId) (c : Core) : (s.setCore u c).nvme = s.nvme := rfl
@[simp] theorem State.setCore_replies (s : State) (u : UnitId) (c : Core) : (s.setCore u c).replies = s.replies := rfl
@[simp] theorem State.setCore_images (s : State) (u : UnitId) (c : Core) : (s.setCore u c).images = s.images := rfl
@[simp] theorem State.setCore_unsent (s : State) (u : UnitId) (c : Core) : (s.setCore u c).unsent = s.unsent := rfl
@[simp] theorem State.setCore_dropCounts (s : State) (u : UnitId) (c : Core) : (s.setCore u c).dropCounts = s.dropCounts := rfl

/-! ## modCore -/

@[simp] theorem State.modCore_cycle (s : State) (u : UnitId) (f : Core → Core) : (s.modCore u f).cycle = s.cycle := rfl
@[simp] theorem State.modCore_released (s : State) (u : UnitId) (f : Core → Core) : (s.modCore u f).released = s.released := rfl
@[simp] theorem State.modCore_agenda (s : State) (u : UnitId) (f : Core → Core) : (s.modCore u f).agenda = s.agenda := rfl
@[simp] theorem State.modCore_nextSeq (s : State) (u : UnitId) (f : Core → Core) : (s.modCore u f).nextSeq = s.nextSeq := rfl
@[simp] theorem State.modCore_freeCtr (s : State) (u : UnitId) (f : Core → Core) : (s.modCore u f).freeCtr = s.freeCtr := rfl
@[simp] theorem State.modCore_curUnit (s : State) (u : UnitId) (f : Core → Core) : (s.modCore u f).curUnit = s.curUnit := rfl
@[simp] theorem State.modCore_curSlot (s : State) (u : UnitId) (f : Core → Core) : (s.modCore u f).curSlot = s.curSlot := rfl
@[simp] theorem State.modCore_arg (s : State) (u : UnitId) (f : Core → Core) : (s.modCore u f).arg = s.arg := rfl
@[simp] theorem State.modCore_cursor (s : State) (u : UnitId) (f : Core → Core) : (s.modCore u f).cursor = s.cursor := rfl
@[simp] theorem State.modCore_fifo (s : State) (u : UnitId) (f : Core → Core) : (s.modCore u f).fifo = s.fifo := rfl
@[simp] theorem State.modCore_mem (s : State) (u : UnitId) (f : Core → Core) : (s.modCore u f).mem = s.mem := rfl
@[simp] theorem State.modCore_tags (s : State) (u : UnitId) (f : Core → Core) : (s.modCore u f).tags = s.tags := rfl
@[simp] theorem State.modCore_marks (s : State) (u : UnitId) (f : Core → Core) : (s.modCore u f).marks = s.marks := rfl
@[simp] theorem State.modCore_slices (s : State) (u : UnitId) (f : Core → Core) : (s.modCore u f).slices = s.slices := rfl
@[simp] theorem State.modCore_stations (s : State) (u : UnitId) (f : Core → Core) : (s.modCore u f).stations = s.stations := rfl
@[simp] theorem State.modCore_engines (s : State) (u : UnitId) (f : Core → Core) : (s.modCore u f).engines = s.engines := rfl
@[simp] theorem State.modCore_ports (s : State) (u : UnitId) (f : Core → Core) : (s.modCore u f).ports = s.ports := rfl
@[simp] theorem State.modCore_dies (s : State) (u : UnitId) (f : Core → Core) : (s.modCore u f).dies = s.dies := rfl
@[simp] theorem State.modCore_parts (s : State) (u : UnitId) (f : Core → Core) : (s.modCore u f).parts = s.parts := rfl
@[simp] theorem State.modCore_tokens (s : State) (u : UnitId) (f : Core → Core) : (s.modCore u f).tokens = s.tokens := rfl
@[simp] theorem State.modCore_mcasts (s : State) (u : UnitId) (f : Core → Core) : (s.modCore u f).mcasts = s.mcasts := rfl
@[simp] theorem State.modCore_degraded (s : State) (u : UnitId) (f : Core → Core) : (s.modCore u f).degraded = s.degraded := rfl
@[simp] theorem State.modCore_bundles (s : State) (u : UnitId) (f : Core → Core) : (s.modCore u f).bundles = s.bundles := rfl
@[simp] theorem State.modCore_hostMem (s : State) (u : UnitId) (f : Core → Core) : (s.modCore u f).hostMem = s.hostMem := rfl
@[simp] theorem State.modCore_nvme (s : State) (u : UnitId) (f : Core → Core) : (s.modCore u f).nvme = s.nvme := rfl
@[simp] theorem State.modCore_replies (s : State) (u : UnitId) (f : Core → Core) : (s.modCore u f).replies = s.replies := rfl
@[simp] theorem State.modCore_images (s : State) (u : UnitId) (f : Core → Core) : (s.modCore u f).images = s.images := rfl
@[simp] theorem State.modCore_unsent (s : State) (u : UnitId) (f : Core → Core) : (s.modCore u f).unsent = s.unsent := rfl
@[simp] theorem State.modCore_dropCounts (s : State) (u : UnitId) (f : Core → Core) : (s.modCore u f).dropCounts = s.dropCounts := rfl

/-! ## setSlot -/

@[simp] theorem State.setSlot_cycle (s : State) (u : UnitId) (i : Nat) (x : Slot) : (s.setSlot u i x).cycle = s.cycle := rfl
@[simp] theorem State.setSlot_released (s : State) (u : UnitId) (i : Nat) (x : Slot) : (s.setSlot u i x).released = s.released := rfl
@[simp] theorem State.setSlot_agenda (s : State) (u : UnitId) (i : Nat) (x : Slot) : (s.setSlot u i x).agenda = s.agenda := rfl
@[simp] theorem State.setSlot_nextSeq (s : State) (u : UnitId) (i : Nat) (x : Slot) : (s.setSlot u i x).nextSeq = s.nextSeq := rfl
@[simp] theorem State.setSlot_freeCtr (s : State) (u : UnitId) (i : Nat) (x : Slot) : (s.setSlot u i x).freeCtr = s.freeCtr := rfl
@[simp] theorem State.setSlot_curUnit (s : State) (u : UnitId) (i : Nat) (x : Slot) : (s.setSlot u i x).curUnit = s.curUnit := rfl
@[simp] theorem State.setSlot_curSlot (s : State) (u : UnitId) (i : Nat) (x : Slot) : (s.setSlot u i x).curSlot = s.curSlot := rfl
@[simp] theorem State.setSlot_arg (s : State) (u : UnitId) (i : Nat) (x : Slot) : (s.setSlot u i x).arg = s.arg := rfl
@[simp] theorem State.setSlot_cursor (s : State) (u : UnitId) (i : Nat) (x : Slot) : (s.setSlot u i x).cursor = s.cursor := rfl
@[simp] theorem State.setSlot_fifo (s : State) (u : UnitId) (i : Nat) (x : Slot) : (s.setSlot u i x).fifo = s.fifo := rfl
@[simp] theorem State.setSlot_mem (s : State) (u : UnitId) (i : Nat) (x : Slot) : (s.setSlot u i x).mem = s.mem := rfl
@[simp] theorem State.setSlot_tags (s : State) (u : UnitId) (i : Nat) (x : Slot) : (s.setSlot u i x).tags = s.tags := rfl
@[simp] theorem State.setSlot_marks (s : State) (u : UnitId) (i : Nat) (x : Slot) : (s.setSlot u i x).marks = s.marks := rfl
@[simp] theorem State.setSlot_slices (s : State) (u : UnitId) (i : Nat) (x : Slot) : (s.setSlot u i x).slices = s.slices := rfl
@[simp] theorem State.setSlot_stations (s : State) (u : UnitId) (i : Nat) (x : Slot) : (s.setSlot u i x).stations = s.stations := rfl
@[simp] theorem State.setSlot_engines (s : State) (u : UnitId) (i : Nat) (x : Slot) : (s.setSlot u i x).engines = s.engines := rfl
@[simp] theorem State.setSlot_ports (s : State) (u : UnitId) (i : Nat) (x : Slot) : (s.setSlot u i x).ports = s.ports := rfl
@[simp] theorem State.setSlot_dies (s : State) (u : UnitId) (i : Nat) (x : Slot) : (s.setSlot u i x).dies = s.dies := rfl
@[simp] theorem State.setSlot_parts (s : State) (u : UnitId) (i : Nat) (x : Slot) : (s.setSlot u i x).parts = s.parts := rfl
@[simp] theorem State.setSlot_tokens (s : State) (u : UnitId) (i : Nat) (x : Slot) : (s.setSlot u i x).tokens = s.tokens := rfl
@[simp] theorem State.setSlot_mcasts (s : State) (u : UnitId) (i : Nat) (x : Slot) : (s.setSlot u i x).mcasts = s.mcasts := rfl
@[simp] theorem State.setSlot_degraded (s : State) (u : UnitId) (i : Nat) (x : Slot) : (s.setSlot u i x).degraded = s.degraded := rfl
@[simp] theorem State.setSlot_bundles (s : State) (u : UnitId) (i : Nat) (x : Slot) : (s.setSlot u i x).bundles = s.bundles := rfl
@[simp] theorem State.setSlot_hostMem (s : State) (u : UnitId) (i : Nat) (x : Slot) : (s.setSlot u i x).hostMem = s.hostMem := rfl
@[simp] theorem State.setSlot_nvme (s : State) (u : UnitId) (i : Nat) (x : Slot) : (s.setSlot u i x).nvme = s.nvme := rfl
@[simp] theorem State.setSlot_replies (s : State) (u : UnitId) (i : Nat) (x : Slot) : (s.setSlot u i x).replies = s.replies := rfl
@[simp] theorem State.setSlot_images (s : State) (u : UnitId) (i : Nat) (x : Slot) : (s.setSlot u i x).images = s.images := rfl
@[simp] theorem State.setSlot_unsent (s : State) (u : UnitId) (i : Nat) (x : Slot) : (s.setSlot u i x).unsent = s.unsent := rfl
@[simp] theorem State.setSlot_dropCounts (s : State) (u : UnitId) (i : Nat) (x : Slot) : (s.setSlot u i x).dropCounts = s.dropCounts := rfl

/-! ## modSlot -/

@[simp] theorem State.modSlot_cycle (s : State) (u : UnitId) (i : Nat) (f : Slot → Slot) : (s.modSlot u i f).cycle = s.cycle := rfl
@[simp] theorem State.modSlot_released (s : State) (u : UnitId) (i : Nat) (f : Slot → Slot) : (s.modSlot u i f).released = s.released := rfl
@[simp] theorem State.modSlot_agenda (s : State) (u : UnitId) (i : Nat) (f : Slot → Slot) : (s.modSlot u i f).agenda = s.agenda := rfl
@[simp] theorem State.modSlot_nextSeq (s : State) (u : UnitId) (i : Nat) (f : Slot → Slot) : (s.modSlot u i f).nextSeq = s.nextSeq := rfl
@[simp] theorem State.modSlot_freeCtr (s : State) (u : UnitId) (i : Nat) (f : Slot → Slot) : (s.modSlot u i f).freeCtr = s.freeCtr := rfl
@[simp] theorem State.modSlot_curUnit (s : State) (u : UnitId) (i : Nat) (f : Slot → Slot) : (s.modSlot u i f).curUnit = s.curUnit := rfl
@[simp] theorem State.modSlot_curSlot (s : State) (u : UnitId) (i : Nat) (f : Slot → Slot) : (s.modSlot u i f).curSlot = s.curSlot := rfl
@[simp] theorem State.modSlot_arg (s : State) (u : UnitId) (i : Nat) (f : Slot → Slot) : (s.modSlot u i f).arg = s.arg := rfl
@[simp] theorem State.modSlot_cursor (s : State) (u : UnitId) (i : Nat) (f : Slot → Slot) : (s.modSlot u i f).cursor = s.cursor := rfl
@[simp] theorem State.modSlot_fifo (s : State) (u : UnitId) (i : Nat) (f : Slot → Slot) : (s.modSlot u i f).fifo = s.fifo := rfl
@[simp] theorem State.modSlot_mem (s : State) (u : UnitId) (i : Nat) (f : Slot → Slot) : (s.modSlot u i f).mem = s.mem := rfl
@[simp] theorem State.modSlot_tags (s : State) (u : UnitId) (i : Nat) (f : Slot → Slot) : (s.modSlot u i f).tags = s.tags := rfl
@[simp] theorem State.modSlot_marks (s : State) (u : UnitId) (i : Nat) (f : Slot → Slot) : (s.modSlot u i f).marks = s.marks := rfl
@[simp] theorem State.modSlot_slices (s : State) (u : UnitId) (i : Nat) (f : Slot → Slot) : (s.modSlot u i f).slices = s.slices := rfl
@[simp] theorem State.modSlot_stations (s : State) (u : UnitId) (i : Nat) (f : Slot → Slot) : (s.modSlot u i f).stations = s.stations := rfl
@[simp] theorem State.modSlot_engines (s : State) (u : UnitId) (i : Nat) (f : Slot → Slot) : (s.modSlot u i f).engines = s.engines := rfl
@[simp] theorem State.modSlot_ports (s : State) (u : UnitId) (i : Nat) (f : Slot → Slot) : (s.modSlot u i f).ports = s.ports := rfl
@[simp] theorem State.modSlot_dies (s : State) (u : UnitId) (i : Nat) (f : Slot → Slot) : (s.modSlot u i f).dies = s.dies := rfl
@[simp] theorem State.modSlot_parts (s : State) (u : UnitId) (i : Nat) (f : Slot → Slot) : (s.modSlot u i f).parts = s.parts := rfl
@[simp] theorem State.modSlot_tokens (s : State) (u : UnitId) (i : Nat) (f : Slot → Slot) : (s.modSlot u i f).tokens = s.tokens := rfl
@[simp] theorem State.modSlot_mcasts (s : State) (u : UnitId) (i : Nat) (f : Slot → Slot) : (s.modSlot u i f).mcasts = s.mcasts := rfl
@[simp] theorem State.modSlot_degraded (s : State) (u : UnitId) (i : Nat) (f : Slot → Slot) : (s.modSlot u i f).degraded = s.degraded := rfl
@[simp] theorem State.modSlot_bundles (s : State) (u : UnitId) (i : Nat) (f : Slot → Slot) : (s.modSlot u i f).bundles = s.bundles := rfl
@[simp] theorem State.modSlot_hostMem (s : State) (u : UnitId) (i : Nat) (f : Slot → Slot) : (s.modSlot u i f).hostMem = s.hostMem := rfl
@[simp] theorem State.modSlot_nvme (s : State) (u : UnitId) (i : Nat) (f : Slot → Slot) : (s.modSlot u i f).nvme = s.nvme := rfl
@[simp] theorem State.modSlot_replies (s : State) (u : UnitId) (i : Nat) (f : Slot → Slot) : (s.modSlot u i f).replies = s.replies := rfl
@[simp] theorem State.modSlot_images (s : State) (u : UnitId) (i : Nat) (f : Slot → Slot) : (s.modSlot u i f).images = s.images := rfl
@[simp] theorem State.modSlot_unsent (s : State) (u : UnitId) (i : Nat) (f : Slot → Slot) : (s.modSlot u i f).unsent = s.unsent := rfl
@[simp] theorem State.modSlot_dropCounts (s : State) (u : UnitId) (i : Nat) (f : Slot → Slot) : (s.modSlot u i f).dropCounts = s.dropCounts := rfl

/-! ## modCur -/

@[simp] theorem State.modCur_cycle (s : State) (f : Slot → Slot) : (s.modCur f).cycle = s.cycle := rfl
@[simp] theorem State.modCur_released (s : State) (f : Slot → Slot) : (s.modCur f).released = s.released := rfl
@[simp] theorem State.modCur_agenda (s : State) (f : Slot → Slot) : (s.modCur f).agenda = s.agenda := rfl
@[simp] theorem State.modCur_nextSeq (s : State) (f : Slot → Slot) : (s.modCur f).nextSeq = s.nextSeq := rfl
@[simp] theorem State.modCur_freeCtr (s : State) (f : Slot → Slot) : (s.modCur f).freeCtr = s.freeCtr := rfl
@[simp] theorem State.modCur_curUnit (s : State) (f : Slot → Slot) : (s.modCur f).curUnit = s.curUnit := rfl
@[simp] theorem State.modCur_curSlot (s : State) (f : Slot → Slot) : (s.modCur f).curSlot = s.curSlot := rfl
@[simp] theorem State.modCur_arg (s : State) (f : Slot → Slot) : (s.modCur f).arg = s.arg := rfl
@[simp] theorem State.modCur_cursor (s : State) (f : Slot → Slot) : (s.modCur f).cursor = s.cursor := rfl
@[simp] theorem State.modCur_fifo (s : State) (f : Slot → Slot) : (s.modCur f).fifo = s.fifo := rfl
@[simp] theorem State.modCur_mem (s : State) (f : Slot → Slot) : (s.modCur f).mem = s.mem := rfl
@[simp] theorem State.modCur_tags (s : State) (f : Slot → Slot) : (s.modCur f).tags = s.tags := rfl
@[simp] theorem State.modCur_marks (s : State) (f : Slot → Slot) : (s.modCur f).marks = s.marks := rfl
@[simp] theorem State.modCur_slices (s : State) (f : Slot → Slot) : (s.modCur f).slices = s.slices := rfl
@[simp] theorem State.modCur_stations (s : State) (f : Slot → Slot) : (s.modCur f).stations = s.stations := rfl
@[simp] theorem State.modCur_engines (s : State) (f : Slot → Slot) : (s.modCur f).engines = s.engines := rfl
@[simp] theorem State.modCur_ports (s : State) (f : Slot → Slot) : (s.modCur f).ports = s.ports := rfl
@[simp] theorem State.modCur_dies (s : State) (f : Slot → Slot) : (s.modCur f).dies = s.dies := rfl
@[simp] theorem State.modCur_parts (s : State) (f : Slot → Slot) : (s.modCur f).parts = s.parts := rfl
@[simp] theorem State.modCur_tokens (s : State) (f : Slot → Slot) : (s.modCur f).tokens = s.tokens := rfl
@[simp] theorem State.modCur_mcasts (s : State) (f : Slot → Slot) : (s.modCur f).mcasts = s.mcasts := rfl
@[simp] theorem State.modCur_degraded (s : State) (f : Slot → Slot) : (s.modCur f).degraded = s.degraded := rfl
@[simp] theorem State.modCur_bundles (s : State) (f : Slot → Slot) : (s.modCur f).bundles = s.bundles := rfl
@[simp] theorem State.modCur_hostMem (s : State) (f : Slot → Slot) : (s.modCur f).hostMem = s.hostMem := rfl
@[simp] theorem State.modCur_nvme (s : State) (f : Slot → Slot) : (s.modCur f).nvme = s.nvme := rfl
@[simp] theorem State.modCur_replies (s : State) (f : Slot → Slot) : (s.modCur f).replies = s.replies := rfl
@[simp] theorem State.modCur_images (s : State) (f : Slot → Slot) : (s.modCur f).images = s.images := rfl
@[simp] theorem State.modCur_unsent (s : State) (f : Slot → Slot) : (s.modCur f).unsent = s.unsent := rfl
@[simp] theorem State.modCur_dropCounts (s : State) (f : Slot → Slot) : (s.modCur f).dropCounts = s.dropCounts := rfl

/-! ## modCurCore -/

@[simp] theorem State.modCurCore_cycle (s : State) (f : Core → Core) : (s.modCurCore f).cycle = s.cycle := rfl
@[simp] theorem State.modCurCore_released (s : State) (f : Core → Core) : (s.modCurCore f).released = s.released := rfl
@[simp] theorem State.modCurCore_agenda (s : State) (f : Core → Core) : (s.modCurCore f).agenda = s.agenda := rfl
@[simp] theorem State.modCurCore_nextSeq (s : State) (f : Core → Core) : (s.modCurCore f).nextSeq = s.nextSeq := rfl
@[simp] theorem State.modCurCore_freeCtr (s : State) (f : Core → Core) : (s.modCurCore f).freeCtr = s.freeCtr := rfl
@[simp] theorem State.modCurCore_curUnit (s : State) (f : Core → Core) : (s.modCurCore f).curUnit = s.curUnit := rfl
@[simp] theorem State.modCurCore_curSlot (s : State) (f : Core → Core) : (s.modCurCore f).curSlot = s.curSlot := rfl
@[simp] theorem State.modCurCore_arg (s : State) (f : Core → Core) : (s.modCurCore f).arg = s.arg := rfl
@[simp] theorem State.modCurCore_cursor (s : State) (f : Core → Core) : (s.modCurCore f).cursor = s.cursor := rfl
@[simp] theorem State.modCurCore_fifo (s : State) (f : Core → Core) : (s.modCurCore f).fifo = s.fifo := rfl
@[simp] theorem State.modCurCore_mem (s : State) (f : Core → Core) : (s.modCurCore f).mem = s.mem := rfl
@[simp] theorem State.modCurCore_tags (s : State) (f : Core → Core) : (s.modCurCore f).tags = s.tags := rfl
@[simp] theorem State.modCurCore_marks (s : State) (f : Core → Core) : (s.modCurCore f).marks = s.marks := rfl
@[simp] theorem State.modCurCore_slices (s : State) (f : Core → Core) : (s.modCurCore f).slices = s.slices := rfl
@[simp] theorem State.modCurCore_stations (s : State) (f : Core → Core) : (s.modCurCore f).stations = s.stations := rfl
@[simp] theorem State.modCurCore_engines (s : State) (f : Core → Core) : (s.modCurCore f).engines = s.engines := rfl
@[simp] theorem State.modCurCore_ports (s : State) (f : Core → Core) : (s.modCurCore f).ports = s.ports := rfl
@[simp] theorem State.modCurCore_dies (s : State) (f : Core → Core) : (s.modCurCore f).dies = s.dies := rfl
@[simp] theorem State.modCurCore_parts (s : State) (f : Core → Core) : (s.modCurCore f).parts = s.parts := rfl
@[simp] theorem State.modCurCore_tokens (s : State) (f : Core → Core) : (s.modCurCore f).tokens = s.tokens := rfl
@[simp] theorem State.modCurCore_mcasts (s : State) (f : Core → Core) : (s.modCurCore f).mcasts = s.mcasts := rfl
@[simp] theorem State.modCurCore_degraded (s : State) (f : Core → Core) : (s.modCurCore f).degraded = s.degraded := rfl
@[simp] theorem State.modCurCore_bundles (s : State) (f : Core → Core) : (s.modCurCore f).bundles = s.bundles := rfl
@[simp] theorem State.modCurCore_hostMem (s : State) (f : Core → Core) : (s.modCurCore f).hostMem = s.hostMem := rfl
@[simp] theorem State.modCurCore_nvme (s : State) (f : Core → Core) : (s.modCurCore f).nvme = s.nvme := rfl
@[simp] theorem State.modCurCore_replies (s : State) (f : Core → Core) : (s.modCurCore f).replies = s.replies := rfl
@[simp] theorem State.modCurCore_images (s : State) (f : Core → Core) : (s.modCurCore f).images = s.images := rfl
@[simp] theorem State.modCurCore_unsent (s : State) (f : Core → Core) : (s.modCurCore f).unsent = s.unsent := rfl
@[simp] theorem State.modCurCore_dropCounts (s : State) (f : Core → Core) : (s.modCurCore f).dropCounts = s.dropCounts := rfl

/-! ## setSlice -/

@[simp] theorem State.setSlice_cycle (s : State) (id : Nat) (x : Slice) : (s.setSlice id x).cycle = s.cycle := rfl
@[simp] theorem State.setSlice_released (s : State) (id : Nat) (x : Slice) : (s.setSlice id x).released = s.released := rfl
@[simp] theorem State.setSlice_agenda (s : State) (id : Nat) (x : Slice) : (s.setSlice id x).agenda = s.agenda := rfl
@[simp] theorem State.setSlice_nextSeq (s : State) (id : Nat) (x : Slice) : (s.setSlice id x).nextSeq = s.nextSeq := rfl
@[simp] theorem State.setSlice_freeCtr (s : State) (id : Nat) (x : Slice) : (s.setSlice id x).freeCtr = s.freeCtr := rfl
@[simp] theorem State.setSlice_curUnit (s : State) (id : Nat) (x : Slice) : (s.setSlice id x).curUnit = s.curUnit := rfl
@[simp] theorem State.setSlice_curSlot (s : State) (id : Nat) (x : Slice) : (s.setSlice id x).curSlot = s.curSlot := rfl
@[simp] theorem State.setSlice_arg (s : State) (id : Nat) (x : Slice) : (s.setSlice id x).arg = s.arg := rfl
@[simp] theorem State.setSlice_cursor (s : State) (id : Nat) (x : Slice) : (s.setSlice id x).cursor = s.cursor := rfl
@[simp] theorem State.setSlice_fifo (s : State) (id : Nat) (x : Slice) : (s.setSlice id x).fifo = s.fifo := rfl
@[simp] theorem State.setSlice_mem (s : State) (id : Nat) (x : Slice) : (s.setSlice id x).mem = s.mem := rfl
@[simp] theorem State.setSlice_tags (s : State) (id : Nat) (x : Slice) : (s.setSlice id x).tags = s.tags := rfl
@[simp] theorem State.setSlice_marks (s : State) (id : Nat) (x : Slice) : (s.setSlice id x).marks = s.marks := rfl
@[simp] theorem State.setSlice_cores (s : State) (id : Nat) (x : Slice) : (s.setSlice id x).cores = s.cores := rfl
@[simp] theorem State.setSlice_stations (s : State) (id : Nat) (x : Slice) : (s.setSlice id x).stations = s.stations := rfl
@[simp] theorem State.setSlice_engines (s : State) (id : Nat) (x : Slice) : (s.setSlice id x).engines = s.engines := rfl
@[simp] theorem State.setSlice_ports (s : State) (id : Nat) (x : Slice) : (s.setSlice id x).ports = s.ports := rfl
@[simp] theorem State.setSlice_dies (s : State) (id : Nat) (x : Slice) : (s.setSlice id x).dies = s.dies := rfl
@[simp] theorem State.setSlice_parts (s : State) (id : Nat) (x : Slice) : (s.setSlice id x).parts = s.parts := rfl
@[simp] theorem State.setSlice_tokens (s : State) (id : Nat) (x : Slice) : (s.setSlice id x).tokens = s.tokens := rfl
@[simp] theorem State.setSlice_mcasts (s : State) (id : Nat) (x : Slice) : (s.setSlice id x).mcasts = s.mcasts := rfl
@[simp] theorem State.setSlice_degraded (s : State) (id : Nat) (x : Slice) : (s.setSlice id x).degraded = s.degraded := rfl
@[simp] theorem State.setSlice_bundles (s : State) (id : Nat) (x : Slice) : (s.setSlice id x).bundles = s.bundles := rfl
@[simp] theorem State.setSlice_hostMem (s : State) (id : Nat) (x : Slice) : (s.setSlice id x).hostMem = s.hostMem := rfl
@[simp] theorem State.setSlice_nvme (s : State) (id : Nat) (x : Slice) : (s.setSlice id x).nvme = s.nvme := rfl
@[simp] theorem State.setSlice_replies (s : State) (id : Nat) (x : Slice) : (s.setSlice id x).replies = s.replies := rfl
@[simp] theorem State.setSlice_images (s : State) (id : Nat) (x : Slice) : (s.setSlice id x).images = s.images := rfl
@[simp] theorem State.setSlice_unsent (s : State) (id : Nat) (x : Slice) : (s.setSlice id x).unsent = s.unsent := rfl
@[simp] theorem State.setSlice_dropCounts (s : State) (id : Nat) (x : Slice) : (s.setSlice id x).dropCounts = s.dropCounts := rfl

/-! ## modSlice -/

@[simp] theorem State.modSlice_cycle (s : State) (id : Nat) (f : Slice → Slice) : (s.modSlice id f).cycle = s.cycle := rfl
@[simp] theorem State.modSlice_released (s : State) (id : Nat) (f : Slice → Slice) : (s.modSlice id f).released = s.released := rfl
@[simp] theorem State.modSlice_agenda (s : State) (id : Nat) (f : Slice → Slice) : (s.modSlice id f).agenda = s.agenda := rfl
@[simp] theorem State.modSlice_nextSeq (s : State) (id : Nat) (f : Slice → Slice) : (s.modSlice id f).nextSeq = s.nextSeq := rfl
@[simp] theorem State.modSlice_freeCtr (s : State) (id : Nat) (f : Slice → Slice) : (s.modSlice id f).freeCtr = s.freeCtr := rfl
@[simp] theorem State.modSlice_curUnit (s : State) (id : Nat) (f : Slice → Slice) : (s.modSlice id f).curUnit = s.curUnit := rfl
@[simp] theorem State.modSlice_curSlot (s : State) (id : Nat) (f : Slice → Slice) : (s.modSlice id f).curSlot = s.curSlot := rfl
@[simp] theorem State.modSlice_arg (s : State) (id : Nat) (f : Slice → Slice) : (s.modSlice id f).arg = s.arg := rfl
@[simp] theorem State.modSlice_cursor (s : State) (id : Nat) (f : Slice → Slice) : (s.modSlice id f).cursor = s.cursor := rfl
@[simp] theorem State.modSlice_fifo (s : State) (id : Nat) (f : Slice → Slice) : (s.modSlice id f).fifo = s.fifo := rfl
@[simp] theorem State.modSlice_mem (s : State) (id : Nat) (f : Slice → Slice) : (s.modSlice id f).mem = s.mem := rfl
@[simp] theorem State.modSlice_tags (s : State) (id : Nat) (f : Slice → Slice) : (s.modSlice id f).tags = s.tags := rfl
@[simp] theorem State.modSlice_marks (s : State) (id : Nat) (f : Slice → Slice) : (s.modSlice id f).marks = s.marks := rfl
@[simp] theorem State.modSlice_cores (s : State) (id : Nat) (f : Slice → Slice) : (s.modSlice id f).cores = s.cores := rfl
@[simp] theorem State.modSlice_stations (s : State) (id : Nat) (f : Slice → Slice) : (s.modSlice id f).stations = s.stations := rfl
@[simp] theorem State.modSlice_engines (s : State) (id : Nat) (f : Slice → Slice) : (s.modSlice id f).engines = s.engines := rfl
@[simp] theorem State.modSlice_ports (s : State) (id : Nat) (f : Slice → Slice) : (s.modSlice id f).ports = s.ports := rfl
@[simp] theorem State.modSlice_dies (s : State) (id : Nat) (f : Slice → Slice) : (s.modSlice id f).dies = s.dies := rfl
@[simp] theorem State.modSlice_parts (s : State) (id : Nat) (f : Slice → Slice) : (s.modSlice id f).parts = s.parts := rfl
@[simp] theorem State.modSlice_tokens (s : State) (id : Nat) (f : Slice → Slice) : (s.modSlice id f).tokens = s.tokens := rfl
@[simp] theorem State.modSlice_mcasts (s : State) (id : Nat) (f : Slice → Slice) : (s.modSlice id f).mcasts = s.mcasts := rfl
@[simp] theorem State.modSlice_degraded (s : State) (id : Nat) (f : Slice → Slice) : (s.modSlice id f).degraded = s.degraded := rfl
@[simp] theorem State.modSlice_bundles (s : State) (id : Nat) (f : Slice → Slice) : (s.modSlice id f).bundles = s.bundles := rfl
@[simp] theorem State.modSlice_hostMem (s : State) (id : Nat) (f : Slice → Slice) : (s.modSlice id f).hostMem = s.hostMem := rfl
@[simp] theorem State.modSlice_nvme (s : State) (id : Nat) (f : Slice → Slice) : (s.modSlice id f).nvme = s.nvme := rfl
@[simp] theorem State.modSlice_replies (s : State) (id : Nat) (f : Slice → Slice) : (s.modSlice id f).replies = s.replies := rfl
@[simp] theorem State.modSlice_images (s : State) (id : Nat) (f : Slice → Slice) : (s.modSlice id f).images = s.images := rfl
@[simp] theorem State.modSlice_unsent (s : State) (id : Nat) (f : Slice → Slice) : (s.modSlice id f).unsent = s.unsent := rfl
@[simp] theorem State.modSlice_dropCounts (s : State) (id : Nat) (f : Slice → Slice) : (s.modSlice id f).dropCounts = s.dropCounts := rfl

/-! ## modStation -/

@[simp] theorem State.modStation_cycle (s : State) (id : Nat) (f : Station → Station) : (s.modStation id f).cycle = s.cycle := rfl
@[simp] theorem State.modStation_released (s : State) (id : Nat) (f : Station → Station) : (s.modStation id f).released = s.released := rfl
@[simp] theorem State.modStation_agenda (s : State) (id : Nat) (f : Station → Station) : (s.modStation id f).agenda = s.agenda := rfl
@[simp] theorem State.modStation_nextSeq (s : State) (id : Nat) (f : Station → Station) : (s.modStation id f).nextSeq = s.nextSeq := rfl
@[simp] theorem State.modStation_freeCtr (s : State) (id : Nat) (f : Station → Station) : (s.modStation id f).freeCtr = s.freeCtr := rfl
@[simp] theorem State.modStation_curUnit (s : State) (id : Nat) (f : Station → Station) : (s.modStation id f).curUnit = s.curUnit := rfl
@[simp] theorem State.modStation_curSlot (s : State) (id : Nat) (f : Station → Station) : (s.modStation id f).curSlot = s.curSlot := rfl
@[simp] theorem State.modStation_arg (s : State) (id : Nat) (f : Station → Station) : (s.modStation id f).arg = s.arg := rfl
@[simp] theorem State.modStation_cursor (s : State) (id : Nat) (f : Station → Station) : (s.modStation id f).cursor = s.cursor := rfl
@[simp] theorem State.modStation_fifo (s : State) (id : Nat) (f : Station → Station) : (s.modStation id f).fifo = s.fifo := rfl
@[simp] theorem State.modStation_mem (s : State) (id : Nat) (f : Station → Station) : (s.modStation id f).mem = s.mem := rfl
@[simp] theorem State.modStation_tags (s : State) (id : Nat) (f : Station → Station) : (s.modStation id f).tags = s.tags := rfl
@[simp] theorem State.modStation_marks (s : State) (id : Nat) (f : Station → Station) : (s.modStation id f).marks = s.marks := rfl
@[simp] theorem State.modStation_cores (s : State) (id : Nat) (f : Station → Station) : (s.modStation id f).cores = s.cores := rfl
@[simp] theorem State.modStation_slices (s : State) (id : Nat) (f : Station → Station) : (s.modStation id f).slices = s.slices := rfl
@[simp] theorem State.modStation_engines (s : State) (id : Nat) (f : Station → Station) : (s.modStation id f).engines = s.engines := rfl
@[simp] theorem State.modStation_ports (s : State) (id : Nat) (f : Station → Station) : (s.modStation id f).ports = s.ports := rfl
@[simp] theorem State.modStation_dies (s : State) (id : Nat) (f : Station → Station) : (s.modStation id f).dies = s.dies := rfl
@[simp] theorem State.modStation_parts (s : State) (id : Nat) (f : Station → Station) : (s.modStation id f).parts = s.parts := rfl
@[simp] theorem State.modStation_tokens (s : State) (id : Nat) (f : Station → Station) : (s.modStation id f).tokens = s.tokens := rfl
@[simp] theorem State.modStation_mcasts (s : State) (id : Nat) (f : Station → Station) : (s.modStation id f).mcasts = s.mcasts := rfl
@[simp] theorem State.modStation_degraded (s : State) (id : Nat) (f : Station → Station) : (s.modStation id f).degraded = s.degraded := rfl
@[simp] theorem State.modStation_bundles (s : State) (id : Nat) (f : Station → Station) : (s.modStation id f).bundles = s.bundles := rfl
@[simp] theorem State.modStation_hostMem (s : State) (id : Nat) (f : Station → Station) : (s.modStation id f).hostMem = s.hostMem := rfl
@[simp] theorem State.modStation_nvme (s : State) (id : Nat) (f : Station → Station) : (s.modStation id f).nvme = s.nvme := rfl
@[simp] theorem State.modStation_replies (s : State) (id : Nat) (f : Station → Station) : (s.modStation id f).replies = s.replies := rfl
@[simp] theorem State.modStation_images (s : State) (id : Nat) (f : Station → Station) : (s.modStation id f).images = s.images := rfl
@[simp] theorem State.modStation_unsent (s : State) (id : Nat) (f : Station → Station) : (s.modStation id f).unsent = s.unsent := rfl
@[simp] theorem State.modStation_dropCounts (s : State) (id : Nat) (f : Station → Station) : (s.modStation id f).dropCounts = s.dropCounts := rfl

/-! ## modEngine -/

@[simp] theorem State.modEngine_cycle (s : State) (d : Nat) (f : PortEngine → PortEngine) : (s.modEngine d f).cycle = s.cycle := rfl
@[simp] theorem State.modEngine_released (s : State) (d : Nat) (f : PortEngine → PortEngine) : (s.modEngine d f).released = s.released := rfl
@[simp] theorem State.modEngine_agenda (s : State) (d : Nat) (f : PortEngine → PortEngine) : (s.modEngine d f).agenda = s.agenda := rfl
@[simp] theorem State.modEngine_nextSeq (s : State) (d : Nat) (f : PortEngine → PortEngine) : (s.modEngine d f).nextSeq = s.nextSeq := rfl
@[simp] theorem State.modEngine_freeCtr (s : State) (d : Nat) (f : PortEngine → PortEngine) : (s.modEngine d f).freeCtr = s.freeCtr := rfl
@[simp] theorem State.modEngine_curUnit (s : State) (d : Nat) (f : PortEngine → PortEngine) : (s.modEngine d f).curUnit = s.curUnit := rfl
@[simp] theorem State.modEngine_curSlot (s : State) (d : Nat) (f : PortEngine → PortEngine) : (s.modEngine d f).curSlot = s.curSlot := rfl
@[simp] theorem State.modEngine_arg (s : State) (d : Nat) (f : PortEngine → PortEngine) : (s.modEngine d f).arg = s.arg := rfl
@[simp] theorem State.modEngine_cursor (s : State) (d : Nat) (f : PortEngine → PortEngine) : (s.modEngine d f).cursor = s.cursor := rfl
@[simp] theorem State.modEngine_fifo (s : State) (d : Nat) (f : PortEngine → PortEngine) : (s.modEngine d f).fifo = s.fifo := rfl
@[simp] theorem State.modEngine_mem (s : State) (d : Nat) (f : PortEngine → PortEngine) : (s.modEngine d f).mem = s.mem := rfl
@[simp] theorem State.modEngine_tags (s : State) (d : Nat) (f : PortEngine → PortEngine) : (s.modEngine d f).tags = s.tags := rfl
@[simp] theorem State.modEngine_marks (s : State) (d : Nat) (f : PortEngine → PortEngine) : (s.modEngine d f).marks = s.marks := rfl
@[simp] theorem State.modEngine_cores (s : State) (d : Nat) (f : PortEngine → PortEngine) : (s.modEngine d f).cores = s.cores := rfl
@[simp] theorem State.modEngine_slices (s : State) (d : Nat) (f : PortEngine → PortEngine) : (s.modEngine d f).slices = s.slices := rfl
@[simp] theorem State.modEngine_stations (s : State) (d : Nat) (f : PortEngine → PortEngine) : (s.modEngine d f).stations = s.stations := rfl
@[simp] theorem State.modEngine_ports (s : State) (d : Nat) (f : PortEngine → PortEngine) : (s.modEngine d f).ports = s.ports := rfl
@[simp] theorem State.modEngine_dies (s : State) (d : Nat) (f : PortEngine → PortEngine) : (s.modEngine d f).dies = s.dies := rfl
@[simp] theorem State.modEngine_parts (s : State) (d : Nat) (f : PortEngine → PortEngine) : (s.modEngine d f).parts = s.parts := rfl
@[simp] theorem State.modEngine_tokens (s : State) (d : Nat) (f : PortEngine → PortEngine) : (s.modEngine d f).tokens = s.tokens := rfl
@[simp] theorem State.modEngine_mcasts (s : State) (d : Nat) (f : PortEngine → PortEngine) : (s.modEngine d f).mcasts = s.mcasts := rfl
@[simp] theorem State.modEngine_degraded (s : State) (d : Nat) (f : PortEngine → PortEngine) : (s.modEngine d f).degraded = s.degraded := rfl
@[simp] theorem State.modEngine_bundles (s : State) (d : Nat) (f : PortEngine → PortEngine) : (s.modEngine d f).bundles = s.bundles := rfl
@[simp] theorem State.modEngine_hostMem (s : State) (d : Nat) (f : PortEngine → PortEngine) : (s.modEngine d f).hostMem = s.hostMem := rfl
@[simp] theorem State.modEngine_nvme (s : State) (d : Nat) (f : PortEngine → PortEngine) : (s.modEngine d f).nvme = s.nvme := rfl
@[simp] theorem State.modEngine_replies (s : State) (d : Nat) (f : PortEngine → PortEngine) : (s.modEngine d f).replies = s.replies := rfl
@[simp] theorem State.modEngine_images (s : State) (d : Nat) (f : PortEngine → PortEngine) : (s.modEngine d f).images = s.images := rfl
@[simp] theorem State.modEngine_unsent (s : State) (d : Nat) (f : PortEngine → PortEngine) : (s.modEngine d f).unsent = s.unsent := rfl
@[simp] theorem State.modEngine_dropCounts (s : State) (d : Nat) (f : PortEngine → PortEngine) : (s.modEngine d f).dropCounts = s.dropCounts := rfl

/-! ## modPort -/

@[simp] theorem State.modPort_cycle (s : State) (id : Nat) (f : D2dPort → D2dPort) : (s.modPort id f).cycle = s.cycle := rfl
@[simp] theorem State.modPort_released (s : State) (id : Nat) (f : D2dPort → D2dPort) : (s.modPort id f).released = s.released := rfl
@[simp] theorem State.modPort_agenda (s : State) (id : Nat) (f : D2dPort → D2dPort) : (s.modPort id f).agenda = s.agenda := rfl
@[simp] theorem State.modPort_nextSeq (s : State) (id : Nat) (f : D2dPort → D2dPort) : (s.modPort id f).nextSeq = s.nextSeq := rfl
@[simp] theorem State.modPort_freeCtr (s : State) (id : Nat) (f : D2dPort → D2dPort) : (s.modPort id f).freeCtr = s.freeCtr := rfl
@[simp] theorem State.modPort_curUnit (s : State) (id : Nat) (f : D2dPort → D2dPort) : (s.modPort id f).curUnit = s.curUnit := rfl
@[simp] theorem State.modPort_curSlot (s : State) (id : Nat) (f : D2dPort → D2dPort) : (s.modPort id f).curSlot = s.curSlot := rfl
@[simp] theorem State.modPort_arg (s : State) (id : Nat) (f : D2dPort → D2dPort) : (s.modPort id f).arg = s.arg := rfl
@[simp] theorem State.modPort_cursor (s : State) (id : Nat) (f : D2dPort → D2dPort) : (s.modPort id f).cursor = s.cursor := rfl
@[simp] theorem State.modPort_fifo (s : State) (id : Nat) (f : D2dPort → D2dPort) : (s.modPort id f).fifo = s.fifo := rfl
@[simp] theorem State.modPort_mem (s : State) (id : Nat) (f : D2dPort → D2dPort) : (s.modPort id f).mem = s.mem := rfl
@[simp] theorem State.modPort_tags (s : State) (id : Nat) (f : D2dPort → D2dPort) : (s.modPort id f).tags = s.tags := rfl
@[simp] theorem State.modPort_marks (s : State) (id : Nat) (f : D2dPort → D2dPort) : (s.modPort id f).marks = s.marks := rfl
@[simp] theorem State.modPort_cores (s : State) (id : Nat) (f : D2dPort → D2dPort) : (s.modPort id f).cores = s.cores := rfl
@[simp] theorem State.modPort_slices (s : State) (id : Nat) (f : D2dPort → D2dPort) : (s.modPort id f).slices = s.slices := rfl
@[simp] theorem State.modPort_stations (s : State) (id : Nat) (f : D2dPort → D2dPort) : (s.modPort id f).stations = s.stations := rfl
@[simp] theorem State.modPort_engines (s : State) (id : Nat) (f : D2dPort → D2dPort) : (s.modPort id f).engines = s.engines := rfl
@[simp] theorem State.modPort_dies (s : State) (id : Nat) (f : D2dPort → D2dPort) : (s.modPort id f).dies = s.dies := rfl
@[simp] theorem State.modPort_parts (s : State) (id : Nat) (f : D2dPort → D2dPort) : (s.modPort id f).parts = s.parts := rfl
@[simp] theorem State.modPort_tokens (s : State) (id : Nat) (f : D2dPort → D2dPort) : (s.modPort id f).tokens = s.tokens := rfl
@[simp] theorem State.modPort_mcasts (s : State) (id : Nat) (f : D2dPort → D2dPort) : (s.modPort id f).mcasts = s.mcasts := rfl
@[simp] theorem State.modPort_degraded (s : State) (id : Nat) (f : D2dPort → D2dPort) : (s.modPort id f).degraded = s.degraded := rfl
@[simp] theorem State.modPort_bundles (s : State) (id : Nat) (f : D2dPort → D2dPort) : (s.modPort id f).bundles = s.bundles := rfl
@[simp] theorem State.modPort_hostMem (s : State) (id : Nat) (f : D2dPort → D2dPort) : (s.modPort id f).hostMem = s.hostMem := rfl
@[simp] theorem State.modPort_nvme (s : State) (id : Nat) (f : D2dPort → D2dPort) : (s.modPort id f).nvme = s.nvme := rfl
@[simp] theorem State.modPort_replies (s : State) (id : Nat) (f : D2dPort → D2dPort) : (s.modPort id f).replies = s.replies := rfl
@[simp] theorem State.modPort_images (s : State) (id : Nat) (f : D2dPort → D2dPort) : (s.modPort id f).images = s.images := rfl
@[simp] theorem State.modPort_unsent (s : State) (id : Nat) (f : D2dPort → D2dPort) : (s.modPort id f).unsent = s.unsent := rfl
@[simp] theorem State.modPort_dropCounts (s : State) (id : Nat) (f : D2dPort → D2dPort) : (s.modPort id f).dropCounts = s.dropCounts := rfl

/-! ## modDie -/

@[simp] theorem State.modDie_cycle (s : State) (d : Nat) (f : Die → Die) : (s.modDie d f).cycle = s.cycle := rfl
@[simp] theorem State.modDie_released (s : State) (d : Nat) (f : Die → Die) : (s.modDie d f).released = s.released := rfl
@[simp] theorem State.modDie_agenda (s : State) (d : Nat) (f : Die → Die) : (s.modDie d f).agenda = s.agenda := rfl
@[simp] theorem State.modDie_nextSeq (s : State) (d : Nat) (f : Die → Die) : (s.modDie d f).nextSeq = s.nextSeq := rfl
@[simp] theorem State.modDie_freeCtr (s : State) (d : Nat) (f : Die → Die) : (s.modDie d f).freeCtr = s.freeCtr := rfl
@[simp] theorem State.modDie_curUnit (s : State) (d : Nat) (f : Die → Die) : (s.modDie d f).curUnit = s.curUnit := rfl
@[simp] theorem State.modDie_curSlot (s : State) (d : Nat) (f : Die → Die) : (s.modDie d f).curSlot = s.curSlot := rfl
@[simp] theorem State.modDie_arg (s : State) (d : Nat) (f : Die → Die) : (s.modDie d f).arg = s.arg := rfl
@[simp] theorem State.modDie_cursor (s : State) (d : Nat) (f : Die → Die) : (s.modDie d f).cursor = s.cursor := rfl
@[simp] theorem State.modDie_fifo (s : State) (d : Nat) (f : Die → Die) : (s.modDie d f).fifo = s.fifo := rfl
@[simp] theorem State.modDie_mem (s : State) (d : Nat) (f : Die → Die) : (s.modDie d f).mem = s.mem := rfl
@[simp] theorem State.modDie_tags (s : State) (d : Nat) (f : Die → Die) : (s.modDie d f).tags = s.tags := rfl
@[simp] theorem State.modDie_marks (s : State) (d : Nat) (f : Die → Die) : (s.modDie d f).marks = s.marks := rfl
@[simp] theorem State.modDie_cores (s : State) (d : Nat) (f : Die → Die) : (s.modDie d f).cores = s.cores := rfl
@[simp] theorem State.modDie_slices (s : State) (d : Nat) (f : Die → Die) : (s.modDie d f).slices = s.slices := rfl
@[simp] theorem State.modDie_stations (s : State) (d : Nat) (f : Die → Die) : (s.modDie d f).stations = s.stations := rfl
@[simp] theorem State.modDie_engines (s : State) (d : Nat) (f : Die → Die) : (s.modDie d f).engines = s.engines := rfl
@[simp] theorem State.modDie_ports (s : State) (d : Nat) (f : Die → Die) : (s.modDie d f).ports = s.ports := rfl
@[simp] theorem State.modDie_parts (s : State) (d : Nat) (f : Die → Die) : (s.modDie d f).parts = s.parts := rfl
@[simp] theorem State.modDie_tokens (s : State) (d : Nat) (f : Die → Die) : (s.modDie d f).tokens = s.tokens := rfl
@[simp] theorem State.modDie_mcasts (s : State) (d : Nat) (f : Die → Die) : (s.modDie d f).mcasts = s.mcasts := rfl
@[simp] theorem State.modDie_degraded (s : State) (d : Nat) (f : Die → Die) : (s.modDie d f).degraded = s.degraded := rfl
@[simp] theorem State.modDie_bundles (s : State) (d : Nat) (f : Die → Die) : (s.modDie d f).bundles = s.bundles := rfl
@[simp] theorem State.modDie_hostMem (s : State) (d : Nat) (f : Die → Die) : (s.modDie d f).hostMem = s.hostMem := rfl
@[simp] theorem State.modDie_nvme (s : State) (d : Nat) (f : Die → Die) : (s.modDie d f).nvme = s.nvme := rfl
@[simp] theorem State.modDie_replies (s : State) (d : Nat) (f : Die → Die) : (s.modDie d f).replies = s.replies := rfl
@[simp] theorem State.modDie_images (s : State) (d : Nat) (f : Die → Die) : (s.modDie d f).images = s.images := rfl
@[simp] theorem State.modDie_unsent (s : State) (d : Nat) (f : Die → Die) : (s.modDie d f).unsent = s.unsent := rfl
@[simp] theorem State.modDie_dropCounts (s : State) (d : Nat) (f : Die → Die) : (s.modDie d f).dropCounts = s.dropCounts := rfl

/-! ## modPart -/

@[simp] theorem State.modPart_cycle (s : State) (p : Nat) (f : Partition → Partition) : (s.modPart p f).cycle = s.cycle := rfl
@[simp] theorem State.modPart_released (s : State) (p : Nat) (f : Partition → Partition) : (s.modPart p f).released = s.released := rfl
@[simp] theorem State.modPart_agenda (s : State) (p : Nat) (f : Partition → Partition) : (s.modPart p f).agenda = s.agenda := rfl
@[simp] theorem State.modPart_nextSeq (s : State) (p : Nat) (f : Partition → Partition) : (s.modPart p f).nextSeq = s.nextSeq := rfl
@[simp] theorem State.modPart_freeCtr (s : State) (p : Nat) (f : Partition → Partition) : (s.modPart p f).freeCtr = s.freeCtr := rfl
@[simp] theorem State.modPart_curUnit (s : State) (p : Nat) (f : Partition → Partition) : (s.modPart p f).curUnit = s.curUnit := rfl
@[simp] theorem State.modPart_curSlot (s : State) (p : Nat) (f : Partition → Partition) : (s.modPart p f).curSlot = s.curSlot := rfl
@[simp] theorem State.modPart_arg (s : State) (p : Nat) (f : Partition → Partition) : (s.modPart p f).arg = s.arg := rfl
@[simp] theorem State.modPart_cursor (s : State) (p : Nat) (f : Partition → Partition) : (s.modPart p f).cursor = s.cursor := rfl
@[simp] theorem State.modPart_fifo (s : State) (p : Nat) (f : Partition → Partition) : (s.modPart p f).fifo = s.fifo := rfl
@[simp] theorem State.modPart_mem (s : State) (p : Nat) (f : Partition → Partition) : (s.modPart p f).mem = s.mem := rfl
@[simp] theorem State.modPart_tags (s : State) (p : Nat) (f : Partition → Partition) : (s.modPart p f).tags = s.tags := rfl
@[simp] theorem State.modPart_marks (s : State) (p : Nat) (f : Partition → Partition) : (s.modPart p f).marks = s.marks := rfl
@[simp] theorem State.modPart_cores (s : State) (p : Nat) (f : Partition → Partition) : (s.modPart p f).cores = s.cores := rfl
@[simp] theorem State.modPart_slices (s : State) (p : Nat) (f : Partition → Partition) : (s.modPart p f).slices = s.slices := rfl
@[simp] theorem State.modPart_stations (s : State) (p : Nat) (f : Partition → Partition) : (s.modPart p f).stations = s.stations := rfl
@[simp] theorem State.modPart_engines (s : State) (p : Nat) (f : Partition → Partition) : (s.modPart p f).engines = s.engines := rfl
@[simp] theorem State.modPart_ports (s : State) (p : Nat) (f : Partition → Partition) : (s.modPart p f).ports = s.ports := rfl
@[simp] theorem State.modPart_dies (s : State) (p : Nat) (f : Partition → Partition) : (s.modPart p f).dies = s.dies := rfl
@[simp] theorem State.modPart_tokens (s : State) (p : Nat) (f : Partition → Partition) : (s.modPart p f).tokens = s.tokens := rfl
@[simp] theorem State.modPart_mcasts (s : State) (p : Nat) (f : Partition → Partition) : (s.modPart p f).mcasts = s.mcasts := rfl
@[simp] theorem State.modPart_degraded (s : State) (p : Nat) (f : Partition → Partition) : (s.modPart p f).degraded = s.degraded := rfl
@[simp] theorem State.modPart_bundles (s : State) (p : Nat) (f : Partition → Partition) : (s.modPart p f).bundles = s.bundles := rfl
@[simp] theorem State.modPart_hostMem (s : State) (p : Nat) (f : Partition → Partition) : (s.modPart p f).hostMem = s.hostMem := rfl
@[simp] theorem State.modPart_nvme (s : State) (p : Nat) (f : Partition → Partition) : (s.modPart p f).nvme = s.nvme := rfl
@[simp] theorem State.modPart_replies (s : State) (p : Nat) (f : Partition → Partition) : (s.modPart p f).replies = s.replies := rfl
@[simp] theorem State.modPart_images (s : State) (p : Nat) (f : Partition → Partition) : (s.modPart p f).images = s.images := rfl
@[simp] theorem State.modPart_unsent (s : State) (p : Nat) (f : Partition → Partition) : (s.modPart p f).unsent = s.unsent := rfl
@[simp] theorem State.modPart_dropCounts (s : State) (p : Nat) (f : Partition → Partition) : (s.modPart p f).dropCounts = s.dropCounts := rfl

/-! ## schedule -/

@[simp] theorem State.schedule_cycle (s : State) (due rank : Nat) (ins : Instr) (a : Arg) : (s.schedule due rank ins a).cycle = s.cycle := rfl
@[simp] theorem State.schedule_released (s : State) (due rank : Nat) (ins : Instr) (a : Arg) : (s.schedule due rank ins a).released = s.released := rfl
@[simp] theorem State.schedule_freeCtr (s : State) (due rank : Nat) (ins : Instr) (a : Arg) : (s.schedule due rank ins a).freeCtr = s.freeCtr := rfl
@[simp] theorem State.schedule_curUnit (s : State) (due rank : Nat) (ins : Instr) (a : Arg) : (s.schedule due rank ins a).curUnit = s.curUnit := rfl
@[simp] theorem State.schedule_curSlot (s : State) (due rank : Nat) (ins : Instr) (a : Arg) : (s.schedule due rank ins a).curSlot = s.curSlot := rfl
@[simp] theorem State.schedule_arg (s : State) (due rank : Nat) (ins : Instr) (a : Arg) : (s.schedule due rank ins a).arg = s.arg := rfl
@[simp] theorem State.schedule_cursor (s : State) (due rank : Nat) (ins : Instr) (a : Arg) : (s.schedule due rank ins a).cursor = s.cursor := rfl
@[simp] theorem State.schedule_fifo (s : State) (due rank : Nat) (ins : Instr) (a : Arg) : (s.schedule due rank ins a).fifo = s.fifo := rfl
@[simp] theorem State.schedule_mem (s : State) (due rank : Nat) (ins : Instr) (a : Arg) : (s.schedule due rank ins a).mem = s.mem := rfl
@[simp] theorem State.schedule_tags (s : State) (due rank : Nat) (ins : Instr) (a : Arg) : (s.schedule due rank ins a).tags = s.tags := rfl
@[simp] theorem State.schedule_marks (s : State) (due rank : Nat) (ins : Instr) (a : Arg) : (s.schedule due rank ins a).marks = s.marks := rfl
@[simp] theorem State.schedule_cores (s : State) (due rank : Nat) (ins : Instr) (a : Arg) : (s.schedule due rank ins a).cores = s.cores := rfl
@[simp] theorem State.schedule_slices (s : State) (due rank : Nat) (ins : Instr) (a : Arg) : (s.schedule due rank ins a).slices = s.slices := rfl
@[simp] theorem State.schedule_stations (s : State) (due rank : Nat) (ins : Instr) (a : Arg) : (s.schedule due rank ins a).stations = s.stations := rfl
@[simp] theorem State.schedule_engines (s : State) (due rank : Nat) (ins : Instr) (a : Arg) : (s.schedule due rank ins a).engines = s.engines := rfl
@[simp] theorem State.schedule_ports (s : State) (due rank : Nat) (ins : Instr) (a : Arg) : (s.schedule due rank ins a).ports = s.ports := rfl
@[simp] theorem State.schedule_dies (s : State) (due rank : Nat) (ins : Instr) (a : Arg) : (s.schedule due rank ins a).dies = s.dies := rfl
@[simp] theorem State.schedule_parts (s : State) (due rank : Nat) (ins : Instr) (a : Arg) : (s.schedule due rank ins a).parts = s.parts := rfl
@[simp] theorem State.schedule_tokens (s : State) (due rank : Nat) (ins : Instr) (a : Arg) : (s.schedule due rank ins a).tokens = s.tokens := rfl
@[simp] theorem State.schedule_mcasts (s : State) (due rank : Nat) (ins : Instr) (a : Arg) : (s.schedule due rank ins a).mcasts = s.mcasts := rfl
@[simp] theorem State.schedule_degraded (s : State) (due rank : Nat) (ins : Instr) (a : Arg) : (s.schedule due rank ins a).degraded = s.degraded := rfl
@[simp] theorem State.schedule_bundles (s : State) (due rank : Nat) (ins : Instr) (a : Arg) : (s.schedule due rank ins a).bundles = s.bundles := rfl
@[simp] theorem State.schedule_hostMem (s : State) (due rank : Nat) (ins : Instr) (a : Arg) : (s.schedule due rank ins a).hostMem = s.hostMem := rfl
@[simp] theorem State.schedule_nvme (s : State) (due rank : Nat) (ins : Instr) (a : Arg) : (s.schedule due rank ins a).nvme = s.nvme := rfl
@[simp] theorem State.schedule_replies (s : State) (due rank : Nat) (ins : Instr) (a : Arg) : (s.schedule due rank ins a).replies = s.replies := rfl
@[simp] theorem State.schedule_images (s : State) (due rank : Nat) (ins : Instr) (a : Arg) : (s.schedule due rank ins a).images = s.images := rfl
@[simp] theorem State.schedule_unsent (s : State) (due rank : Nat) (ins : Instr) (a : Arg) : (s.schedule due rank ins a).unsent = s.unsent := rfl
@[simp] theorem State.schedule_dropCounts (s : State) (due rank : Nat) (ins : Instr) (a : Arg) : (s.schedule due rank ins a).dropCounts = s.dropCounts := rfl

/-! ## Accessors -/

@[simp] theorem State.core_setCore (s : State) (u : UnitId) (c : Core) : (s.setCore u c).core u = c := by
  simp [State.core, State.setCore]
theorem State.core_setCore_ne (s : State) (u v : UnitId) (c : Core) (h : v ≠ u) : (s.setCore u c).core v = s.core v := by
  simp [State.core, State.setCore, aget_aput_ne _ _ _ _ _ h]
@[simp] theorem State.core_modCore (s : State) (u : UnitId) (f : Core → Core) : (s.modCore u f).core u = f (s.core u) := by
  simp [State.modCore]
theorem State.core_modCore_ne (s : State) (u v : UnitId) (f : Core → Core) (h : v ≠ u) :
    (s.modCore u f).core v = s.core v := State.core_setCore_ne s u v _ h
@[simp] theorem Core.slot_setSlot (c : Core) (i : Nat) (x : Slot) : (c.setSlot i x).slot i = x := by
  simp [Core.slot, Core.setSlot]
theorem Core.slot_setSlot_ne (c : Core) (i j : Nat) (x : Slot) (h : j ≠ i) : (c.setSlot i x).slot j = c.slot j := by
  simp [Core.slot, Core.setSlot, aget_aput_ne _ _ _ _ _ h]
@[simp] theorem State.slot_setSlot (s : State) (u : UnitId) (i : Nat) (x : Slot) : (s.setSlot u i x).slot u i = x := by
  simp [State.slot, State.setSlot]
@[simp] theorem State.slot_modSlot (s : State) (u : UnitId) (i : Nat) (f : Slot → Slot) :
    (s.modSlot u i f).slot u i = f (s.slot u i) := by simp [State.modSlot]
theorem State.slot_setSlot_ne (s : State) (u v : UnitId) (i j : Nat) (x : Slot) (h : v ≠ u ∨ j ≠ i) :
    (s.setSlot u i x).slot v j = s.slot v j := by
  by_cases hu : v = u
  · subst hu
    have hj : j ≠ i := by simpa using h
    simp [State.slot, State.setSlot, Core.slot_setSlot_ne _ _ _ _ hj]
  · simp [State.slot, State.setSlot, State.core_modCore_ne _ _ _ _ hu]
theorem State.slot_modSlot_ne (s : State) (u v : UnitId) (i j : Nat) (f : Slot → Slot) (h : v ≠ u ∨ j ≠ i) :
    (s.modSlot u i f).slot v j = s.slot v j := State.slot_setSlot_ne s u v i j _ h
@[simp] theorem State.core_schedule (s : State) (due rank : Nat) (ins : Instr) (a : Arg) (u : UnitId) :
    (s.schedule due rank ins a).core u = s.core u := rfl
@[simp] theorem State.slot_schedule (s : State) (due rank : Nat) (ins : Instr) (a : Arg) (u : UnitId) (i : Nat) :
    (s.schedule due rank ins a).slot u i = s.slot u i := rfl
@[simp] theorem State.slice_setSlice (s : State) (id : Nat) (x : Slice) : (s.setSlice id x).slice id = x := by
  simp [State.slice, State.setSlice]
@[simp] theorem State.slice_modSlice (s : State) (id : Nat) (f : Slice → Slice) :
    (s.modSlice id f).slice id = f (s.slice id) := by simp [State.modSlice]
@[simp] theorem State.die_modDie (s : State) (d : Nat) (f : Die → Die) : (s.modDie d f).die d = f (s.die d) := by
  simp [State.die, State.modDie]
@[simp] theorem State.station_modStation (s : State) (d : Nat) (f : Station → Station) :
    (s.modStation d f).station d = f (s.station d) := by simp [State.station, State.modStation]
@[simp] theorem State.engine_modEngine (s : State) (d : Nat) (f : PortEngine → PortEngine) :
    (s.modEngine d f).engine d = f (s.engine d) := by simp [State.engine, State.modEngine]
@[simp] theorem State.port_modPort (s : State) (d : Nat) (f : D2dPort → D2dPort) :
    (s.modPort d f).port d = f (s.port d) := by simp [State.port, State.modPort]
@[simp] theorem State.part_modPart (s : State) (d : Nat) (f : Partition → Partition) :
    (s.modPart d f).part d = f (s.part d) := by simp [State.part, State.modPart]
@[simp] theorem State.core_modSlice (s : State) (id : Nat) (f : Slice → Slice) (u : UnitId) : (s.modSlice id f).core u = s.core u := rfl
@[simp] theorem State.core_modDie (s : State) (d : Nat) (f : Die → Die) (u : UnitId) : (s.modDie d f).core u = s.core u := rfl
@[simp] theorem State.core_modStation (s : State) (d : Nat) (f : Station → Station) (u : UnitId) :
    (s.modStation d f).core u = s.core u := rfl
@[simp] theorem State.core_modPort (s : State) (d : Nat) (f : D2dPort → D2dPort) (u : UnitId) : (s.modPort d f).core u = s.core u := rfl
@[simp] theorem State.slice_modCore (s : State) (u : UnitId) (f : Core → Core) (id : Nat) : (s.modCore u f).slice id = s.slice id := rfl
@[simp] theorem State.slice_schedule (s : State) (due rank : Nat) (ins : Instr) (a : Arg) (id : Nat) :
    (s.schedule due rank ins a).slice id = s.slice id := rfl

/-! ## The issuing slot -/

@[simp] theorem State.cur_modCur (s : State) (f : Slot → Slot) : (s.modCur f).cur = f s.cur := by
  simp [State.cur, State.modCur]
@[simp] theorem State.curCore_modCurCore (s : State) (f : Core → Core) : (s.modCurCore f).curCore = f s.curCore := by
  simp [State.curCore, State.modCurCore]
@[simp] theorem State.curCore_schedule (s : State) (due rank : Nat) (ins : Instr) (a : Arg) :
    (s.schedule due rank ins a).curCore = s.curCore := rfl
@[simp] theorem State.cur_schedule (s : State) (due rank : Nat) (ins : Instr) (a : Arg) :
    (s.schedule due rank ins a).cur = s.cur := rfl

/-! ## Updates of a slot -/

@[simp] theorem Slot.setReg_full (x : Slot) (r : Nat) (v : Word) : (x.setReg r v).full = x.full := rfl
@[simp] theorem Slot.setReg_pend (x : Slot) (r : Nat) (v : Word) : (x.setReg r v).pend = x.pend := rfl
@[simp] theorem Slot.setReg_pc (x : Slot) (r : Nat) (v : Word) : (x.setReg r v).pc = x.pc := rfl
@[simp] theorem Slot.setReg_pred (x : Slot) (r : Nat) (v : Word) : (x.setReg r v).pred = x.pred := rfl
@[simp] theorem Slot.setReg_frm (x : Slot) (r : Nat) (v : Word) : (x.setReg r v).frm = x.frm := rfl
@[simp] theorem Slot.setReg_ffrm (x : Slot) (r : Nat) (v : Word) : (x.setReg r v).ffrm = x.ffrm := rfl
@[simp] theorem Slot.setReg_fflim (x : Slot) (r : Nat) (v : Word) : (x.setReg r v).fflim = x.fflim := rfl
@[simp] theorem Slot.setReg_bobRm (x : Slot) (r : Nat) (v : Word) : (x.setReg r v).bobRm = x.bobRm := rfl
@[simp] theorem Slot.setReg_bobLim (x : Slot) (r : Nat) (v : Word) : (x.setReg r v).bobLim = x.bobLim := rfl
@[simp] theorem Slot.setReg_rkey (x : Slot) (r : Nat) (v : Word) : (x.setReg r v).rkey = x.rkey := rfl
@[simp] theorem Slot.setReg_evc (x : Slot) (r : Nat) (v : Word) : (x.setReg r v).evc = x.evc := rfl
@[simp] theorem Slot.setReg_ln (x : Slot) (r : Nat) (v : Word) : (x.setReg r v).ln = x.ln := rfl
@[simp] theorem Slot.setReg_lnPend (x : Slot) (r : Nat) (v : Word) : (x.setReg r v).lnPend = x.lnPend := rfl
@[simp] theorem Slot.setReg_ix (x : Slot) (r : Nat) (v : Word) : (x.setReg r v).ix = x.ix := rfl
@[simp] theorem Slot.setReg_g (x : Slot) (r : Nat) (v : Word) : (x.setReg r v).g = x.g := rfl
@[simp] theorem Slot.setReg_s (x : Slot) (r : Nat) (v : Word) : (x.setReg r v).s = x.s := rfl
@[simp] theorem Slot.setReg_l (x : Slot) (r : Nat) (v : Word) : (x.setReg r v).l = x.l := rfl
@[simp] theorem Slot.setReg_work (x : Slot) (r : Nat) (v : Word) : (x.setReg r v).work = x.work := rfl
@[simp] theorem Slot.setReg_anchor (x : Slot) (r : Nat) (v : Word) : (x.setReg r v).anchor = x.anchor := rfl
@[simp] theorem Slot.setReg_run (x : Slot) (r : Nat) (v : Word) : (x.setReg r v).run = x.run := rfl
@[simp] theorem Slot.setReg_holds (x : Slot) (r : Nat) (v : Word) : (x.setReg r v).holds = x.holds := rfl
@[simp] theorem Slot.setReg_landed (x : Slot) (r : Nat) (v : Word) : (x.setReg r v).landed = x.landed := rfl
@[simp] theorem Slot.setReg_jpop (x : Slot) (r : Nat) (v : Word) : (x.setReg r v).jpop = x.jpop := rfl
@[simp] theorem Slot.setReg_trip (x : Slot) (r : Nat) (v : Word) : (x.setReg r v).trip = x.trip := rfl
@[simp] theorem Slot.setReg_prio (x : Slot) (r : Nat) (v : Word) : (x.setReg r v).prio = x.prio := rfl
@[simp] theorem Slot.setReg_sgen (x : Slot) (r : Nat) (v : Word) : (x.setReg r v).sgen = x.sgen := rfl
@[simp] theorem Slot.setReg_scnt (x : Slot) (r : Nat) (v : Word) : (x.setReg r v).scnt = x.scnt := rfl
@[simp] theorem Slot.setReg_ord (x : Slot) (r : Nat) (v : Word) : (x.setReg r v).ord = x.ord := rfl
@[simp] theorem Slot.setReg_aging (x : Slot) (r : Nat) (v : Word) : (x.setReg r v).aging = x.aging := rfl
@[simp] theorem Slot.setReg_evage (x : Slot) (r : Nat) (v : Word) : (x.setReg r v).evage = x.evage := rfl
@[simp] theorem Slot.setReg_evRaised (x : Slot) (r : Nat) (v : Word) : (x.setReg r v).evRaised = x.evRaised := rfl
@[simp] theorem Slot.setReg_readyAt (x : Slot) (r : Nat) (v : Word) : (x.setReg r v).readyAt = x.readyAt := rfl
@[simp] theorem Slot.setReg_line (x : Slot) (r : Nat) (v : Word) : (x.setReg r v).line = x.line := rfl
@[simp] theorem Slot.setReg_fetching (x : Slot) (r : Nat) (v : Word) : (x.setReg r v).fetching = x.fetching := rfl
@[simp] theorem Slot.setReg_branchPc (x : Slot) (r : Nat) (v : Word) : (x.setReg r v).branchPc = x.branchPc := rfl
@[simp] theorem Slot.setReg_target (x : Slot) (r : Nat) (v : Word) : (x.setReg r v).target = x.target := rfl
@[simp] theorem Slot.setReg_asyncs (x : Slot) (r : Nat) (v : Word) : (x.setReg r v).asyncs = x.asyncs := rfl
@[simp] theorem Slot.setReg_folds (x : Slot) (r : Nat) (v : Word) : (x.setReg r v).folds = x.folds := rfl
@[simp] theorem Slot.setReg_pushed (x : Slot) (r : Nat) (v : Word) : (x.setReg r v).pushed = x.pushed := rfl
@[simp] theorem Slot.setReg_created (x : Slot) (r : Nat) (v : Word) : (x.setReg r v).created = x.created := rfl
@[simp] theorem Slot.setReg_frameInfo (x : Slot) (r : Nat) (v : Word) : (x.setReg r v).frameInfo = x.frameInfo := rfl
@[simp] theorem Slot.setReg_fence (x : Slot) (r : Nat) (v : Word) : (x.setReg r v).fence = x.fence := rfl
@[simp] theorem Slot.setReg_eos (x : Slot) (r : Nat) (v : Word) : (x.setReg r v).eos = x.eos := rfl
@[simp] theorem Slot.setReg_deadBelow (x : Slot) (r : Nat) (v : Word) : (x.setReg r v).deadBelow = x.deadBelow := rfl
@[simp] theorem Slot.setReg_jtab (x : Slot) (r : Nat) (v : Word) : (x.setReg r v).jtab = x.jtab := rfl
@[simp] theorem Slot.setReg_ending (x : Slot) (r : Nat) (v : Word) : (x.setReg r v).ending = x.ending := rfl
@[simp] theorem Slot.setReg_replyDest (x : Slot) (r : Nat) (v : Word) : (x.setReg r v).replyDest = x.replyDest := rfl
@[simp] theorem Slot.setReg_defPlace (x : Slot) (r : Nat) (v : Word) : (x.setReg r v).defPlace = x.defPlace := rfl

@[simp] theorem Slot.setFP_regs (x : Slot) (r : Nat) (f p : Bool) : (x.setFP r f p).regs = x.regs := rfl
@[simp] theorem Slot.setFP_pc (x : Slot) (r : Nat) (f p : Bool) : (x.setFP r f p).pc = x.pc := rfl
@[simp] theorem Slot.setFP_pred (x : Slot) (r : Nat) (f p : Bool) : (x.setFP r f p).pred = x.pred := rfl
@[simp] theorem Slot.setFP_frm (x : Slot) (r : Nat) (f p : Bool) : (x.setFP r f p).frm = x.frm := rfl
@[simp] theorem Slot.setFP_ffrm (x : Slot) (r : Nat) (f p : Bool) : (x.setFP r f p).ffrm = x.ffrm := rfl
@[simp] theorem Slot.setFP_fflim (x : Slot) (r : Nat) (f p : Bool) : (x.setFP r f p).fflim = x.fflim := rfl
@[simp] theorem Slot.setFP_bobRm (x : Slot) (r : Nat) (f p : Bool) : (x.setFP r f p).bobRm = x.bobRm := rfl
@[simp] theorem Slot.setFP_bobLim (x : Slot) (r : Nat) (f p : Bool) : (x.setFP r f p).bobLim = x.bobLim := rfl
@[simp] theorem Slot.setFP_rkey (x : Slot) (r : Nat) (f p : Bool) : (x.setFP r f p).rkey = x.rkey := rfl
@[simp] theorem Slot.setFP_evc (x : Slot) (r : Nat) (f p : Bool) : (x.setFP r f p).evc = x.evc := rfl
@[simp] theorem Slot.setFP_ln (x : Slot) (r : Nat) (f p : Bool) : (x.setFP r f p).ln = x.ln := rfl
@[simp] theorem Slot.setFP_lnPend (x : Slot) (r : Nat) (f p : Bool) : (x.setFP r f p).lnPend = x.lnPend := rfl
@[simp] theorem Slot.setFP_ix (x : Slot) (r : Nat) (f p : Bool) : (x.setFP r f p).ix = x.ix := rfl
@[simp] theorem Slot.setFP_g (x : Slot) (r : Nat) (f p : Bool) : (x.setFP r f p).g = x.g := rfl
@[simp] theorem Slot.setFP_s (x : Slot) (r : Nat) (f p : Bool) : (x.setFP r f p).s = x.s := rfl
@[simp] theorem Slot.setFP_l (x : Slot) (r : Nat) (f p : Bool) : (x.setFP r f p).l = x.l := rfl
@[simp] theorem Slot.setFP_work (x : Slot) (r : Nat) (f p : Bool) : (x.setFP r f p).work = x.work := rfl
@[simp] theorem Slot.setFP_anchor (x : Slot) (r : Nat) (f p : Bool) : (x.setFP r f p).anchor = x.anchor := rfl
@[simp] theorem Slot.setFP_run (x : Slot) (r : Nat) (f p : Bool) : (x.setFP r f p).run = x.run := rfl
@[simp] theorem Slot.setFP_holds (x : Slot) (r : Nat) (f p : Bool) : (x.setFP r f p).holds = x.holds := rfl
@[simp] theorem Slot.setFP_landed (x : Slot) (r : Nat) (f p : Bool) : (x.setFP r f p).landed = x.landed := rfl
@[simp] theorem Slot.setFP_jpop (x : Slot) (r : Nat) (f p : Bool) : (x.setFP r f p).jpop = x.jpop := rfl
@[simp] theorem Slot.setFP_trip (x : Slot) (r : Nat) (f p : Bool) : (x.setFP r f p).trip = x.trip := rfl
@[simp] theorem Slot.setFP_prio (x : Slot) (r : Nat) (f p : Bool) : (x.setFP r f p).prio = x.prio := rfl
@[simp] theorem Slot.setFP_sgen (x : Slot) (r : Nat) (f p : Bool) : (x.setFP r f p).sgen = x.sgen := rfl
@[simp] theorem Slot.setFP_scnt (x : Slot) (r : Nat) (f p : Bool) : (x.setFP r f p).scnt = x.scnt := rfl
@[simp] theorem Slot.setFP_ord (x : Slot) (r : Nat) (f p : Bool) : (x.setFP r f p).ord = x.ord := rfl
@[simp] theorem Slot.setFP_aging (x : Slot) (r : Nat) (f p : Bool) : (x.setFP r f p).aging = x.aging := rfl
@[simp] theorem Slot.setFP_evage (x : Slot) (r : Nat) (f p : Bool) : (x.setFP r f p).evage = x.evage := rfl
@[simp] theorem Slot.setFP_evRaised (x : Slot) (r : Nat) (f p : Bool) : (x.setFP r f p).evRaised = x.evRaised := rfl
@[simp] theorem Slot.setFP_readyAt (x : Slot) (r : Nat) (f p : Bool) : (x.setFP r f p).readyAt = x.readyAt := rfl
@[simp] theorem Slot.setFP_line (x : Slot) (r : Nat) (f p : Bool) : (x.setFP r f p).line = x.line := rfl
@[simp] theorem Slot.setFP_fetching (x : Slot) (r : Nat) (f p : Bool) : (x.setFP r f p).fetching = x.fetching := rfl
@[simp] theorem Slot.setFP_branchPc (x : Slot) (r : Nat) (f p : Bool) : (x.setFP r f p).branchPc = x.branchPc := rfl
@[simp] theorem Slot.setFP_target (x : Slot) (r : Nat) (f p : Bool) : (x.setFP r f p).target = x.target := rfl
@[simp] theorem Slot.setFP_asyncs (x : Slot) (r : Nat) (f p : Bool) : (x.setFP r f p).asyncs = x.asyncs := rfl
@[simp] theorem Slot.setFP_folds (x : Slot) (r : Nat) (f p : Bool) : (x.setFP r f p).folds = x.folds := rfl
@[simp] theorem Slot.setFP_pushed (x : Slot) (r : Nat) (f p : Bool) : (x.setFP r f p).pushed = x.pushed := rfl
@[simp] theorem Slot.setFP_created (x : Slot) (r : Nat) (f p : Bool) : (x.setFP r f p).created = x.created := rfl
@[simp] theorem Slot.setFP_frameInfo (x : Slot) (r : Nat) (f p : Bool) : (x.setFP r f p).frameInfo = x.frameInfo := rfl
@[simp] theorem Slot.setFP_fence (x : Slot) (r : Nat) (f p : Bool) : (x.setFP r f p).fence = x.fence := rfl
@[simp] theorem Slot.setFP_eos (x : Slot) (r : Nat) (f p : Bool) : (x.setFP r f p).eos = x.eos := rfl
@[simp] theorem Slot.setFP_deadBelow (x : Slot) (r : Nat) (f p : Bool) : (x.setFP r f p).deadBelow = x.deadBelow := rfl
@[simp] theorem Slot.setFP_jtab (x : Slot) (r : Nat) (f p : Bool) : (x.setFP r f p).jtab = x.jtab := rfl
@[simp] theorem Slot.setFP_ending (x : Slot) (r : Nat) (f p : Bool) : (x.setFP r f p).ending = x.ending := rfl
@[simp] theorem Slot.setFP_replyDest (x : Slot) (r : Nat) (f p : Bool) : (x.setFP r f p).replyDest = x.replyDest := rfl
@[simp] theorem Slot.setFP_defPlace (x : Slot) (r : Nat) (f p : Bool) : (x.setFP r f p).defPlace = x.defPlace := rfl

@[simp] theorem Slot.fill_pc (x : Slot) (r : Nat) (v : Word) : (x.fill r v).pc = x.pc := rfl
@[simp] theorem Slot.fill_pred (x : Slot) (r : Nat) (v : Word) : (x.fill r v).pred = x.pred := rfl
@[simp] theorem Slot.fill_frm (x : Slot) (r : Nat) (v : Word) : (x.fill r v).frm = x.frm := rfl
@[simp] theorem Slot.fill_ffrm (x : Slot) (r : Nat) (v : Word) : (x.fill r v).ffrm = x.ffrm := rfl
@[simp] theorem Slot.fill_fflim (x : Slot) (r : Nat) (v : Word) : (x.fill r v).fflim = x.fflim := rfl
@[simp] theorem Slot.fill_bobRm (x : Slot) (r : Nat) (v : Word) : (x.fill r v).bobRm = x.bobRm := rfl
@[simp] theorem Slot.fill_bobLim (x : Slot) (r : Nat) (v : Word) : (x.fill r v).bobLim = x.bobLim := rfl
@[simp] theorem Slot.fill_rkey (x : Slot) (r : Nat) (v : Word) : (x.fill r v).rkey = x.rkey := rfl
@[simp] theorem Slot.fill_evc (x : Slot) (r : Nat) (v : Word) : (x.fill r v).evc = x.evc := rfl
@[simp] theorem Slot.fill_ln (x : Slot) (r : Nat) (v : Word) : (x.fill r v).ln = x.ln := rfl
@[simp] theorem Slot.fill_lnPend (x : Slot) (r : Nat) (v : Word) : (x.fill r v).lnPend = x.lnPend := rfl
@[simp] theorem Slot.fill_ix (x : Slot) (r : Nat) (v : Word) : (x.fill r v).ix = x.ix := rfl
@[simp] theorem Slot.fill_g (x : Slot) (r : Nat) (v : Word) : (x.fill r v).g = x.g := rfl
@[simp] theorem Slot.fill_s (x : Slot) (r : Nat) (v : Word) : (x.fill r v).s = x.s := rfl
@[simp] theorem Slot.fill_l (x : Slot) (r : Nat) (v : Word) : (x.fill r v).l = x.l := rfl
@[simp] theorem Slot.fill_work (x : Slot) (r : Nat) (v : Word) : (x.fill r v).work = x.work := rfl
@[simp] theorem Slot.fill_anchor (x : Slot) (r : Nat) (v : Word) : (x.fill r v).anchor = x.anchor := rfl
@[simp] theorem Slot.fill_run (x : Slot) (r : Nat) (v : Word) : (x.fill r v).run = x.run := rfl
@[simp] theorem Slot.fill_holds (x : Slot) (r : Nat) (v : Word) : (x.fill r v).holds = x.holds := rfl
@[simp] theorem Slot.fill_landed (x : Slot) (r : Nat) (v : Word) : (x.fill r v).landed = x.landed := rfl
@[simp] theorem Slot.fill_jpop (x : Slot) (r : Nat) (v : Word) : (x.fill r v).jpop = x.jpop := rfl
@[simp] theorem Slot.fill_trip (x : Slot) (r : Nat) (v : Word) : (x.fill r v).trip = x.trip := rfl
@[simp] theorem Slot.fill_prio (x : Slot) (r : Nat) (v : Word) : (x.fill r v).prio = x.prio := rfl
@[simp] theorem Slot.fill_sgen (x : Slot) (r : Nat) (v : Word) : (x.fill r v).sgen = x.sgen := rfl
@[simp] theorem Slot.fill_scnt (x : Slot) (r : Nat) (v : Word) : (x.fill r v).scnt = x.scnt := rfl
@[simp] theorem Slot.fill_ord (x : Slot) (r : Nat) (v : Word) : (x.fill r v).ord = x.ord := rfl
@[simp] theorem Slot.fill_aging (x : Slot) (r : Nat) (v : Word) : (x.fill r v).aging = x.aging := rfl
@[simp] theorem Slot.fill_evage (x : Slot) (r : Nat) (v : Word) : (x.fill r v).evage = x.evage := rfl
@[simp] theorem Slot.fill_evRaised (x : Slot) (r : Nat) (v : Word) : (x.fill r v).evRaised = x.evRaised := rfl
@[simp] theorem Slot.fill_readyAt (x : Slot) (r : Nat) (v : Word) : (x.fill r v).readyAt = x.readyAt := rfl
@[simp] theorem Slot.fill_line (x : Slot) (r : Nat) (v : Word) : (x.fill r v).line = x.line := rfl
@[simp] theorem Slot.fill_fetching (x : Slot) (r : Nat) (v : Word) : (x.fill r v).fetching = x.fetching := rfl
@[simp] theorem Slot.fill_branchPc (x : Slot) (r : Nat) (v : Word) : (x.fill r v).branchPc = x.branchPc := rfl
@[simp] theorem Slot.fill_target (x : Slot) (r : Nat) (v : Word) : (x.fill r v).target = x.target := rfl
@[simp] theorem Slot.fill_asyncs (x : Slot) (r : Nat) (v : Word) : (x.fill r v).asyncs = x.asyncs := rfl
@[simp] theorem Slot.fill_folds (x : Slot) (r : Nat) (v : Word) : (x.fill r v).folds = x.folds := rfl
@[simp] theorem Slot.fill_pushed (x : Slot) (r : Nat) (v : Word) : (x.fill r v).pushed = x.pushed := rfl
@[simp] theorem Slot.fill_created (x : Slot) (r : Nat) (v : Word) : (x.fill r v).created = x.created := rfl
@[simp] theorem Slot.fill_frameInfo (x : Slot) (r : Nat) (v : Word) : (x.fill r v).frameInfo = x.frameInfo := rfl
@[simp] theorem Slot.fill_fence (x : Slot) (r : Nat) (v : Word) : (x.fill r v).fence = x.fence := rfl
@[simp] theorem Slot.fill_eos (x : Slot) (r : Nat) (v : Word) : (x.fill r v).eos = x.eos := rfl
@[simp] theorem Slot.fill_deadBelow (x : Slot) (r : Nat) (v : Word) : (x.fill r v).deadBelow = x.deadBelow := rfl
@[simp] theorem Slot.fill_jtab (x : Slot) (r : Nat) (v : Word) : (x.fill r v).jtab = x.jtab := rfl
@[simp] theorem Slot.fill_ending (x : Slot) (r : Nat) (v : Word) : (x.fill r v).ending = x.ending := rfl
@[simp] theorem Slot.fill_replyDest (x : Slot) (r : Nat) (v : Word) : (x.fill r v).replyDest = x.replyDest := rfl
@[simp] theorem Slot.fill_defPlace (x : Slot) (r : Nat) (v : Word) : (x.fill r v).defPlace = x.defPlace := rfl

@[simp] theorem Slot.setPend_regs (x : Slot) (r : Nat) : (x.setPend r).regs = x.regs := rfl
@[simp] theorem Slot.setPend_pc (x : Slot) (r : Nat) : (x.setPend r).pc = x.pc := rfl
@[simp] theorem Slot.setPend_pred (x : Slot) (r : Nat) : (x.setPend r).pred = x.pred := rfl
@[simp] theorem Slot.setPend_frm (x : Slot) (r : Nat) : (x.setPend r).frm = x.frm := rfl
@[simp] theorem Slot.setPend_ffrm (x : Slot) (r : Nat) : (x.setPend r).ffrm = x.ffrm := rfl
@[simp] theorem Slot.setPend_fflim (x : Slot) (r : Nat) : (x.setPend r).fflim = x.fflim := rfl
@[simp] theorem Slot.setPend_bobRm (x : Slot) (r : Nat) : (x.setPend r).bobRm = x.bobRm := rfl
@[simp] theorem Slot.setPend_bobLim (x : Slot) (r : Nat) : (x.setPend r).bobLim = x.bobLim := rfl
@[simp] theorem Slot.setPend_rkey (x : Slot) (r : Nat) : (x.setPend r).rkey = x.rkey := rfl
@[simp] theorem Slot.setPend_evc (x : Slot) (r : Nat) : (x.setPend r).evc = x.evc := rfl
@[simp] theorem Slot.setPend_ln (x : Slot) (r : Nat) : (x.setPend r).ln = x.ln := rfl
@[simp] theorem Slot.setPend_lnPend (x : Slot) (r : Nat) : (x.setPend r).lnPend = x.lnPend := rfl
@[simp] theorem Slot.setPend_ix (x : Slot) (r : Nat) : (x.setPend r).ix = x.ix := rfl
@[simp] theorem Slot.setPend_g (x : Slot) (r : Nat) : (x.setPend r).g = x.g := rfl
@[simp] theorem Slot.setPend_s (x : Slot) (r : Nat) : (x.setPend r).s = x.s := rfl
@[simp] theorem Slot.setPend_l (x : Slot) (r : Nat) : (x.setPend r).l = x.l := rfl
@[simp] theorem Slot.setPend_work (x : Slot) (r : Nat) : (x.setPend r).work = x.work := rfl
@[simp] theorem Slot.setPend_anchor (x : Slot) (r : Nat) : (x.setPend r).anchor = x.anchor := rfl
@[simp] theorem Slot.setPend_run (x : Slot) (r : Nat) : (x.setPend r).run = x.run := rfl
@[simp] theorem Slot.setPend_holds (x : Slot) (r : Nat) : (x.setPend r).holds = x.holds := rfl
@[simp] theorem Slot.setPend_landed (x : Slot) (r : Nat) : (x.setPend r).landed = x.landed := rfl
@[simp] theorem Slot.setPend_jpop (x : Slot) (r : Nat) : (x.setPend r).jpop = x.jpop := rfl
@[simp] theorem Slot.setPend_trip (x : Slot) (r : Nat) : (x.setPend r).trip = x.trip := rfl
@[simp] theorem Slot.setPend_prio (x : Slot) (r : Nat) : (x.setPend r).prio = x.prio := rfl
@[simp] theorem Slot.setPend_sgen (x : Slot) (r : Nat) : (x.setPend r).sgen = x.sgen := rfl
@[simp] theorem Slot.setPend_scnt (x : Slot) (r : Nat) : (x.setPend r).scnt = x.scnt := rfl
@[simp] theorem Slot.setPend_ord (x : Slot) (r : Nat) : (x.setPend r).ord = x.ord := rfl
@[simp] theorem Slot.setPend_aging (x : Slot) (r : Nat) : (x.setPend r).aging = x.aging := rfl
@[simp] theorem Slot.setPend_evage (x : Slot) (r : Nat) : (x.setPend r).evage = x.evage := rfl
@[simp] theorem Slot.setPend_evRaised (x : Slot) (r : Nat) : (x.setPend r).evRaised = x.evRaised := rfl
@[simp] theorem Slot.setPend_readyAt (x : Slot) (r : Nat) : (x.setPend r).readyAt = x.readyAt := rfl
@[simp] theorem Slot.setPend_line (x : Slot) (r : Nat) : (x.setPend r).line = x.line := rfl
@[simp] theorem Slot.setPend_fetching (x : Slot) (r : Nat) : (x.setPend r).fetching = x.fetching := rfl
@[simp] theorem Slot.setPend_branchPc (x : Slot) (r : Nat) : (x.setPend r).branchPc = x.branchPc := rfl
@[simp] theorem Slot.setPend_target (x : Slot) (r : Nat) : (x.setPend r).target = x.target := rfl
@[simp] theorem Slot.setPend_asyncs (x : Slot) (r : Nat) : (x.setPend r).asyncs = x.asyncs := rfl
@[simp] theorem Slot.setPend_folds (x : Slot) (r : Nat) : (x.setPend r).folds = x.folds := rfl
@[simp] theorem Slot.setPend_pushed (x : Slot) (r : Nat) : (x.setPend r).pushed = x.pushed := rfl
@[simp] theorem Slot.setPend_created (x : Slot) (r : Nat) : (x.setPend r).created = x.created := rfl
@[simp] theorem Slot.setPend_frameInfo (x : Slot) (r : Nat) : (x.setPend r).frameInfo = x.frameInfo := rfl
@[simp] theorem Slot.setPend_fence (x : Slot) (r : Nat) : (x.setPend r).fence = x.fence := rfl
@[simp] theorem Slot.setPend_eos (x : Slot) (r : Nat) : (x.setPend r).eos = x.eos := rfl
@[simp] theorem Slot.setPend_deadBelow (x : Slot) (r : Nat) : (x.setPend r).deadBelow = x.deadBelow := rfl
@[simp] theorem Slot.setPend_jtab (x : Slot) (r : Nat) : (x.setPend r).jtab = x.jtab := rfl
@[simp] theorem Slot.setPend_ending (x : Slot) (r : Nat) : (x.setPend r).ending = x.ending := rfl
@[simp] theorem Slot.setPend_replyDest (x : Slot) (r : Nat) : (x.setPend r).replyDest = x.replyDest := rfl
@[simp] theorem Slot.setPend_defPlace (x : Slot) (r : Nat) : (x.setPend r).defPlace = x.defPlace := rfl

@[simp] theorem Slot.setP_regs (x : Slot) (k : Pred) (v : Bool) : (x.setP k v).regs = x.regs := rfl
@[simp] theorem Slot.setP_full (x : Slot) (k : Pred) (v : Bool) : (x.setP k v).full = x.full := rfl
@[simp] theorem Slot.setP_pend (x : Slot) (k : Pred) (v : Bool) : (x.setP k v).pend = x.pend := rfl
@[simp] theorem Slot.setP_pc (x : Slot) (k : Pred) (v : Bool) : (x.setP k v).pc = x.pc := rfl
@[simp] theorem Slot.setP_frm (x : Slot) (k : Pred) (v : Bool) : (x.setP k v).frm = x.frm := rfl
@[simp] theorem Slot.setP_ffrm (x : Slot) (k : Pred) (v : Bool) : (x.setP k v).ffrm = x.ffrm := rfl
@[simp] theorem Slot.setP_fflim (x : Slot) (k : Pred) (v : Bool) : (x.setP k v).fflim = x.fflim := rfl
@[simp] theorem Slot.setP_bobRm (x : Slot) (k : Pred) (v : Bool) : (x.setP k v).bobRm = x.bobRm := rfl
@[simp] theorem Slot.setP_bobLim (x : Slot) (k : Pred) (v : Bool) : (x.setP k v).bobLim = x.bobLim := rfl
@[simp] theorem Slot.setP_rkey (x : Slot) (k : Pred) (v : Bool) : (x.setP k v).rkey = x.rkey := rfl
@[simp] theorem Slot.setP_evc (x : Slot) (k : Pred) (v : Bool) : (x.setP k v).evc = x.evc := rfl
@[simp] theorem Slot.setP_ln (x : Slot) (k : Pred) (v : Bool) : (x.setP k v).ln = x.ln := rfl
@[simp] theorem Slot.setP_lnPend (x : Slot) (k : Pred) (v : Bool) : (x.setP k v).lnPend = x.lnPend := rfl
@[simp] theorem Slot.setP_ix (x : Slot) (k : Pred) (v : Bool) : (x.setP k v).ix = x.ix := rfl
@[simp] theorem Slot.setP_g (x : Slot) (k : Pred) (v : Bool) : (x.setP k v).g = x.g := rfl
@[simp] theorem Slot.setP_s (x : Slot) (k : Pred) (v : Bool) : (x.setP k v).s = x.s := rfl
@[simp] theorem Slot.setP_l (x : Slot) (k : Pred) (v : Bool) : (x.setP k v).l = x.l := rfl
@[simp] theorem Slot.setP_work (x : Slot) (k : Pred) (v : Bool) : (x.setP k v).work = x.work := rfl
@[simp] theorem Slot.setP_anchor (x : Slot) (k : Pred) (v : Bool) : (x.setP k v).anchor = x.anchor := rfl
@[simp] theorem Slot.setP_run (x : Slot) (k : Pred) (v : Bool) : (x.setP k v).run = x.run := rfl
@[simp] theorem Slot.setP_holds (x : Slot) (k : Pred) (v : Bool) : (x.setP k v).holds = x.holds := rfl
@[simp] theorem Slot.setP_landed (x : Slot) (k : Pred) (v : Bool) : (x.setP k v).landed = x.landed := rfl
@[simp] theorem Slot.setP_jpop (x : Slot) (k : Pred) (v : Bool) : (x.setP k v).jpop = x.jpop := rfl
@[simp] theorem Slot.setP_trip (x : Slot) (k : Pred) (v : Bool) : (x.setP k v).trip = x.trip := rfl
@[simp] theorem Slot.setP_prio (x : Slot) (k : Pred) (v : Bool) : (x.setP k v).prio = x.prio := rfl
@[simp] theorem Slot.setP_sgen (x : Slot) (k : Pred) (v : Bool) : (x.setP k v).sgen = x.sgen := rfl
@[simp] theorem Slot.setP_scnt (x : Slot) (k : Pred) (v : Bool) : (x.setP k v).scnt = x.scnt := rfl
@[simp] theorem Slot.setP_ord (x : Slot) (k : Pred) (v : Bool) : (x.setP k v).ord = x.ord := rfl
@[simp] theorem Slot.setP_aging (x : Slot) (k : Pred) (v : Bool) : (x.setP k v).aging = x.aging := rfl
@[simp] theorem Slot.setP_evage (x : Slot) (k : Pred) (v : Bool) : (x.setP k v).evage = x.evage := rfl
@[simp] theorem Slot.setP_evRaised (x : Slot) (k : Pred) (v : Bool) : (x.setP k v).evRaised = x.evRaised := rfl
@[simp] theorem Slot.setP_readyAt (x : Slot) (k : Pred) (v : Bool) : (x.setP k v).readyAt = x.readyAt := rfl
@[simp] theorem Slot.setP_line (x : Slot) (k : Pred) (v : Bool) : (x.setP k v).line = x.line := rfl
@[simp] theorem Slot.setP_fetching (x : Slot) (k : Pred) (v : Bool) : (x.setP k v).fetching = x.fetching := rfl
@[simp] theorem Slot.setP_branchPc (x : Slot) (k : Pred) (v : Bool) : (x.setP k v).branchPc = x.branchPc := rfl
@[simp] theorem Slot.setP_target (x : Slot) (k : Pred) (v : Bool) : (x.setP k v).target = x.target := rfl
@[simp] theorem Slot.setP_asyncs (x : Slot) (k : Pred) (v : Bool) : (x.setP k v).asyncs = x.asyncs := rfl
@[simp] theorem Slot.setP_folds (x : Slot) (k : Pred) (v : Bool) : (x.setP k v).folds = x.folds := rfl
@[simp] theorem Slot.setP_pushed (x : Slot) (k : Pred) (v : Bool) : (x.setP k v).pushed = x.pushed := rfl
@[simp] theorem Slot.setP_created (x : Slot) (k : Pred) (v : Bool) : (x.setP k v).created = x.created := rfl
@[simp] theorem Slot.setP_frameInfo (x : Slot) (k : Pred) (v : Bool) : (x.setP k v).frameInfo = x.frameInfo := rfl
@[simp] theorem Slot.setP_fence (x : Slot) (k : Pred) (v : Bool) : (x.setP k v).fence = x.fence := rfl
@[simp] theorem Slot.setP_eos (x : Slot) (k : Pred) (v : Bool) : (x.setP k v).eos = x.eos := rfl
@[simp] theorem Slot.setP_deadBelow (x : Slot) (k : Pred) (v : Bool) : (x.setP k v).deadBelow = x.deadBelow := rfl
@[simp] theorem Slot.setP_jtab (x : Slot) (k : Pred) (v : Bool) : (x.setP k v).jtab = x.jtab := rfl
@[simp] theorem Slot.setP_ending (x : Slot) (k : Pred) (v : Bool) : (x.setP k v).ending = x.ending := rfl
@[simp] theorem Slot.setP_replyDest (x : Slot) (k : Pred) (v : Bool) : (x.setP k v).replyDest = x.replyDest := rfl
@[simp] theorem Slot.setP_defPlace (x : Slot) (k : Pred) (v : Bool) : (x.setP k v).defPlace = x.defPlace := rfl

@[simp] theorem Slot.orFlags_regs (x : Slot) (f : FpFlags) : (x.orFlags f).regs = x.regs := rfl
@[simp] theorem Slot.orFlags_full (x : Slot) (f : FpFlags) : (x.orFlags f).full = x.full := rfl
@[simp] theorem Slot.orFlags_pend (x : Slot) (f : FpFlags) : (x.orFlags f).pend = x.pend := rfl
@[simp] theorem Slot.orFlags_pc (x : Slot) (f : FpFlags) : (x.orFlags f).pc = x.pc := rfl
@[simp] theorem Slot.orFlags_pred (x : Slot) (f : FpFlags) : (x.orFlags f).pred = x.pred := rfl
@[simp] theorem Slot.orFlags_ffrm (x : Slot) (f : FpFlags) : (x.orFlags f).ffrm = x.ffrm := rfl
@[simp] theorem Slot.orFlags_fflim (x : Slot) (f : FpFlags) : (x.orFlags f).fflim = x.fflim := rfl
@[simp] theorem Slot.orFlags_bobRm (x : Slot) (f : FpFlags) : (x.orFlags f).bobRm = x.bobRm := rfl
@[simp] theorem Slot.orFlags_bobLim (x : Slot) (f : FpFlags) : (x.orFlags f).bobLim = x.bobLim := rfl
@[simp] theorem Slot.orFlags_rkey (x : Slot) (f : FpFlags) : (x.orFlags f).rkey = x.rkey := rfl
@[simp] theorem Slot.orFlags_evc (x : Slot) (f : FpFlags) : (x.orFlags f).evc = x.evc := rfl
@[simp] theorem Slot.orFlags_ln (x : Slot) (f : FpFlags) : (x.orFlags f).ln = x.ln := rfl
@[simp] theorem Slot.orFlags_lnPend (x : Slot) (f : FpFlags) : (x.orFlags f).lnPend = x.lnPend := rfl
@[simp] theorem Slot.orFlags_ix (x : Slot) (f : FpFlags) : (x.orFlags f).ix = x.ix := rfl
@[simp] theorem Slot.orFlags_g (x : Slot) (f : FpFlags) : (x.orFlags f).g = x.g := rfl
@[simp] theorem Slot.orFlags_s (x : Slot) (f : FpFlags) : (x.orFlags f).s = x.s := rfl
@[simp] theorem Slot.orFlags_l (x : Slot) (f : FpFlags) : (x.orFlags f).l = x.l := rfl
@[simp] theorem Slot.orFlags_work (x : Slot) (f : FpFlags) : (x.orFlags f).work = x.work := rfl
@[simp] theorem Slot.orFlags_anchor (x : Slot) (f : FpFlags) : (x.orFlags f).anchor = x.anchor := rfl
@[simp] theorem Slot.orFlags_run (x : Slot) (f : FpFlags) : (x.orFlags f).run = x.run := rfl
@[simp] theorem Slot.orFlags_holds (x : Slot) (f : FpFlags) : (x.orFlags f).holds = x.holds := rfl
@[simp] theorem Slot.orFlags_landed (x : Slot) (f : FpFlags) : (x.orFlags f).landed = x.landed := rfl
@[simp] theorem Slot.orFlags_jpop (x : Slot) (f : FpFlags) : (x.orFlags f).jpop = x.jpop := rfl
@[simp] theorem Slot.orFlags_trip (x : Slot) (f : FpFlags) : (x.orFlags f).trip = x.trip := rfl
@[simp] theorem Slot.orFlags_prio (x : Slot) (f : FpFlags) : (x.orFlags f).prio = x.prio := rfl
@[simp] theorem Slot.orFlags_sgen (x : Slot) (f : FpFlags) : (x.orFlags f).sgen = x.sgen := rfl
@[simp] theorem Slot.orFlags_scnt (x : Slot) (f : FpFlags) : (x.orFlags f).scnt = x.scnt := rfl
@[simp] theorem Slot.orFlags_ord (x : Slot) (f : FpFlags) : (x.orFlags f).ord = x.ord := rfl
@[simp] theorem Slot.orFlags_aging (x : Slot) (f : FpFlags) : (x.orFlags f).aging = x.aging := rfl
@[simp] theorem Slot.orFlags_evage (x : Slot) (f : FpFlags) : (x.orFlags f).evage = x.evage := rfl
@[simp] theorem Slot.orFlags_evRaised (x : Slot) (f : FpFlags) : (x.orFlags f).evRaised = x.evRaised := rfl
@[simp] theorem Slot.orFlags_readyAt (x : Slot) (f : FpFlags) : (x.orFlags f).readyAt = x.readyAt := rfl
@[simp] theorem Slot.orFlags_line (x : Slot) (f : FpFlags) : (x.orFlags f).line = x.line := rfl
@[simp] theorem Slot.orFlags_fetching (x : Slot) (f : FpFlags) : (x.orFlags f).fetching = x.fetching := rfl
@[simp] theorem Slot.orFlags_branchPc (x : Slot) (f : FpFlags) : (x.orFlags f).branchPc = x.branchPc := rfl
@[simp] theorem Slot.orFlags_target (x : Slot) (f : FpFlags) : (x.orFlags f).target = x.target := rfl
@[simp] theorem Slot.orFlags_asyncs (x : Slot) (f : FpFlags) : (x.orFlags f).asyncs = x.asyncs := rfl
@[simp] theorem Slot.orFlags_folds (x : Slot) (f : FpFlags) : (x.orFlags f).folds = x.folds := rfl
@[simp] theorem Slot.orFlags_pushed (x : Slot) (f : FpFlags) : (x.orFlags f).pushed = x.pushed := rfl
@[simp] theorem Slot.orFlags_created (x : Slot) (f : FpFlags) : (x.orFlags f).created = x.created := rfl
@[simp] theorem Slot.orFlags_frameInfo (x : Slot) (f : FpFlags) : (x.orFlags f).frameInfo = x.frameInfo := rfl
@[simp] theorem Slot.orFlags_fence (x : Slot) (f : FpFlags) : (x.orFlags f).fence = x.fence := rfl
@[simp] theorem Slot.orFlags_eos (x : Slot) (f : FpFlags) : (x.orFlags f).eos = x.eos := rfl
@[simp] theorem Slot.orFlags_deadBelow (x : Slot) (f : FpFlags) : (x.orFlags f).deadBelow = x.deadBelow := rfl
@[simp] theorem Slot.orFlags_jtab (x : Slot) (f : FpFlags) : (x.orFlags f).jtab = x.jtab := rfl
@[simp] theorem Slot.orFlags_ending (x : Slot) (f : FpFlags) : (x.orFlags f).ending = x.ending := rfl
@[simp] theorem Slot.orFlags_replyDest (x : Slot) (f : FpFlags) : (x.orFlags f).replyDest = x.replyDest := rfl
@[simp] theorem Slot.orFlags_defPlace (x : Slot) (f : FpFlags) : (x.orFlags f).defPlace = x.defPlace := rfl

@[simp] theorem Slot.wake_regs (x : Slot) (now : Nat) : (x.wake now).regs = x.regs := rfl
@[simp] theorem Slot.wake_full (x : Slot) (now : Nat) : (x.wake now).full = x.full := rfl
@[simp] theorem Slot.wake_pend (x : Slot) (now : Nat) : (x.wake now).pend = x.pend := rfl
@[simp] theorem Slot.wake_pc (x : Slot) (now : Nat) : (x.wake now).pc = x.pc := rfl
@[simp] theorem Slot.wake_pred (x : Slot) (now : Nat) : (x.wake now).pred = x.pred := rfl
@[simp] theorem Slot.wake_frm (x : Slot) (now : Nat) : (x.wake now).frm = x.frm := rfl
@[simp] theorem Slot.wake_ffrm (x : Slot) (now : Nat) : (x.wake now).ffrm = x.ffrm := rfl
@[simp] theorem Slot.wake_fflim (x : Slot) (now : Nat) : (x.wake now).fflim = x.fflim := rfl
@[simp] theorem Slot.wake_bobRm (x : Slot) (now : Nat) : (x.wake now).bobRm = x.bobRm := rfl
@[simp] theorem Slot.wake_bobLim (x : Slot) (now : Nat) : (x.wake now).bobLim = x.bobLim := rfl
@[simp] theorem Slot.wake_rkey (x : Slot) (now : Nat) : (x.wake now).rkey = x.rkey := rfl
@[simp] theorem Slot.wake_evc (x : Slot) (now : Nat) : (x.wake now).evc = x.evc := rfl
@[simp] theorem Slot.wake_ln (x : Slot) (now : Nat) : (x.wake now).ln = x.ln := rfl
@[simp] theorem Slot.wake_lnPend (x : Slot) (now : Nat) : (x.wake now).lnPend = x.lnPend := rfl
@[simp] theorem Slot.wake_ix (x : Slot) (now : Nat) : (x.wake now).ix = x.ix := rfl
@[simp] theorem Slot.wake_g (x : Slot) (now : Nat) : (x.wake now).g = x.g := rfl
@[simp] theorem Slot.wake_s (x : Slot) (now : Nat) : (x.wake now).s = x.s := rfl
@[simp] theorem Slot.wake_l (x : Slot) (now : Nat) : (x.wake now).l = x.l := rfl
@[simp] theorem Slot.wake_work (x : Slot) (now : Nat) : (x.wake now).work = x.work := rfl
@[simp] theorem Slot.wake_anchor (x : Slot) (now : Nat) : (x.wake now).anchor = x.anchor := rfl
@[simp] theorem Slot.wake_holds (x : Slot) (now : Nat) : (x.wake now).holds = x.holds := rfl
@[simp] theorem Slot.wake_landed (x : Slot) (now : Nat) : (x.wake now).landed = x.landed := rfl
@[simp] theorem Slot.wake_jpop (x : Slot) (now : Nat) : (x.wake now).jpop = x.jpop := rfl
@[simp] theorem Slot.wake_trip (x : Slot) (now : Nat) : (x.wake now).trip = x.trip := rfl
@[simp] theorem Slot.wake_prio (x : Slot) (now : Nat) : (x.wake now).prio = x.prio := rfl
@[simp] theorem Slot.wake_sgen (x : Slot) (now : Nat) : (x.wake now).sgen = x.sgen := rfl
@[simp] theorem Slot.wake_scnt (x : Slot) (now : Nat) : (x.wake now).scnt = x.scnt := rfl
@[simp] theorem Slot.wake_ord (x : Slot) (now : Nat) : (x.wake now).ord = x.ord := rfl
@[simp] theorem Slot.wake_evage (x : Slot) (now : Nat) : (x.wake now).evage = x.evage := rfl
@[simp] theorem Slot.wake_evRaised (x : Slot) (now : Nat) : (x.wake now).evRaised = x.evRaised := rfl
@[simp] theorem Slot.wake_line (x : Slot) (now : Nat) : (x.wake now).line = x.line := rfl
@[simp] theorem Slot.wake_fetching (x : Slot) (now : Nat) : (x.wake now).fetching = x.fetching := rfl
@[simp] theorem Slot.wake_branchPc (x : Slot) (now : Nat) : (x.wake now).branchPc = x.branchPc := rfl
@[simp] theorem Slot.wake_target (x : Slot) (now : Nat) : (x.wake now).target = x.target := rfl
@[simp] theorem Slot.wake_asyncs (x : Slot) (now : Nat) : (x.wake now).asyncs = x.asyncs := rfl
@[simp] theorem Slot.wake_folds (x : Slot) (now : Nat) : (x.wake now).folds = x.folds := rfl
@[simp] theorem Slot.wake_pushed (x : Slot) (now : Nat) : (x.wake now).pushed = x.pushed := rfl
@[simp] theorem Slot.wake_created (x : Slot) (now : Nat) : (x.wake now).created = x.created := rfl
@[simp] theorem Slot.wake_frameInfo (x : Slot) (now : Nat) : (x.wake now).frameInfo = x.frameInfo := rfl
@[simp] theorem Slot.wake_fence (x : Slot) (now : Nat) : (x.wake now).fence = x.fence := rfl
@[simp] theorem Slot.wake_eos (x : Slot) (now : Nat) : (x.wake now).eos = x.eos := rfl
@[simp] theorem Slot.wake_deadBelow (x : Slot) (now : Nat) : (x.wake now).deadBelow = x.deadBelow := rfl
@[simp] theorem Slot.wake_jtab (x : Slot) (now : Nat) : (x.wake now).jtab = x.jtab := rfl
@[simp] theorem Slot.wake_ending (x : Slot) (now : Nat) : (x.wake now).ending = x.ending := rfl
@[simp] theorem Slot.wake_replyDest (x : Slot) (now : Nat) : (x.wake now).replyDest = x.replyDest := rfl
@[simp] theorem Slot.wake_defPlace (x : Slot) (now : Nat) : (x.wake now).defPlace = x.defPlace := rfl

@[simp] theorem Slot.suspend_regs (x : Slot) (w : Wait) : (x.suspend w).regs = x.regs := rfl
@[simp] theorem Slot.suspend_full (x : Slot) (w : Wait) : (x.suspend w).full = x.full := rfl
@[simp] theorem Slot.suspend_pend (x : Slot) (w : Wait) : (x.suspend w).pend = x.pend := rfl
@[simp] theorem Slot.suspend_pc (x : Slot) (w : Wait) : (x.suspend w).pc = x.pc := rfl
@[simp] theorem Slot.suspend_pred (x : Slot) (w : Wait) : (x.suspend w).pred = x.pred := rfl
@[simp] theorem Slot.suspend_frm (x : Slot) (w : Wait) : (x.suspend w).frm = x.frm := rfl
@[simp] theorem Slot.suspend_ffrm (x : Slot) (w : Wait) : (x.suspend w).ffrm = x.ffrm := rfl
@[simp] theorem Slot.suspend_fflim (x : Slot) (w : Wait) : (x.suspend w).fflim = x.fflim := rfl
@[simp] theorem Slot.suspend_bobRm (x : Slot) (w : Wait) : (x.suspend w).bobRm = x.bobRm := rfl
@[simp] theorem Slot.suspend_bobLim (x : Slot) (w : Wait) : (x.suspend w).bobLim = x.bobLim := rfl
@[simp] theorem Slot.suspend_rkey (x : Slot) (w : Wait) : (x.suspend w).rkey = x.rkey := rfl
@[simp] theorem Slot.suspend_evc (x : Slot) (w : Wait) : (x.suspend w).evc = x.evc := rfl
@[simp] theorem Slot.suspend_ln (x : Slot) (w : Wait) : (x.suspend w).ln = x.ln := rfl
@[simp] theorem Slot.suspend_lnPend (x : Slot) (w : Wait) : (x.suspend w).lnPend = x.lnPend := rfl
@[simp] theorem Slot.suspend_ix (x : Slot) (w : Wait) : (x.suspend w).ix = x.ix := rfl
@[simp] theorem Slot.suspend_g (x : Slot) (w : Wait) : (x.suspend w).g = x.g := rfl
@[simp] theorem Slot.suspend_s (x : Slot) (w : Wait) : (x.suspend w).s = x.s := rfl
@[simp] theorem Slot.suspend_l (x : Slot) (w : Wait) : (x.suspend w).l = x.l := rfl
@[simp] theorem Slot.suspend_work (x : Slot) (w : Wait) : (x.suspend w).work = x.work := rfl
@[simp] theorem Slot.suspend_anchor (x : Slot) (w : Wait) : (x.suspend w).anchor = x.anchor := rfl
@[simp] theorem Slot.suspend_holds (x : Slot) (w : Wait) : (x.suspend w).holds = x.holds := rfl
@[simp] theorem Slot.suspend_landed (x : Slot) (w : Wait) : (x.suspend w).landed = x.landed := rfl
@[simp] theorem Slot.suspend_jpop (x : Slot) (w : Wait) : (x.suspend w).jpop = x.jpop := rfl
@[simp] theorem Slot.suspend_trip (x : Slot) (w : Wait) : (x.suspend w).trip = x.trip := rfl
@[simp] theorem Slot.suspend_prio (x : Slot) (w : Wait) : (x.suspend w).prio = x.prio := rfl
@[simp] theorem Slot.suspend_sgen (x : Slot) (w : Wait) : (x.suspend w).sgen = x.sgen := rfl
@[simp] theorem Slot.suspend_scnt (x : Slot) (w : Wait) : (x.suspend w).scnt = x.scnt := rfl
@[simp] theorem Slot.suspend_ord (x : Slot) (w : Wait) : (x.suspend w).ord = x.ord := rfl
@[simp] theorem Slot.suspend_evage (x : Slot) (w : Wait) : (x.suspend w).evage = x.evage := rfl
@[simp] theorem Slot.suspend_evRaised (x : Slot) (w : Wait) : (x.suspend w).evRaised = x.evRaised := rfl
@[simp] theorem Slot.suspend_readyAt (x : Slot) (w : Wait) : (x.suspend w).readyAt = x.readyAt := rfl
@[simp] theorem Slot.suspend_line (x : Slot) (w : Wait) : (x.suspend w).line = x.line := rfl
@[simp] theorem Slot.suspend_fetching (x : Slot) (w : Wait) : (x.suspend w).fetching = x.fetching := rfl
@[simp] theorem Slot.suspend_branchPc (x : Slot) (w : Wait) : (x.suspend w).branchPc = x.branchPc := rfl
@[simp] theorem Slot.suspend_target (x : Slot) (w : Wait) : (x.suspend w).target = x.target := rfl
@[simp] theorem Slot.suspend_asyncs (x : Slot) (w : Wait) : (x.suspend w).asyncs = x.asyncs := rfl
@[simp] theorem Slot.suspend_folds (x : Slot) (w : Wait) : (x.suspend w).folds = x.folds := rfl
@[simp] theorem Slot.suspend_pushed (x : Slot) (w : Wait) : (x.suspend w).pushed = x.pushed := rfl
@[simp] theorem Slot.suspend_created (x : Slot) (w : Wait) : (x.suspend w).created = x.created := rfl
@[simp] theorem Slot.suspend_frameInfo (x : Slot) (w : Wait) : (x.suspend w).frameInfo = x.frameInfo := rfl
@[simp] theorem Slot.suspend_fence (x : Slot) (w : Wait) : (x.suspend w).fence = x.fence := rfl
@[simp] theorem Slot.suspend_eos (x : Slot) (w : Wait) : (x.suspend w).eos = x.eos := rfl
@[simp] theorem Slot.suspend_deadBelow (x : Slot) (w : Wait) : (x.suspend w).deadBelow = x.deadBelow := rfl
@[simp] theorem Slot.suspend_jtab (x : Slot) (w : Wait) : (x.suspend w).jtab = x.jtab := rfl
@[simp] theorem Slot.suspend_ending (x : Slot) (w : Wait) : (x.suspend w).ending = x.ending := rfl
@[simp] theorem Slot.suspend_replyDest (x : Slot) (w : Wait) : (x.suspend w).replyDest = x.replyDest := rfl
@[simp] theorem Slot.suspend_defPlace (x : Slot) (w : Wait) : (x.suspend w).defPlace = x.defPlace := rfl

end Sys2Proof.Machine
end

