-- ==== Sys2Proof/Laws/Issue.lean ====
section
/-! SUPPORT. What `Ready` gives the shared operations of an issue: the sources read, the destinations free, the effect run. -/

namespace Sys2Proof.Machine

theorem State.Ready.r3 {s t : State} {g a b c ds l x y z} (h : s.Ready g [a,b,c] ds l [x,y,z] t) : s.read3 a b c = .ok (x,y,z,t) := by
  simp only [State.read3, h.read, bind, Except.bind]; rfl
theorem State.Ready.r2 {s t : State} {g b c ds l x y} (h : s.Ready g [b,c] ds l [x,y] t) : s.read2 b c = .ok (x,y,t) := by
  simp only [State.read2, h.read, bind, Except.bind]; rfl
theorem State.Ready.r1 {s t : State} {g b ds l x} (h : s.Ready g [b] ds l [x] t) : s.read1 b = .ok (x,t) := by
  simp only [State.read1, h.read, bind, Except.bind]; rfl
theorem State.Ready.r0 {s t : State} {g ds l} (h : s.Ready g [] ds l [] t) : t = s := by
  have := h.read; simp [State.readSrcs, Slot.firstBlocked] at this; exact this.symm
theorem State.Ready.d1 {s t : State} {g rs d l vs} (h : s.Ready g rs [d] l vs t) : t.waitDst d = .ok () := h.dest d (by simp)
theorem issue_ok {g s} {f : State → Iss State} {u} (hg : s.cur.guard g = true) (h : f s = .ok u) : issue g s f = .next u := by
  simp [issue, hg, h]
theorem need_ok {b e} (h : b = true) : need b e = .ok () := by simp [need, h]

/-- Everything an issue can do. -/
theorem issue_cases {g : Guard} {s r : State} {f : State → Iss State} (h : issue g s f = .next r) :
    (s.cur.guard g = false ∧ r = s.advance) ∨
    (s.cur.guard g = true ∧ (f s = .ok r ∨ (∃ w, f s = .error (.wait w) ∧ r = s.suspendCur w) ∨
      ∃ x, f s = .error (.fault x) ∧ r = s.exactFault x)) := by
  unfold issue at h
  by_cases hg : s.cur.guard g = true
  · rw [if_pos hg] at h
    right
    refine ⟨hg, ?_⟩
    split at h <;> rename_i he <;> cases h
    · exact .inl he
    · exact .inr (.inl ⟨_, he, rfl⟩)
    · exact .inr (.inr ⟨_, he, rfl⟩)
  · rw [if_neg hg] at h
    cases h
    exact .inl ⟨by simpa using hg, rfl⟩

/-- An issue always answers a next state. -/
theorem issue_next (g : Guard) (s : State) (f : State → Iss State) : ∃ r, issue g s f = .next r := by
  unfold issue
  split
  · split <;> exact ⟨_, rfl⟩
  · exact ⟨_, rfl⟩

/-- With a false guard an issue only goes on. -/
theorem issue_false {g : Guard} {s : State} (f : State → Iss State) (h : s.cur.guard g = false) : issue g s f = .next s.advance := by
  simp [issue, h]

/-- What a read of sources other than qi answers. -/
theorem readSrcs_cases {s : State} {rs : List Reg} (h : rs.contains 28 = false) :
    s.readSrcs rs = .ok (rs.map s.cur.val, s) ∨ ∃ e, s.cur.firstBlocked rs = some e ∧ s.readSrcs rs = .error e := by
  unfold State.readSrcs
  cases hb : s.cur.firstBlocked rs with
  | none => left; simp at h; simp [h]
  | some e => right; exact ⟨e, rfl, rfl⟩

/-- Why a destination is waited for. -/
theorem waitDst_cases {s : State} {r : Reg} :
    s.waitDst r = .ok () ∨ (isWindow r = true ∧ s.cur.isPend r.toNat = true ∧ s.waitDst r = .error (.wait (.reg r))) ∨
    (r = 31 ∧ s.cur.lnPend = true ∧ s.waitDst r = .error (.wait .ln)) ∨
    (r = 29 ∧ s.curCore.qoFree = false ∧ s.waitDst r = .error (.wait .qo)) := by
  unfold State.waitDst
  by_cases h1 : (isWindow r && s.cur.isPend r.toNat) = true
  · right; left; simp_all
  · by_cases h2 : (decide (r = 31) && s.cur.lnPend) = true
    · right; right; left; simp_all
    · by_cases h3 : (decide (r = 29) && !s.curCore.qoFree) = true
      · right; right; right; simp_all
      · left; exact (if_neg h1).trans ((if_neg h2).trans (if_neg h3))

end Sys2Proof.Machine
end

