-- ==== Sys2Proof/Laws/Memory.lean ====
section
/-! SUPPORT. Every operation on a memory keeps its canonical form, and the memories at reset have it. -/

namespace Sys2Proof.Machine

theorem awfFrom_filter {α : Type} [DecidableEq α] {d : α} (p : Nat × α → Bool) : ∀ (m : List (Nat × α)) (lo : Nat),
    awfFrom d lo m = true → awfFrom d lo (m.filter p) = true
  | [], _, h => h
  | (k, v) :: m, lo, h => by
    simp only [awfFrom, Bool.and_eq_true, decide_eq_true_eq] at h
    have hm := awfFrom_filter p m (k + 1) h.2
    by_cases hp : p (k, v)
    · simp only [List.filter_cons, hp, if_true, awfFrom, Bool.and_eq_true, decide_eq_true_eq]
      exact ⟨h.1, hm⟩
    · simp only [List.filter_cons, hp]
      exact awfFrom_mono (by omega) hm

/-- The entries a filter keeps are still canonical. -/
theorem awf_filter {α : Type} [DecidableEq α] {d : α} (p : Nat × α → Bool) {m : List (Nat × α)} (h : awf d m = true) :
    awf d (m.filter p) = true := awfFrom_filter p m 0 h

theorem State.setPhysByte_wf {s : State} (pa : Nat) (b : Byte) (h : Memory.wf s.mem = true) :
    Memory.wf (s.setPhysByte pa b).mem = true := awf_aset pa b h

theorem State.setPhysTag_wf {s : State} (pa : Nat) (t : BitVec 2) (h : awf 0 s.tags = true) :
    awf 0 (s.setPhysTag pa t).tags = true := awf_aset (pa / 8) t h

theorem physFold_wf (bs : List Byte) : ∀ (p : State × Nat), Memory.wf p.1.mem = true →
    Memory.wf (bs.foldl (fun (p : State × Nat) b => (p.1.setPhysByte p.2 b, p.2 + 1)) p).1.mem = true := by
  induction bs with
  | nil => intro p h; exact h
  | cons b bs ih => intro p h; exact ih _ (State.setPhysByte_wf _ _ h)

theorem State.physWrite_wf {s : State} (pa : Nat) (bs : List Byte) (h : Memory.wf s.mem = true) :
    Memory.wf (s.physWrite pa bs).mem = true := physFold_wf bs (s, pa) h

theorem State.setPhysWord_wf {s : State} (pa : Nat) (v : Word) (h : Memory.wf s.mem = true) :
    Memory.wf (s.setPhysWord pa v).mem = true := State.physWrite_wf pa _ h

theorem State.bumpVersion_wf {s : State} (pa : Nat) (h : Memory.wf s.mem = true) : Memory.wf (s.bumpVersion pa).mem = true :=
  State.setPhysWord_wf _ _ h

/-- A dirty line goes into its slice, and memory waits for its write-back. -/
@[simp] theorem State.dirtyLine_mem (s : State) (id : Nat) (l : CLine) : (s.dirtyLine id l).mem = s.mem := by
  unfold State.dirtyLine
  dsimp only
  split <;> rfl

/-- A word of a table that the slices serve is written in its line or in memory, which stays canonical. -/
theorem State.setTableWord_wf {s : State} (pa : Nat) (x : Word) (h : Memory.wf s.mem = true) :
    Memory.wf (s.setTableWord pa x).mem = true := by
  unfold State.setTableWord
  split
  · rw [State.dirtyLine_mem]; exact h
  · exact State.setPhysWord_wf _ _ h

theorem State.setViWord_wf {s : State} (id : Nat) (v : BitVec 6) (w : Nat) (x : Word) (h : Memory.wf s.mem = true) :
    Memory.wf (s.setViWord id v w x).mem = true := State.setTableWord_wf _ _ h

theorem tagFold_mem (l : CLine) (ks : List Nat) : ∀ s : State,
    (ks.foldl (fun s k => { s.setPhysTag (l.pa + 8 * k) (l.tag k) with
      marks := aset false s.marks (l.pa / 8 + k) (l.marked.getLsbD k) }) s).mem = s.mem := by
  induction ks with
  | nil => intro s; rfl
  | cons k ks ih => intro s; exact (ih _).trans rfl

/-- Writing a line back keeps the memory canonical. -/
theorem State.writeBack_wf {s : State} (l : CLine) (h : Memory.wf s.mem = true) : Memory.wf (s.writeBack l).mem = true := by
  unfold State.writeBack
  rw [tagFold_mem]
  exact State.physWrite_wf _ _ h

theorem hostFold_wf (at_ : Nat) (bs : List (Byte × Nat)) : ∀ m : List Host.Cell, Memory.wf m = true →
    Memory.wf (bs.foldl (fun m b => aset 0 m (at_ + b.2) b.1) m) = true := by
  induction bs with
  | nil => intro m h; exact h
  | cons b bs ih => intro m h; exact ih _ (awf_aset _ _ h)

/-- Writing host memory, or a namespace of the NVMe device, keeps it canonical. -/
theorem hostWrite_wf {m : List Host.Cell} (at_ : Nat) (bs : List Byte) (h : Memory.wf m = true) :
    Memory.wf (hostWrite m at_ bs) = true := hostFold_wf at_ _ m h

theorem reset_memory_wf : Memory.wf State.reset.mem = true ∧ Memory.wf State.reset.hostMem = true ∧
    (State.reset.nvme.all fun p => Memory.wf p.2) = true ∧ awf 0 State.reset.tags = true ∧ awf false State.reset.marks = true :=
  ⟨rfl, rfl, rfl, rfl, rfl⟩

/-- A byte written is read back, and every other byte reads as before. -/
theorem State.physByte_setPhysByte {s : State} (pa q : Nat) (b : Byte) (h : Memory.wf s.mem = true) :
    (s.setPhysByte pa b).physByte q = if q = pa then b else s.physByte q := aget_aset pa q b h

end Sys2Proof.Machine
end

