-- ==== Sys2Proof/Laws/PerInstr.lean ====
section
/-! SUPPORT. The family RoundTrip: one lemma per constructor of `Instr` says that decoding the words of a
well-formed instruction gives it back. A constructor that is no instruction of a program (a device step of
the opcode table) has no words, so its lemma holds at once. -/

set_option linter.unusedSimpArgs false

namespace Sys2Proof.Laws.RoundTrip
/-- Decoding the words of a well-formed instruction gives it back. -/
def Statement (i : Instr) : Prop := i.wf = true → ∀ w, encode i = some w → decode w.head w.tail = .ok i
theorem br (g : Guard) (i : BitVec 27) : Statement (.br g i) := by
  intro _ _ h; cases h; exact decode_f2l _ _ _ _ _ rfl
theorem call (g : Guard) (i : BitVec 27) : Statement (.call g i) := by
  intro _ _ h; cases h; exact decode_f2l _ _ _ _ _ rfl
theorem jr (g : Guard) (b : Reg) : Statement (.jr g b) := by
  intro _ _ h; cases h; exact decode_f1 _ _ _ _ _ _ rfl
theorem callr (g : Guard) (b : Reg) : Statement (.callr g b) := by
  intro _ _ h; cases h; exact decode_f1 _ _ _ _ _ _ rfl
theorem jtab (g : Guard) (b : Reg) (c : Reg) (len : BitVec 16) : Statement (.jtab g b c len) := by
  intro _ _ h; cases h; exact decode_f2 _ _ _ _ _ _ _ rfl
theorem exit (g : Guard) : Statement (.exit g) := by
  intro _ _ h; cases h; exact decode_h _ _ _ rfl
theorem nop (g : Guard) : Statement (.nop g) := by
  intro _ _ h; cases h; exact decode_h _ _ _ rfl
theorem trap (g : Guard) (b : Reg) (code : BitVec 16) : Statement (.trap g b code) := by
  intro _ _ h; cases h; exact decode_f2 _ _ _ _ _ _ _ rfl
theorem add (g : Guard) (w : Bool) (a : Reg) (b : Reg) (c : Reg) : Statement (.add g w a b c) := by
  intro _ _ h; cases h; cases w <;> exact decode_f1 _ _ _ _ _ _ rfl
theorem sub (g : Guard) (w : Bool) (a : Reg) (b : Reg) (c : Reg) : Statement (.sub g w a b c) := by
  intro _ _ h; cases h; cases w <;> exact decode_f1 _ _ _ _ _ _ rfl
theorem mul (g : Guard) (w : Bool) (a : Reg) (b : Reg) (c : Reg) : Statement (.mul g w a b c) := by
  intro _ _ h; cases h; cases w <;> exact decode_f1 _ _ _ _ _ _ rfl
theorem mulh (g : Guard) (w : Bool) (a : Reg) (b : Reg) (c : Reg) : Statement (.mulh g w a b c) := by
  intro _ _ h; cases h; cases w <;> exact decode_f1 _ _ _ _ _ _ rfl
theorem mulhz (g : Guard) (w : Bool) (a : Reg) (b : Reg) (c : Reg) : Statement (.mulhz g w a b c) := by
  intro _ _ h; cases h; cases w <;> exact decode_f1 _ _ _ _ _ _ rfl
theorem div (g : Guard) (w : Bool) (a : Reg) (b : Reg) (c : Reg) : Statement (.div g w a b c) := by
  intro _ _ h; cases h; cases w <;> exact decode_f1 _ _ _ _ _ _ rfl
theorem divz (g : Guard) (w : Bool) (a : Reg) (b : Reg) (c : Reg) : Statement (.divz g w a b c) := by
  intro _ _ h; cases h; cases w <;> exact decode_f1 _ _ _ _ _ _ rfl
theorem rem (g : Guard) (w : Bool) (a : Reg) (b : Reg) (c : Reg) : Statement (.rem g w a b c) := by
  intro _ _ h; cases h; cases w <;> exact decode_f1 _ _ _ _ _ _ rfl
theorem remz (g : Guard) (w : Bool) (a : Reg) (b : Reg) (c : Reg) : Statement (.remz g w a b c) := by
  intro _ _ h; cases h; cases w <;> exact decode_f1 _ _ _ _ _ _ rfl
theorem and (g : Guard) (w : Bool) (a : Reg) (b : Reg) (c : Reg) : Statement (.and g w a b c) := by
  intro _ _ h; cases h; cases w <;> exact decode_f1 _ _ _ _ _ _ rfl
theorem or (g : Guard) (w : Bool) (a : Reg) (b : Reg) (c : Reg) : Statement (.or g w a b c) := by
  intro _ _ h; cases h; cases w <;> exact decode_f1 _ _ _ _ _ _ rfl
theorem xor (g : Guard) (w : Bool) (a : Reg) (b : Reg) (c : Reg) : Statement (.xor g w a b c) := by
  intro _ _ h; cases h; cases w <;> exact decode_f1 _ _ _ _ _ _ rfl
theorem andn (g : Guard) (w : Bool) (a : Reg) (b : Reg) (c : Reg) : Statement (.andn g w a b c) := by
  intro _ _ h; cases h; cases w <;> exact decode_f1 _ _ _ _ _ _ rfl
theorem orn (g : Guard) (w : Bool) (a : Reg) (b : Reg) (c : Reg) : Statement (.orn g w a b c) := by
  intro _ _ h; cases h; cases w <;> exact decode_f1 _ _ _ _ _ _ rfl
theorem shl (g : Guard) (w : Bool) (a : Reg) (b : Reg) (c : Reg) : Statement (.shl g w a b c) := by
  intro _ _ h; cases h; cases w <;> exact decode_f1 _ _ _ _ _ _ rfl
theorem shr (g : Guard) (w : Bool) (a : Reg) (b : Reg) (c : Reg) : Statement (.shr g w a b c) := by
  intro _ _ h; cases h; cases w <;> exact decode_f1 _ _ _ _ _ _ rfl
theorem sra (g : Guard) (w : Bool) (a : Reg) (b : Reg) (c : Reg) : Statement (.sra g w a b c) := by
  intro _ _ h; cases h; cases w <;> exact decode_f1 _ _ _ _ _ _ rfl
theorem rol (g : Guard) (w : Bool) (a : Reg) (b : Reg) (c : Reg) : Statement (.rol g w a b c) := by
  intro _ _ h; cases h; cases w <;> exact decode_f1 _ _ _ _ _ _ rfl
theorem ror (g : Guard) (w : Bool) (a : Reg) (b : Reg) (c : Reg) : Statement (.ror g w a b c) := by
  intro _ _ h; cases h; cases w <;> exact decode_f1 _ _ _ _ _ _ rfl
theorem min (g : Guard) (w : Bool) (a : Reg) (b : Reg) (c : Reg) : Statement (.min g w a b c) := by
  intro _ _ h; cases h; cases w <;> exact decode_f1 _ _ _ _ _ _ rfl
theorem max (g : Guard) (w : Bool) (a : Reg) (b : Reg) (c : Reg) : Statement (.max g w a b c) := by
  intro _ _ h; cases h; cases w <;> exact decode_f1 _ _ _ _ _ _ rfl
theorem minz (g : Guard) (w : Bool) (a : Reg) (b : Reg) (c : Reg) : Statement (.minz g w a b c) := by
  intro _ _ h; cases h; cases w <;> exact decode_f1 _ _ _ _ _ _ rfl
theorem maxz (g : Guard) (w : Bool) (a : Reg) (b : Reg) (c : Reg) : Statement (.maxz g w a b c) := by
  intro _ _ h; cases h; cases w <;> exact decode_f1 _ _ _ _ _ _ rfl
theorem clz (g : Guard) (w : Bool) (a : Reg) (b : Reg) : Statement (.clz g w a b) := by
  intro _ _ h; cases h; cases w <;> exact decode_f1 _ _ _ _ _ _ rfl
theorem ctz (g : Guard) (w : Bool) (a : Reg) (b : Reg) : Statement (.ctz g w a b) := by
  intro _ _ h; cases h; cases w <;> exact decode_f1 _ _ _ _ _ _ rfl
theorem popc (g : Guard) (w : Bool) (a : Reg) (b : Reg) : Statement (.popc g w a b) := by
  intro _ _ h; cases h; cases w <;> exact decode_f1 _ _ _ _ _ _ rfl
theorem brev (g : Guard) (w : Bool) (a : Reg) (b : Reg) : Statement (.brev g w a b) := by
  intro _ _ h; cases h; cases w <;> exact decode_f1 _ _ _ _ _ _ rfl
theorem bswap (g : Guard) (w : Bool) (a : Reg) (b : Reg) : Statement (.bswap g w a b) := by
  intro _ _ h; cases h; cases w <;> exact decode_f1 _ _ _ _ _ _ rfl
theorem addi (g : Guard) (w : Bool) (a : Reg) (b : Reg) (imm : BitVec 16) : Statement (.addi g w a b imm) := by
  intro _ _ h; cases h; cases w <;> exact decode_f2 _ _ _ _ _ _ _ rfl
theorem andi (g : Guard) (w : Bool) (a : Reg) (b : Reg) (imm : BitVec 16) : Statement (.andi g w a b imm) := by
  intro _ _ h; cases h; cases w <;> exact decode_f2 _ _ _ _ _ _ _ rfl
theorem ori (g : Guard) (w : Bool) (a : Reg) (b : Reg) (imm : BitVec 16) : Statement (.ori g w a b imm) := by
  intro _ _ h; cases h; cases w <;> exact decode_f2 _ _ _ _ _ _ _ rfl
theorem xori (g : Guard) (w : Bool) (a : Reg) (b : Reg) (imm : BitVec 16) : Statement (.xori g w a b imm) := by
  intro _ _ h; cases h; cases w <;> exact decode_f2 _ _ _ _ _ _ _ rfl
theorem shli (g : Guard) (w : Bool) (a : Reg) (b : Reg) (sh : BitVec 6) : Statement (.shli g w a b sh) := by
  intro hw w h; cases h; refine (decode_f2 _ _ _ _ _ _ _ rfl).trans ?_
  simp_all [decodeF2, decodeIopi, chk, chkO, Instr.wf, shiftFits, fmtOf_code, scopeOf_code, widthOf_code, condOf_code, combOf_code, fcondOf_code, vcondOf_code, lsb_bit, extract_low 1 5, extract_high 1 5, lsb_low 1 5, lsb_high 1 5, extract_low 10 6, extract_high 10 6, lsb_low 10 6, lsb_high 10 6, -BitVec.getLsbD_eq_getElem]
  intro e; rcases hw with h | h
  · simp_all
  · exact Nat.testBit_lt_two_pow h
theorem shri (g : Guard) (w : Bool) (a : Reg) (b : Reg) (sh : BitVec 6) : Statement (.shri g w a b sh) := by
  intro hw w h; cases h; refine (decode_f2 _ _ _ _ _ _ _ rfl).trans ?_
  simp_all [decodeF2, decodeIopi, chk, chkO, Instr.wf, shiftFits, fmtOf_code, scopeOf_code, widthOf_code, condOf_code, combOf_code, fcondOf_code, vcondOf_code, lsb_bit, extract_low 1 5, extract_high 1 5, lsb_low 1 5, lsb_high 1 5, extract_low 10 6, extract_high 10 6, lsb_low 10 6, lsb_high 10 6, -BitVec.getLsbD_eq_getElem]
  intro e; rcases hw with h | h
  · simp_all
  · exact Nat.testBit_lt_two_pow h
theorem srai (g : Guard) (w : Bool) (a : Reg) (b : Reg) (sh : BitVec 6) : Statement (.srai g w a b sh) := by
  intro hw w h; cases h; refine (decode_f2 _ _ _ _ _ _ _ rfl).trans ?_
  simp_all [decodeF2, decodeIopi, chk, chkO, Instr.wf, shiftFits, fmtOf_code, scopeOf_code, widthOf_code, condOf_code, combOf_code, fcondOf_code, vcondOf_code, lsb_bit, extract_low 1 5, extract_high 1 5, lsb_low 1 5, lsb_high 1 5, extract_low 10 6, extract_high 10 6, lsb_low 10 6, lsb_high 10 6, -BitVec.getLsbD_eq_getElem]
  intro e; rcases hw with h | h
  · simp_all
  · exact Nat.testBit_lt_two_pow h
theorem muli (g : Guard) (w : Bool) (a : Reg) (b : Reg) (imm : BitVec 16) : Statement (.muli g w a b imm) := by
  intro _ _ h; cases h; cases w <;> exact decode_f2 _ _ _ _ _ _ _ rfl
theorem mini (g : Guard) (w : Bool) (a : Reg) (b : Reg) (imm : BitVec 16) : Statement (.mini g w a b imm) := by
  intro _ _ h; cases h; cases w <;> exact decode_f2 _ _ _ _ _ _ _ rfl
theorem maxi (g : Guard) (w : Bool) (a : Reg) (b : Reg) (imm : BitVec 16) : Statement (.maxi g w a b imm) := by
  intro _ _ h; cases h; cases w <;> exact decode_f2 _ _ _ _ _ _ _ rfl
theorem ldi (g : Guard) (a : Reg) (imm : BitVec 27) : Statement (.ldi g a imm) := by
  intro _ _ h; cases h; exact decode_f2l _ _ _ _ _ rfl
theorem ldq (g : Guard) (a : Reg) (imm : Word) : Statement (.ldq g a imm) := by
  intro _ _ h; cases h; exact decode_raw4 _ _ _ _ rfl
theorem padd (g : Guard) (ln : Lane) (a : Reg) (b : Reg) (c : Reg) : Statement (.padd g ln a b c) := by
  intro _ _ h; cases h; cases ln <;> exact decode_f1 _ _ _ _ _ _ rfl
theorem psub (g : Guard) (ln : Lane) (a : Reg) (b : Reg) (c : Reg) : Statement (.psub g ln a b c) := by
  intro _ _ h; cases h; cases ln <;> exact decode_f1 _ _ _ _ _ _ rfl
theorem pmin (g : Guard) (ln : Lane) (a : Reg) (b : Reg) (c : Reg) : Statement (.pmin g ln a b c) := by
  intro _ _ h; cases h; cases ln <;> exact decode_f1 _ _ _ _ _ _ rfl
theorem pmax (g : Guard) (ln : Lane) (a : Reg) (b : Reg) (c : Reg) : Statement (.pmax g ln a b c) := by
  intro _ _ h; cases h; cases ln <;> exact decode_f1 _ _ _ _ _ _ rfl
theorem pminz (g : Guard) (ln : Lane) (a : Reg) (b : Reg) (c : Reg) : Statement (.pminz g ln a b c) := by
  intro _ _ h; cases h; cases ln <;> exact decode_f1 _ _ _ _ _ _ rfl
theorem pmaxz (g : Guard) (ln : Lane) (a : Reg) (b : Reg) (c : Reg) : Statement (.pmaxz g ln a b c) := by
  intro _ _ h; cases h; cases ln <;> exact decode_f1 _ _ _ _ _ _ rfl
theorem pavg (g : Guard) (ln : Lane) (a : Reg) (b : Reg) (c : Reg) : Statement (.pavg g ln a b c) := by
  intro _ _ h; cases h; cases ln <;> exact decode_f1 _ _ _ _ _ _ rfl
theorem padds (g : Guard) (ln : Lane) (a : Reg) (b : Reg) (c : Reg) : Statement (.padds g ln a b c) := by
  intro _ _ h; cases h; cases ln <;> exact decode_f1 _ _ _ _ _ _ rfl
theorem bfx (g : Guard) (a : Reg) (b : Reg) (pos : BitVec 6) (len1 : BitVec 6) : Statement (.bfx g a b pos len1) := by
  intro hw w h; cases h; refine (decode_f2 _ _ _ _ _ _ _ rfl).trans ?_
  simp_all [decodeF2, decodeBf, chk, chkO, Instr.wf, shiftFits, fmtOf_code, scopeOf_code, widthOf_code, condOf_code, combOf_code, fcondOf_code, vcondOf_code, lsb_bit, extract_low 4 6, extract_high 4 6, lsb_low 4 6, lsb_high 4 6, extract_low 10 6, extract_high 10 6, lsb_low 10 6, lsb_high 10 6, -BitVec.getLsbD_eq_getElem]
theorem bfxz (g : Guard) (a : Reg) (b : Reg) (pos : BitVec 6) (len1 : BitVec 6) : Statement (.bfxz g a b pos len1) := by
  intro hw w h; cases h; refine (decode_f2 _ _ _ _ _ _ _ rfl).trans ?_
  simp_all [decodeF2, decodeBf, chk, chkO, Instr.wf, shiftFits, fmtOf_code, scopeOf_code, widthOf_code, condOf_code, combOf_code, fcondOf_code, vcondOf_code, lsb_bit, extract_low 4 6, extract_high 4 6, lsb_low 4 6, lsb_high 4 6, extract_low 10 6, extract_high 10 6, lsb_low 10 6, lsb_high 10 6, -BitVec.getLsbD_eq_getElem]
theorem bfi (g : Guard) (a : Reg) (b : Reg) (c : Reg) (pos : BitVec 6) (len1 : BitVec 6) : Statement (.bfi g a b c pos len1) := by
  intro hw w h; cases h; refine (decode_f2 _ _ _ _ _ _ _ rfl).trans ?_
  simp_all [decodeF2, decodeBf, chk, chkO, Instr.wf, shiftFits, fmtOf_code, scopeOf_code, widthOf_code, condOf_code, combOf_code, fcondOf_code, vcondOf_code, lsb_bit, extract_low 4 6, extract_high 4 6, lsb_low 4 6, lsb_high 4 6, extract_low 10 6, extract_high 10 6, lsb_low 10 6, lsb_high 10 6, -BitVec.getLsbD_eq_getElem]
theorem lea (g : Guard) (a : Reg) (b : Reg) (c : Reg) (s : BitVec 2) (imm : BitVec 16) : Statement (.lea g a b c s imm) := by
  intro hw w h; cases h; refine (decode_f2 _ _ _ _ _ _ _ rfl).trans ?_
  simp_all [decodeF2, chk, chkO, Instr.wf, shiftFits, fmtOf_code, scopeOf_code, widthOf_code, condOf_code, combOf_code, fcondOf_code, vcondOf_code, lsb_bit, extract_low 4 2, extract_high 4 2, lsb_low 4 2, lsb_high 4 2, -BitVec.getLsbD_eq_getElem]
theorem sel (g : Guard) (a : Reg) (b : Reg) (c : Reg) (p : Pred) (neg : Bool) : Statement (.sel g a b c p neg) := by
  intro hw w h; cases h; refine (decode_f1 _ _ _ _ _ _ rfl).trans ?_
  simp_all [decodeF1, chk, chkO, Instr.wf, shiftFits, fmtOf_code, scopeOf_code, widthOf_code, condOf_code, combOf_code, fcondOf_code, vcondOf_code, lsb_bit, extract_low 2 1, extract_high 2 1, lsb_low 2 1, lsb_high 2 1, extract_low 3 3, extract_high 3 3, lsb_low 3 3, lsb_high 3 3, -BitVec.getLsbD_eq_getElem]
theorem cmp (g : Guard) (cond : Cond) (comb : Comb) (w : Bool) (p : Pred) (b : Reg) (c : Reg) : Statement (.cmp g cond comb w p b c) := by
  intro hw w h; cases h; refine (decode_f1 _ _ _ _ _ _ rfl).trans ?_
  simp_all [decodeF1, decodeCmp, chk, chkO, Instr.wf, shiftFits, fmtOf_code, scopeOf_code, widthOf_code, condOf_code, combOf_code, fcondOf_code, vcondOf_code, lsb_bit, extract_low 1 2, extract_high 1 2, lsb_low 1 2, lsb_high 1 2, extract_low 2 3, extract_high 2 3, lsb_low 2 3, lsb_high 2 3, extract_low 3 3, extract_high 3 3, lsb_low 3 3, lsb_high 3 3, -BitVec.getLsbD_eq_getElem]
theorem cmpi (g : Guard) (cond : Cond) (comb : Comb) (w : Bool) (p : Pred) (b : Reg) (imm : BitVec 16) : Statement (.cmpi g cond comb w p b imm) := by
  intro hw w h; cases h; refine (decode_f2 _ _ _ _ _ _ _ rfl).trans ?_
  simp_all [decodeF2, decodeCmp, chk, chkO, Instr.wf, shiftFits, fmtOf_code, scopeOf_code, widthOf_code, condOf_code, combOf_code, fcondOf_code, vcondOf_code, lsb_bit, extract_low 1 2, extract_high 1 2, lsb_low 1 2, lsb_high 1 2, extract_low 2 3, extract_high 2 3, lsb_low 2 3, lsb_high 2 3, extract_low 3 3, extract_high 3 3, lsb_low 3 3, lsb_high 3 3, -BitVec.getLsbD_eq_getElem]
theorem plog (g : Guard) (pk : Pred) (pj : Pred) (pi : Pred) (tt : BitVec 4) : Statement (.plog g pk pj pi tt) := by
  intro hw w h; cases h; refine (decode_f1 _ _ _ _ _ _ rfl).trans ?_
  simp_all [decodeF1, chk, chkO, Instr.wf, shiftFits, fmtOf_code, scopeOf_code, widthOf_code, condOf_code, combOf_code, fcondOf_code, vcondOf_code, lsb_bit, extract_low 2 3, extract_high 2 3, lsb_low 2 3, lsb_high 2 3, extract_low 2 4, extract_high 2 4, lsb_low 2 4, lsb_high 2 4, -BitVec.getLsbD_eq_getElem]
theorem psetw (g : Guard) (b : Reg) : Statement (.psetw g b) := by
  intro _ _ h; cases h; exact decode_f1 _ _ _ _ _ _ rfl
theorem pgetw (g : Guard) (a : Reg) : Statement (.pgetw g a) := by
  intro _ _ h; cases h; exact decode_f1 _ _ _ _ _ _ rfl
theorem fallocFree (g : Guard) (a : Reg) (b : Reg) (c : Reg) (x : FallocArgs) : Statement (.fallocFree g a b c x) := by
  intro hw w h; cases h; refine (decode_f4 _ _ _ _ _ _ _ _ rfl).trans ?_
  simp_all [decodeF4, decodeFalloc, chk, chkO, fallocCode, Instr.wf, shiftFits, fmtOf_code, scopeOf_code, widthOf_code, condOf_code, combOf_code, fcondOf_code, vcondOf_code, lsb_bit, extract_low 8 8, extract_high 8 8, lsb_low 8 8, lsb_high 8 8, extract_low 16 3, extract_high 16 3, lsb_low 16 3, lsb_high 16 3, extract_low 19 3, extract_high 19 3, lsb_low 19 3, lsb_high 19 3, extract_low 22 5, extract_high 22 5, lsb_low 22 5, lsb_high 22 5, extract_low 27 2, extract_high 27 2, lsb_low 27 2, lsb_high 27 2, extract_low 29 2, extract_high 29 2, lsb_low 29 2, lsb_high 29 2, extract_low 31 2, extract_high 31 2, lsb_low 31 2, lsb_high 31 2, extract_low 33 1, extract_high 33 1, lsb_low 33 1, lsb_high 33 1, extract_low 34 1, extract_high 34 1, lsb_low 34 1, lsb_high 34 1, extract_low 35 8, extract_high 35 8, lsb_low 35 8, lsb_high 35 8, -BitVec.getLsbD_eq_getElem]
theorem fallocBound (g : Guard) (a : Reg) (b : Reg) (c : Reg) (x : FallocArgs) : Statement (.fallocBound g a b c x) := by
  intro hw w h; cases h; refine (decode_f4 _ _ _ _ _ _ _ _ rfl).trans ?_
  simp_all [decodeF4, decodeFalloc, chk, chkO, fallocCode, Instr.wf, shiftFits, fmtOf_code, scopeOf_code, widthOf_code, condOf_code, combOf_code, fcondOf_code, vcondOf_code, lsb_bit, extract_low 8 8, extract_high 8 8, lsb_low 8 8, lsb_high 8 8, extract_low 16 3, extract_high 16 3, lsb_low 16 3, lsb_high 16 3, extract_low 19 3, extract_high 19 3, lsb_low 19 3, lsb_high 19 3, extract_low 22 5, extract_high 22 5, lsb_low 22 5, lsb_high 22 5, extract_low 27 2, extract_high 27 2, lsb_low 27 2, lsb_high 27 2, extract_low 29 2, extract_high 29 2, lsb_low 29 2, lsb_high 29 2, extract_low 31 2, extract_high 31 2, lsb_low 31 2, lsb_high 31 2, extract_low 33 1, extract_high 33 1, lsb_low 33 1, lsb_high 33 1, extract_low 34 1, extract_high 34 1, lsb_low 34 1, lsb_high 34 1, extract_low 35 8, extract_high 35 8, lsb_low 35 8, lsb_high 35 8, -BitVec.getLsbD_eq_getElem]
theorem fallocSeq (g : Guard) (a : Reg) (b : Reg) (c : Reg) (x : FallocArgs) : Statement (.fallocSeq g a b c x) := by
  intro hw w h; cases h; refine (decode_f4 _ _ _ _ _ _ _ _ rfl).trans ?_
  simp_all [decodeF4, decodeFalloc, chk, chkO, fallocCode, Instr.wf, shiftFits, fmtOf_code, scopeOf_code, widthOf_code, condOf_code, combOf_code, fcondOf_code, vcondOf_code, lsb_bit, extract_low 8 8, extract_high 8 8, lsb_low 8 8, lsb_high 8 8, extract_low 16 3, extract_high 16 3, lsb_low 16 3, lsb_high 16 3, extract_low 19 3, extract_high 19 3, lsb_low 19 3, lsb_high 19 3, extract_low 22 5, extract_high 22 5, lsb_low 22 5, lsb_high 22 5, extract_low 27 2, extract_high 27 2, lsb_low 27 2, lsb_high 27 2, extract_low 29 2, extract_high 29 2, lsb_low 29 2, lsb_high 29 2, extract_low 31 2, extract_high 31 2, lsb_low 31 2, lsb_high 31 2, extract_low 33 1, extract_high 33 1, lsb_low 33 1, lsb_high 33 1, extract_low 34 1, extract_high 34 1, lsb_low 34 1, lsb_high 34 1, extract_low 35 8, extract_high 35 8, lsb_low 35 8, lsb_high 35 8, -BitVec.getLsbD_eq_getElem]
theorem fsetg (g : Guard) (a : Reg) (b : Reg) (k : BitVec 3) : Statement (.fsetg g a b k) := by
  intro hw w h; cases h; refine (decode_f1 _ _ _ _ _ _ rfl).trans ?_
  simp_all [decodeF1, chk, chkO, Instr.wf, shiftFits, fmtOf_code, scopeOf_code, widthOf_code, condOf_code, combOf_code, fcondOf_code, vcondOf_code, lsb_bit, extract_low 3 3, extract_high 3 3, lsb_low 3 3, lsb_high 3 3, -BitVec.getLsbD_eq_getElem]
theorem fsets (g : Guard) (a : Reg) (b : Reg) (k : BitVec 3) : Statement (.fsets g a b k) := by
  intro hw w h; cases h; refine (decode_f1 _ _ _ _ _ _ rfl).trans ?_
  simp_all [decodeF1, chk, chkO, Instr.wf, shiftFits, fmtOf_code, scopeOf_code, widthOf_code, condOf_code, combOf_code, fcondOf_code, vcondOf_code, lsb_bit, extract_low 3 3, extract_high 3 3, lsb_low 3 3, lsb_high 3 3, -BitVec.getLsbD_eq_getElem]
theorem fgo (g : Guard) (a : Reg) (i : BitVec 27) : Statement (.fgo g a i) := by
  intro _ _ h; cases h; exact decode_f2l _ _ _ _ _ rfl
theorem fsync (g : Guard) (a : Reg) (b : Reg) : Statement (.fsync g a b) := by
  intro _ _ h; cases h; exact decode_f1 _ _ _ _ _ _ rfl
theorem fgets (g : Guard) (a : Reg) (b : Reg) (k : BitVec 3) : Statement (.fgets g a b k) := by
  intro hw w h; cases h; refine (decode_f1 _ _ _ _ _ _ rfl).trans ?_
  simp_all [decodeF1, chk, chkO, Instr.wf, shiftFits, fmtOf_code, scopeOf_code, widthOf_code, condOf_code, combOf_code, fcondOf_code, vcondOf_code, lsb_bit, extract_low 3 3, extract_high 3 3, lsb_low 3 3, lsb_high 3 3, -BitVec.getLsbD_eq_getElem]
theorem fbrk (g : Guard) : Statement (.fbrk g) := by
  intro _ _ h; cases h; exact decode_h _ _ _ rfl
theorem fkill (g : Guard) (b : Reg) : Statement (.fkill g b) := by
  intro _ _ h; cases h; exact decode_f1 _ _ _ _ _ _ rfl
theorem frel (g : Guard) (b : Reg) : Statement (.frel g b) := by
  intro _ _ h; cases h; exact decode_f1 _ _ _ _ _ _ rfl
theorem fself (g : Guard) (a : Reg) : Statement (.fself g a) := by
  intro _ _ h; cases h; exact decode_h _ _ _ rfl
theorem fhand (g : Guard) (a : Reg) (i : BitVec 27) : Statement (.fhand g a i) := by
  intro _ _ h; cases h; exact decode_f2l _ _ _ _ _ rfl
theorem fbar (g : Guard) (die : Bool) : Statement (.fbar g die) := by
  intro _ _ h; cases h; cases die <;> exact decode_h _ _ _ rfl
theorem frsmRetry (g : Guard) (b : Reg) : Statement (.frsmRetry g b) := by
  intro _ _ h; cases h; exact decode_f1 _ _ _ _ _ _ rfl
theorem frsmSkip (g : Guard) (b : Reg) : Statement (.frsmSkip g b) := by
  intro _ _ h; cases h; exact decode_f1 _ _ _ _ _ _ rfl
theorem frsmKill (g : Guard) (b : Reg) : Statement (.frsmKill g b) := by
  intro _ _ h; cases h; exact decode_f1 _ _ _ _ _ _ rfl
theorem fadd (g : Guard) (d : Bool) (a : Reg) (b : Reg) (c : Reg) : Statement (.fadd g d a b c) := by
  intro _ _ h; cases h; cases d <;> exact decode_f1 _ _ _ _ _ _ rfl
theorem fsub (g : Guard) (d : Bool) (a : Reg) (b : Reg) (c : Reg) : Statement (.fsub g d a b c) := by
  intro _ _ h; cases h; cases d <;> exact decode_f1 _ _ _ _ _ _ rfl
theorem fmul (g : Guard) (d : Bool) (a : Reg) (b : Reg) (c : Reg) : Statement (.fmul g d a b c) := by
  intro _ _ h; cases h; cases d <;> exact decode_f1 _ _ _ _ _ _ rfl
theorem fdiv (g : Guard) (d : Bool) (a : Reg) (b : Reg) (c : Reg) : Statement (.fdiv g d a b c) := by
  intro _ _ h; cases h; cases d <;> exact decode_f1 _ _ _ _ _ _ rfl
theorem fsqrt (g : Guard) (d : Bool) (a : Reg) (b : Reg) : Statement (.fsqrt g d a b) := by
  intro _ _ h; cases h; cases d <;> exact decode_f1 _ _ _ _ _ _ rfl
theorem fmin (g : Guard) (d : Bool) (a : Reg) (b : Reg) (c : Reg) : Statement (.fmin g d a b c) := by
  intro _ _ h; cases h; cases d <;> exact decode_f1 _ _ _ _ _ _ rfl
theorem fmax (g : Guard) (d : Bool) (a : Reg) (b : Reg) (c : Reg) : Statement (.fmax g d a b c) := by
  intro _ _ h; cases h; cases d <;> exact decode_f1 _ _ _ _ _ _ rfl
theorem fabs (g : Guard) (d : Bool) (a : Reg) (b : Reg) : Statement (.fabs g d a b) := by
  intro _ _ h; cases h; cases d <;> exact decode_f1 _ _ _ _ _ _ rfl
theorem fneg (g : Guard) (d : Bool) (a : Reg) (b : Reg) : Statement (.fneg g d a b) := by
  intro _ _ h; cases h; cases d <;> exact decode_f1 _ _ _ _ _ _ rfl
theorem fma (g : Guard) (d : Bool) (a : Reg) (b : Reg) (c : Reg) : Statement (.fma g d a b c) := by
  intro _ _ h; cases h; cases d <;> exact decode_f1 _ _ _ _ _ _ rfl
theorem fclass (g : Guard) (d : Bool) (a : Reg) (b : Reg) : Statement (.fclass g d a b) := by
  intro _ _ h; cases h; cases d <;> exact decode_f1 _ _ _ _ _ _ rfl
theorem fcmp (g : Guard) (cond : FCond) (d : Bool) (p : Pred) (b : Reg) (c : Reg) : Statement (.fcmp g cond d p b c) := by
  intro hw w h; cases h; refine (decode_f1 _ _ _ _ _ _ rfl).trans ?_
  simp_all [decodeF1, chk, chkO, Instr.wf, shiftFits, fmtOf_code, scopeOf_code, widthOf_code, condOf_code, combOf_code, fcondOf_code, vcondOf_code, lsb_bit, extract_low 1 2, extract_high 1 2, lsb_low 1 2, lsb_high 1 2, extract_low 2 3, extract_high 2 3, lsb_low 2 3, lsb_high 2 3, extract_low 3 3, extract_high 3 3, lsb_low 3 3, lsb_high 3 3, -BitVec.getLsbD_eq_getElem]
theorem cvt (g : Guard) (dst : Fmt) (src : Fmt) (a : Reg) (b : Reg) (s : BitVec 8) : Statement (.cvt g dst src a b s) := by
  intro hw w h; cases h; refine (decode_f2 _ _ _ _ _ _ _ rfl).trans ?_
  simp_all [decodeF2, chk, chkO, Instr.wf, shiftFits, fmtOf_code, scopeOf_code, widthOf_code, condOf_code, combOf_code, fcondOf_code, vcondOf_code, lsb_bit, extract_low 8 4, extract_high 8 4, lsb_low 8 4, lsb_high 8 4, extract_low 12 4, extract_high 12 4, lsb_low 12 4, lsb_high 12 4, -BitVec.getLsbD_eq_getElem]
theorem frnd (g : Guard) (mode : BitVec 2) (d : Bool) (a : Reg) (b : Reg) : Statement (.frnd g mode d a b) := by
  intro hw w h; cases h; refine (decode_f1 _ _ _ _ _ _ rfl).trans ?_
  simp_all [decodeF1, chk, chkO, Instr.wf, shiftFits, fmtOf_code, scopeOf_code, widthOf_code, condOf_code, combOf_code, fcondOf_code, vcondOf_code, lsb_bit, extract_low 1 3, extract_high 1 3, lsb_low 1 3, lsb_high 1 3, extract_low 4 2, extract_high 4 2, lsb_low 4 2, lsb_high 4 2, -BitVec.getLsbD_eq_getElem]
theorem rngp (g : Guard) (a : Reg) (b : Reg) (c : Reg) (d : Reg) : Statement (.rngp g a b c d) := by
  intro _ _ h; cases h; exact decode_f4 _ _ _ _ _ _ _ _ rfl
theorem rngf (g : Guard) (a : Reg) (b : Reg) : Statement (.rngf g a b) := by
  intro _ _ h; cases h; exact decode_f1 _ _ _ _ _ _ rfl
theorem cadd (g : Guard) (n1 : BitVec 3) (sgn : Bool) (a : Reg) (b : Reg) (c : Reg) : Statement (.cadd g n1 sgn a b c) := by
  intro hw w h; cases h; refine (decode_f2 _ _ _ _ _ _ _ rfl).trans ?_
  simp_all [decodeF2, decodeCop, chk, chkO, Instr.wf, shiftFits, fmtOf_code, scopeOf_code, widthOf_code, condOf_code, combOf_code, fcondOf_code, vcondOf_code, lsb_bit, extract_low 1 15, extract_high 1 15, lsb_low 1 15, lsb_high 1 15, extract_low 3 3, extract_high 3 3, lsb_low 3 3, lsb_high 3 3, -BitVec.getLsbD_eq_getElem]
theorem csub (g : Guard) (n1 : BitVec 3) (sgn : Bool) (a : Reg) (b : Reg) (c : Reg) : Statement (.csub g n1 sgn a b c) := by
  intro hw w h; cases h; refine (decode_f2 _ _ _ _ _ _ _ rfl).trans ?_
  simp_all [decodeF2, decodeCop, chk, chkO, Instr.wf, shiftFits, fmtOf_code, scopeOf_code, widthOf_code, condOf_code, combOf_code, fcondOf_code, vcondOf_code, lsb_bit, extract_low 1 15, extract_high 1 15, lsb_low 1 15, lsb_high 1 15, extract_low 3 3, extract_high 3 3, lsb_low 3 3, lsb_high 3 3, -BitVec.getLsbD_eq_getElem]
theorem cins (g : Guard) (n1 : BitVec 3) (a : Reg) (b : Reg) (c : Reg) (axis : BitVec 3) : Statement (.cins g n1 a b c axis) := by
  intro hw w h; cases h; refine (decode_f2 _ _ _ _ _ _ _ rfl).trans ?_
  simp_all [decodeF2, decodeCop, chk, chkO, Instr.wf, shiftFits, fmtOf_code, scopeOf_code, widthOf_code, condOf_code, combOf_code, fcondOf_code, vcondOf_code, lsb_bit, extract_low 3 3, extract_high 3 3, lsb_low 3 3, lsb_high 3 3, extract_low 13 3, extract_high 13 3, lsb_low 13 3, lsb_high 13 3, -BitVec.getLsbD_eq_getElem]
theorem cext (g : Guard) (n1 : BitVec 3) (a : Reg) (b : Reg) (axis : BitVec 3) : Statement (.cext g n1 a b axis) := by
  intro hw w h; cases h; refine (decode_f2 _ _ _ _ _ _ _ rfl).trans ?_
  simp_all [decodeF2, decodeCop, chk, chkO, Instr.wf, shiftFits, fmtOf_code, scopeOf_code, widthOf_code, condOf_code, combOf_code, fcondOf_code, vcondOf_code, lsb_bit, extract_low 3 3, extract_high 3 3, lsb_low 3 3, lsb_high 3 3, extract_low 13 3, extract_high 13 3, lsb_low 13 3, lsb_high 13 3, -BitVec.getLsbD_eq_getElem]
theorem clvl (g : Guard) (n1 : BitVec 3) (a : Reg) (b : Reg) (level : BitVec 6) : Statement (.clvl g n1 a b level) := by
  intro hw w h; cases h; refine (decode_f2 _ _ _ _ _ _ _ rfl).trans ?_
  simp_all [decodeF2, decodeCop, chk, chkO, Instr.wf, shiftFits, fmtOf_code, scopeOf_code, widthOf_code, condOf_code, combOf_code, fcondOf_code, vcondOf_code, lsb_bit, extract_low 3 3, extract_high 3 3, lsb_low 3 3, lsb_high 3 3, extract_low 7 6, extract_high 7 6, lsb_low 7 6, lsb_high 7 6, extract_low 13 3, extract_high 13 3, lsb_low 13 3, lsb_high 13 3, -BitVec.getLsbD_eq_getElem]
theorem cenc (g : Guard) (n1 : BitVec 3) (a : Reg) (b : Reg) : Statement (.cenc g n1 a b) := by
  intro hw w h; cases h; refine (decode_f2 _ _ _ _ _ _ _ rfl).trans ?_
  simp_all [decodeF2, decodeCop, chk, chkO, Instr.wf, shiftFits, fmtOf_code, scopeOf_code, widthOf_code, condOf_code, combOf_code, fcondOf_code, vcondOf_code, lsb_bit, extract_low 3 3, extract_high 3 3, lsb_low 3 3, lsb_high 3 3, -BitVec.getLsbD_eq_getElem]
theorem cdec (g : Guard) (n1 : BitVec 3) (a : Reg) (b : Reg) : Statement (.cdec g n1 a b) := by
  intro hw w h; cases h; refine (decode_f2 _ _ _ _ _ _ _ rfl).trans ?_
  simp_all [decodeF2, decodeCop, chk, chkO, Instr.wf, shiftFits, fmtOf_code, scopeOf_code, widthOf_code, condOf_code, combOf_code, fcondOf_code, vcondOf_code, lsb_bit, extract_low 3 3, extract_high 3 3, lsb_low 3 3, lsb_high 3 3, -BitVec.getLsbD_eq_getElem]
theorem cpar (g : Guard) (n1 : BitVec 3) (a : Reg) (b : Reg) : Statement (.cpar g n1 a b) := by
  intro hw w h; cases h; refine (decode_f2 _ _ _ _ _ _ _ rfl).trans ?_
  simp_all [decodeF2, decodeCop, chk, chkO, Instr.wf, shiftFits, fmtOf_code, scopeOf_code, widthOf_code, condOf_code, combOf_code, fcondOf_code, vcondOf_code, lsb_bit, extract_low 3 3, extract_high 3 3, lsb_low 3 3, lsb_high 3 3, -BitVec.getLsbD_eq_getElem]
theorem cbox (g : Guard) (n1 : BitVec 3) (p : Pred) (b : Reg) (c : Reg) (d : Reg) : Statement (.cbox g n1 p b c d) := by
  intro hw w h; cases h; refine (decode_f4 _ _ _ _ _ _ _ _ rfl).trans ?_
  simp_all [decodeF4, chk, chkO, Instr.wf, shiftFits, fmtOf_code, scopeOf_code, widthOf_code, condOf_code, combOf_code, fcondOf_code, vcondOf_code, lsb_bit, extract_low 2 3, extract_high 2 3, lsb_low 2 3, lsb_high 2 3, extract_low 3 3, extract_high 3 3, lsb_low 3 3, lsb_high 3 3, -BitVec.getLsbD_eq_getElem]
theorem cnext (g : Guard) (n1 : BitVec 3) (a : Reg) (b : Reg) (c : Reg) (d : Reg) : Statement (.cnext g n1 a b c d) := by
  intro hw w h; cases h; refine (decode_f4 _ _ _ _ _ _ _ _ rfl).trans ?_
  simp_all [decodeF4, chk, chkO, Instr.wf, shiftFits, fmtOf_code, scopeOf_code, widthOf_code, condOf_code, combOf_code, fcondOf_code, vcondOf_code, lsb_bit, extract_low 3 3, extract_high 3 3, lsb_low 3 3, lsb_high 3 3, -BitVec.getLsbD_eq_getElem]
theorem csplit (g : Guard) (n1 : BitVec 3) (a : Reg) (b : Reg) (c : Reg) (d : Reg) (off : BitVec 17) (m1 : BitVec 8) : Statement (.csplit g n1 a b c d off m1) := by
  intro hw w h; cases h; refine (decode_f4 _ _ _ _ _ _ _ _ rfl).trans ?_
  simp_all [decodeF4, chk, chkO, Instr.wf, shiftFits, fmtOf_code, scopeOf_code, widthOf_code, condOf_code, combOf_code, fcondOf_code, vcondOf_code, lsb_bit, extract_low 3 3, extract_high 3 3, lsb_low 3 3, lsb_high 3 3, extract_low 18 8, extract_high 18 8, lsb_low 18 8, lsb_high 18 8, extract_low 26 17, extract_high 26 17, lsb_low 26 17, lsb_high 26 17, -BitVec.getLsbD_eq_getElem]
theorem ld (g : Guard) (wd : Width) (z : Bool) (a : Reg) (b : Reg) (imm : BitVec 16) : Statement (.ld g wd z a b imm) := by
  intro hw w h; cases h; refine (decode_f2 _ _ _ _ _ _ _ rfl).trans ?_
  simp_all [decodeF2, chk, chkO, Instr.wf, shiftFits, fmtOf_code, scopeOf_code, widthOf_code, condOf_code, combOf_code, fcondOf_code, vcondOf_code, lsb_bit, extract_low 3 1, extract_high 3 1, lsb_low 3 1, lsb_high 3 1, extract_low 4 2, extract_high 4 2, lsb_low 4 2, lsb_high 4 2, -BitVec.getLsbD_eq_getElem]
  intro e; rcases hw with h | h <;> simp_all
theorem ldx (g : Guard) (wd : Width) (z : Bool) (a : Reg) (b : Reg) (c : Reg) (s : BitVec 2) : Statement (.ldx g wd z a b c s) := by
  intro hw w h; cases h; refine (decode_f1 _ _ _ _ _ _ rfl).trans ?_
  simp_all [decodeF1, chk, chkO, Instr.wf, shiftFits, fmtOf_code, scopeOf_code, widthOf_code, condOf_code, combOf_code, fcondOf_code, vcondOf_code, lsb_bit, extract_low 1 2, extract_high 1 2, lsb_low 1 2, lsb_high 1 2, extract_low 3 1, extract_high 3 1, lsb_low 3 1, lsb_high 3 1, extract_low 4 2, extract_high 4 2, lsb_low 4 2, lsb_high 4 2, -BitVec.getLsbD_eq_getElem]
  intro e; rcases hw with h | h <;> simp_all
theorem st (g : Guard) (wd : Width) (a : Reg) (b : Reg) (imm : BitVec 16) : Statement (.st g wd a b imm) := by
  intro _ _ h; cases h; cases wd <;> exact decode_f2 _ _ _ _ _ _ _ rfl
theorem stx (g : Guard) (wd : Width) (a : Reg) (b : Reg) (c : Reg) (s : BitVec 2) : Statement (.stx g wd a b c s) := by
  intro hw w h; cases h; refine (decode_f1 _ _ _ _ _ _ rfl).trans ?_
  simp_all [decodeF1, chk, chkO, Instr.wf, shiftFits, fmtOf_code, scopeOf_code, widthOf_code, condOf_code, combOf_code, fcondOf_code, vcondOf_code, lsb_bit, extract_low 1 2, extract_high 1 2, lsb_low 1 2, lsb_high 1 2, extract_low 3 1, extract_high 3 1, lsb_low 3 1, lsb_high 3 1, extract_low 4 2, extract_high 4 2, lsb_low 4 2, lsb_high 4 2, -BitVec.getLsbD_eq_getElem]
theorem ldp (g : Guard) (a : Reg) (b : Reg) (imm : BitVec 16) : Statement (.ldp g a b imm) := by
  intro _ _ h; cases h; exact decode_f2 _ _ _ _ _ _ _ rfl
theorem stp (g : Guard) (a : Reg) (b : Reg) (imm : BitVec 16) : Statement (.stp g a b imm) := by
  intro _ _ h; cases h; exact decode_f2 _ _ _ _ _ _ _ rfl
theorem ldv (g : Guard) (a : Reg) (b : Reg) (imm : BitVec 16) : Statement (.ldv g a b imm) := by
  intro _ _ h; cases h; exact decode_f2 _ _ _ _ _ _ _ rfl
theorem stf (g : Guard) (a : Reg) (b : Reg) (imm : BitVec 16) : Statement (.stf g a b imm) := by
  intro _ _ h; cases h; exact decode_f2 _ _ _ _ _ _ _ rfl
theorem ssus (g : Guard) (a : Reg) (b : Reg) (imm : BitVec 16) : Statement (.ssus g a b imm) := by
  intro _ _ h; cases h; exact decode_f2 _ _ _ _ _ _ _ rfl
theorem semp (g : Guard) (b : Reg) (imm : BitVec 16) : Statement (.semp g b imm) := by
  intro _ _ h; cases h; exact decode_f2 _ _ _ _ _ _ _ rfl
theorem ldt (g : Guard) (a : Reg) (b : Reg) (imm : BitVec 16) : Statement (.ldt g a b imm) := by
  intro _ _ h; cases h; exact decode_f2 _ _ _ _ _ _ _ rfl
theorem amoAdd (g : Guard) (w : Bool) (a : Reg) (b : Reg) (c : Reg) : Statement (.amoAdd g w a b c) := by
  intro _ _ h; cases h; cases w <;> exact decode_f1 _ _ _ _ _ _ rfl
theorem amoAnd (g : Guard) (w : Bool) (a : Reg) (b : Reg) (c : Reg) : Statement (.amoAnd g w a b c) := by
  intro _ _ h; cases h; cases w <;> exact decode_f1 _ _ _ _ _ _ rfl
theorem amoOr (g : Guard) (w : Bool) (a : Reg) (b : Reg) (c : Reg) : Statement (.amoOr g w a b c) := by
  intro _ _ h; cases h; cases w <;> exact decode_f1 _ _ _ _ _ _ rfl
theorem amoXor (g : Guard) (w : Bool) (a : Reg) (b : Reg) (c : Reg) : Statement (.amoXor g w a b c) := by
  intro _ _ h; cases h; cases w <;> exact decode_f1 _ _ _ _ _ _ rfl
theorem amoSwap (g : Guard) (w : Bool) (a : Reg) (b : Reg) (c : Reg) : Statement (.amoSwap g w a b c) := by
  intro _ _ h; cases h; cases w <;> exact decode_f1 _ _ _ _ _ _ rfl
theorem amoMin (g : Guard) (w : Bool) (a : Reg) (b : Reg) (c : Reg) : Statement (.amoMin g w a b c) := by
  intro _ _ h; cases h; cases w <;> exact decode_f1 _ _ _ _ _ _ rfl
theorem amoMax (g : Guard) (w : Bool) (a : Reg) (b : Reg) (c : Reg) : Statement (.amoMax g w a b c) := by
  intro _ _ h; cases h; cases w <;> exact decode_f1 _ _ _ _ _ _ rfl
theorem amoMinz (g : Guard) (w : Bool) (a : Reg) (b : Reg) (c : Reg) : Statement (.amoMinz g w a b c) := by
  intro _ _ h; cases h; cases w <;> exact decode_f1 _ _ _ _ _ _ rfl
theorem amoMaxz (g : Guard) (w : Bool) (a : Reg) (b : Reg) (c : Reg) : Statement (.amoMaxz g w a b c) := by
  intro _ _ h; cases h; cases w <;> exact decode_f1 _ _ _ _ _ _ rfl
theorem cas (g : Guard) (w : Bool) (a : Reg) (b : Reg) (c : Reg) (d : Reg) : Statement (.cas g w a b c d) := by
  intro _ _ h; cases h; cases w <;> exact decode_f4 _ _ _ _ _ _ _ _ rfl
theorem fenceRel (g : Guard) (scope : Scope) : Statement (.fenceRel g scope) := by
  intro _ _ h; cases h; cases scope <;> exact decode_f1 _ _ _ _ _ _ rfl
theorem fenceAcq (g : Guard) (scope : Scope) : Statement (.fenceAcq g scope) := by
  intro _ _ h; cases h; cases scope <;> exact decode_f1 _ _ _ _ _ _ rfl
theorem fenceFull (g : Guard) (scope : Scope) : Statement (.fenceFull g scope) := by
  intro _ _ h; cases h; cases scope <;> exact decode_f1 _ _ _ _ _ _ rfl
theorem rfence (g : Guard) : Statement (.rfence g) := by
  intro _ _ h; cases h; exact decode_h _ _ _ rfl
theorem vadd (g : Guard) (x : VArgs) (d : Reg) (bcast : Bool) : Statement (.vadd g x d bcast) := by
  intro hw w h; cases h; refine (decode_f4 _ _ _ _ _ _ _ _ rfl).trans ?_
  simp_all [decodeF4, decodeVop, chk, chkO, vopCode, Instr.wf, shiftFits, fmtOf_code, scopeOf_code, widthOf_code, condOf_code, combOf_code, fcondOf_code, vcondOf_code, lsb_bit, extract_low 8 3, extract_high 8 3, lsb_low 8 3, lsb_high 8 3, extract_low 11 1, extract_high 11 1, lsb_low 11 1, lsb_high 11 1, extract_low 12 4, extract_high 12 4, lsb_low 12 4, lsb_high 12 4, extract_low 16 1, extract_high 16 1, lsb_low 16 1, lsb_high 16 1, extract_low 17 16, extract_high 17 16, lsb_low 17 16, lsb_high 17 16, extract_low 33 4, extract_high 33 4, lsb_low 33 4, lsb_high 33 4, extract_low 37 6, extract_high 37 6, lsb_low 37 6, lsb_high 37 6, -BitVec.getLsbD_eq_getElem]
theorem vsub (g : Guard) (x : VArgs) (d : Reg) (bcast : Bool) : Statement (.vsub g x d bcast) := by
  intro hw w h; cases h; refine (decode_f4 _ _ _ _ _ _ _ _ rfl).trans ?_
  simp_all [decodeF4, decodeVop, chk, chkO, vopCode, Instr.wf, shiftFits, fmtOf_code, scopeOf_code, widthOf_code, condOf_code, combOf_code, fcondOf_code, vcondOf_code, lsb_bit, extract_low 8 3, extract_high 8 3, lsb_low 8 3, lsb_high 8 3, extract_low 11 1, extract_high 11 1, lsb_low 11 1, lsb_high 11 1, extract_low 12 4, extract_high 12 4, lsb_low 12 4, lsb_high 12 4, extract_low 16 1, extract_high 16 1, lsb_low 16 1, lsb_high 16 1, extract_low 17 16, extract_high 17 16, lsb_low 17 16, lsb_high 17 16, extract_low 33 4, extract_high 33 4, lsb_low 33 4, lsb_high 33 4, extract_low 37 6, extract_high 37 6, lsb_low 37 6, lsb_high 37 6, -BitVec.getLsbD_eq_getElem]
theorem vmul (g : Guard) (x : VArgs) (d : Reg) (bcast : Bool) : Statement (.vmul g x d bcast) := by
  intro hw w h; cases h; refine (decode_f4 _ _ _ _ _ _ _ _ rfl).trans ?_
  simp_all [decodeF4, decodeVop, chk, chkO, vopCode, Instr.wf, shiftFits, fmtOf_code, scopeOf_code, widthOf_code, condOf_code, combOf_code, fcondOf_code, vcondOf_code, lsb_bit, extract_low 8 3, extract_high 8 3, lsb_low 8 3, lsb_high 8 3, extract_low 11 1, extract_high 11 1, lsb_low 11 1, lsb_high 11 1, extract_low 12 4, extract_high 12 4, lsb_low 12 4, lsb_high 12 4, extract_low 16 1, extract_high 16 1, lsb_low 16 1, lsb_high 16 1, extract_low 17 16, extract_high 17 16, lsb_low 17 16, lsb_high 17 16, extract_low 33 4, extract_high 33 4, lsb_low 33 4, lsb_high 33 4, extract_low 37 6, extract_high 37 6, lsb_low 37 6, lsb_high 37 6, -BitVec.getLsbD_eq_getElem]
theorem vfma (g : Guard) (x : VArgs) (d : Reg) (bcast : Bool) : Statement (.vfma g x d bcast) := by
  intro hw w h; cases h; refine (decode_f4 _ _ _ _ _ _ _ _ rfl).trans ?_
  simp_all [decodeF4, decodeVop, chk, chkO, vopCode, Instr.wf, shiftFits, fmtOf_code, scopeOf_code, widthOf_code, condOf_code, combOf_code, fcondOf_code, vcondOf_code, lsb_bit, extract_low 8 3, extract_high 8 3, lsb_low 8 3, lsb_high 8 3, extract_low 11 1, extract_high 11 1, lsb_low 11 1, lsb_high 11 1, extract_low 12 4, extract_high 12 4, lsb_low 12 4, lsb_high 12 4, extract_low 16 1, extract_high 16 1, lsb_low 16 1, lsb_high 16 1, extract_low 17 16, extract_high 17 16, lsb_low 17 16, lsb_high 17 16, extract_low 33 4, extract_high 33 4, lsb_low 33 4, lsb_high 33 4, extract_low 37 6, extract_high 37 6, lsb_low 37 6, lsb_high 37 6, -BitVec.getLsbD_eq_getElem]
theorem vmin (g : Guard) (x : VArgs) (d : Reg) (bcast : Bool) : Statement (.vmin g x d bcast) := by
  intro hw w h; cases h; refine (decode_f4 _ _ _ _ _ _ _ _ rfl).trans ?_
  simp_all [decodeF4, decodeVop, chk, chkO, vopCode, Instr.wf, shiftFits, fmtOf_code, scopeOf_code, widthOf_code, condOf_code, combOf_code, fcondOf_code, vcondOf_code, lsb_bit, extract_low 8 3, extract_high 8 3, lsb_low 8 3, lsb_high 8 3, extract_low 11 1, extract_high 11 1, lsb_low 11 1, lsb_high 11 1, extract_low 12 4, extract_high 12 4, lsb_low 12 4, lsb_high 12 4, extract_low 16 1, extract_high 16 1, lsb_low 16 1, lsb_high 16 1, extract_low 17 16, extract_high 17 16, lsb_low 17 16, lsb_high 17 16, extract_low 33 4, extract_high 33 4, lsb_low 33 4, lsb_high 33 4, extract_low 37 6, extract_high 37 6, lsb_low 37 6, lsb_high 37 6, -BitVec.getLsbD_eq_getElem]
theorem vmax (g : Guard) (x : VArgs) (d : Reg) (bcast : Bool) : Statement (.vmax g x d bcast) := by
  intro hw w h; cases h; refine (decode_f4 _ _ _ _ _ _ _ _ rfl).trans ?_
  simp_all [decodeF4, decodeVop, chk, chkO, vopCode, Instr.wf, shiftFits, fmtOf_code, scopeOf_code, widthOf_code, condOf_code, combOf_code, fcondOf_code, vcondOf_code, lsb_bit, extract_low 8 3, extract_high 8 3, lsb_low 8 3, lsb_high 8 3, extract_low 11 1, extract_high 11 1, lsb_low 11 1, lsb_high 11 1, extract_low 12 4, extract_high 12 4, lsb_low 12 4, lsb_high 12 4, extract_low 16 1, extract_high 16 1, lsb_low 16 1, lsb_high 16 1, extract_low 17 16, extract_high 17 16, lsb_low 17 16, lsb_high 17 16, extract_low 33 4, extract_high 33 4, lsb_low 33 4, lsb_high 33 4, extract_low 37 6, extract_high 37 6, lsb_low 37 6, lsb_high 37 6, -BitVec.getLsbD_eq_getElem]
theorem vabs (g : Guard) (x : VArgs) : Statement (.vabs g x) := by
  intro hw w h; cases h; refine (decode_f4 _ _ _ _ _ _ _ _ rfl).trans ?_
  simp_all [decodeF4, decodeVop, chk, chkO, vopCode, Instr.wf, shiftFits, fmtOf_code, scopeOf_code, widthOf_code, condOf_code, combOf_code, fcondOf_code, vcondOf_code, lsb_bit, extract_low 8 3, extract_high 8 3, lsb_low 8 3, lsb_high 8 3, extract_low 11 1, extract_high 11 1, lsb_low 11 1, lsb_high 11 1, extract_low 12 4, extract_high 12 4, lsb_low 12 4, lsb_high 12 4, extract_low 16 1, extract_high 16 1, lsb_low 16 1, lsb_high 16 1, extract_low 17 16, extract_high 17 16, lsb_low 17 16, lsb_high 17 16, extract_low 33 4, extract_high 33 4, lsb_low 33 4, lsb_high 33 4, extract_low 37 6, extract_high 37 6, lsb_low 37 6, lsb_high 37 6, -BitVec.getLsbD_eq_getElem]
theorem vneg (g : Guard) (x : VArgs) : Statement (.vneg g x) := by
  intro hw w h; cases h; refine (decode_f4 _ _ _ _ _ _ _ _ rfl).trans ?_
  simp_all [decodeF4, decodeVop, chk, chkO, vopCode, Instr.wf, shiftFits, fmtOf_code, scopeOf_code, widthOf_code, condOf_code, combOf_code, fcondOf_code, vcondOf_code, lsb_bit, extract_low 8 3, extract_high 8 3, lsb_low 8 3, lsb_high 8 3, extract_low 11 1, extract_high 11 1, lsb_low 11 1, lsb_high 11 1, extract_low 12 4, extract_high 12 4, lsb_low 12 4, lsb_high 12 4, extract_low 16 1, extract_high 16 1, lsb_low 16 1, lsb_high 16 1, extract_low 17 16, extract_high 17 16, lsb_low 17 16, lsb_high 17 16, extract_low 33 4, extract_high 33 4, lsb_low 33 4, lsb_high 33 4, extract_low 37 6, extract_high 37 6, lsb_low 37 6, lsb_high 37 6, -BitVec.getLsbD_eq_getElem]
theorem vcvt (g : Guard) (x : VArgs) (src : Fmt) : Statement (.vcvt g x src) := by
  intro hw w h; cases h; refine (decode_f4 _ _ _ _ _ _ _ _ rfl).trans ?_
  simp_all [decodeF4, decodeVop, chk, chkO, vopCode, Instr.wf, shiftFits, fmtOf_code, scopeOf_code, widthOf_code, condOf_code, combOf_code, fcondOf_code, vcondOf_code, lsb_bit, extract_low 8 3, extract_high 8 3, lsb_low 8 3, lsb_high 8 3, extract_low 11 1, extract_high 11 1, lsb_low 11 1, lsb_high 11 1, extract_low 12 4, extract_high 12 4, lsb_low 12 4, lsb_high 12 4, extract_low 16 1, extract_high 16 1, lsb_low 16 1, lsb_high 16 1, extract_low 17 16, extract_high 17 16, lsb_low 17 16, lsb_high 17 16, extract_low 33 4, extract_high 33 4, lsb_low 33 4, lsb_high 33 4, extract_low 37 6, extract_high 37 6, lsb_low 37 6, lsb_high 37 6, -BitVec.getLsbD_eq_getElem]
theorem vexp2 (g : Guard) (x : VArgs) : Statement (.vexp2 g x) := by
  intro hw w h; cases h; refine (decode_f4 _ _ _ _ _ _ _ _ rfl).trans ?_
  simp_all [decodeF4, decodeVop, chk, chkO, vopCode, Instr.wf, shiftFits, fmtOf_code, scopeOf_code, widthOf_code, condOf_code, combOf_code, fcondOf_code, vcondOf_code, lsb_bit, extract_low 8 3, extract_high 8 3, lsb_low 8 3, lsb_high 8 3, extract_low 11 1, extract_high 11 1, lsb_low 11 1, lsb_high 11 1, extract_low 12 4, extract_high 12 4, lsb_low 12 4, lsb_high 12 4, extract_low 16 1, extract_high 16 1, lsb_low 16 1, lsb_high 16 1, extract_low 17 16, extract_high 17 16, lsb_low 17 16, lsb_high 17 16, extract_low 33 4, extract_high 33 4, lsb_low 33 4, lsb_high 33 4, extract_low 37 6, extract_high 37 6, lsb_low 37 6, lsb_high 37 6, -BitVec.getLsbD_eq_getElem]
theorem vlog2 (g : Guard) (x : VArgs) : Statement (.vlog2 g x) := by
  intro hw w h; cases h; refine (decode_f4 _ _ _ _ _ _ _ _ rfl).trans ?_
  simp_all [decodeF4, decodeVop, chk, chkO, vopCode, Instr.wf, shiftFits, fmtOf_code, scopeOf_code, widthOf_code, condOf_code, combOf_code, fcondOf_code, vcondOf_code, lsb_bit, extract_low 8 3, extract_high 8 3, lsb_low 8 3, lsb_high 8 3, extract_low 11 1, extract_high 11 1, lsb_low 11 1, lsb_high 11 1, extract_low 12 4, extract_high 12 4, lsb_low 12 4, lsb_high 12 4, extract_low 16 1, extract_high 16 1, lsb_low 16 1, lsb_high 16 1, extract_low 17 16, extract_high 17 16, lsb_low 17 16, lsb_high 17 16, extract_low 33 4, extract_high 33 4, lsb_low 33 4, lsb_high 33 4, extract_low 37 6, extract_high 37 6, lsb_low 37 6, lsb_high 37 6, -BitVec.getLsbD_eq_getElem]
theorem vrsq (g : Guard) (x : VArgs) : Statement (.vrsq g x) := by
  intro hw w h; cases h; refine (decode_f4 _ _ _ _ _ _ _ _ rfl).trans ?_
  simp_all [decodeF4, decodeVop, chk, chkO, vopCode, Instr.wf, shiftFits, fmtOf_code, scopeOf_code, widthOf_code, condOf_code, combOf_code, fcondOf_code, vcondOf_code, lsb_bit, extract_low 8 3, extract_high 8 3, lsb_low 8 3, lsb_high 8 3, extract_low 11 1, extract_high 11 1, lsb_low 11 1, lsb_high 11 1, extract_low 12 4, extract_high 12 4, lsb_low 12 4, lsb_high 12 4, extract_low 16 1, extract_high 16 1, lsb_low 16 1, lsb_high 16 1, extract_low 17 16, extract_high 17 16, lsb_low 17 16, lsb_high 17 16, extract_low 33 4, extract_high 33 4, lsb_low 33 4, lsb_high 33 4, extract_low 37 6, extract_high 37 6, lsb_low 37 6, lsb_high 37 6, -BitVec.getLsbD_eq_getElem]
theorem vrcp (g : Guard) (x : VArgs) : Statement (.vrcp g x) := by
  intro hw w h; cases h; refine (decode_f4 _ _ _ _ _ _ _ _ rfl).trans ?_
  simp_all [decodeF4, decodeVop, chk, chkO, vopCode, Instr.wf, shiftFits, fmtOf_code, scopeOf_code, widthOf_code, condOf_code, combOf_code, fcondOf_code, vcondOf_code, lsb_bit, extract_low 8 3, extract_high 8 3, lsb_low 8 3, lsb_high 8 3, extract_low 11 1, extract_high 11 1, lsb_low 11 1, lsb_high 11 1, extract_low 12 4, extract_high 12 4, lsb_low 12 4, lsb_high 12 4, extract_low 16 1, extract_high 16 1, lsb_low 16 1, lsb_high 16 1, extract_low 17 16, extract_high 17 16, lsb_low 17 16, lsb_high 17 16, extract_low 33 4, extract_high 33 4, lsb_low 33 4, lsb_high 33 4, extract_low 37 6, extract_high 37 6, lsb_low 37 6, lsb_high 37 6, -BitVec.getLsbD_eq_getElem]
theorem vsel (g : Guard) (x : VArgs) (d : Reg) (bcast : Bool) : Statement (.vsel g x d bcast) := by
  intro hw w h; cases h; refine (decode_f4 _ _ _ _ _ _ _ _ rfl).trans ?_
  simp_all [decodeF4, decodeVop, chk, chkO, vopCode, Instr.wf, shiftFits, fmtOf_code, scopeOf_code, widthOf_code, condOf_code, combOf_code, fcondOf_code, vcondOf_code, lsb_bit, extract_low 8 3, extract_high 8 3, lsb_low 8 3, lsb_high 8 3, extract_low 11 1, extract_high 11 1, lsb_low 11 1, lsb_high 11 1, extract_low 12 4, extract_high 12 4, lsb_low 12 4, lsb_high 12 4, extract_low 16 1, extract_high 16 1, lsb_low 16 1, lsb_high 16 1, extract_low 17 16, extract_high 17 16, lsb_low 17 16, lsb_high 17 16, extract_low 33 4, extract_high 33 4, lsb_low 33 4, lsb_high 33 4, extract_low 37 6, extract_high 37 6, lsb_low 37 6, lsb_high 37 6, -BitVec.getLsbD_eq_getElem]
theorem vcmp (g : Guard) (x : VArgs) (d : Reg) (bcast : Bool) (cond : VCond) : Statement (.vcmp g x d bcast cond) := by
  intro hw w h; cases h; refine (decode_f4 _ _ _ _ _ _ _ _ rfl).trans ?_
  simp_all [decodeF4, decodeVop, chk, chkO, vopCode, Instr.wf, shiftFits, fmtOf_code, scopeOf_code, widthOf_code, condOf_code, combOf_code, fcondOf_code, vcondOf_code, lsb_bit, extract_low 8 3, extract_high 8 3, lsb_low 8 3, lsb_high 8 3, extract_low 11 1, extract_high 11 1, lsb_low 11 1, lsb_high 11 1, extract_low 12 4, extract_high 12 4, lsb_low 12 4, lsb_high 12 4, extract_low 16 1, extract_high 16 1, lsb_low 16 1, lsb_high 16 1, extract_low 17 16, extract_high 17 16, lsb_low 17 16, lsb_high 17 16, extract_low 33 4, extract_high 33 4, lsb_low 33 4, lsb_high 33 4, extract_low 37 6, extract_high 37 6, lsb_low 37 6, lsb_high 37 6, -BitVec.getLsbD_eq_getElem]
theorem vsum (g : Guard) (x : VArgs) : Statement (.vsum g x) := by
  intro hw w h; cases h; refine (decode_f4 _ _ _ _ _ _ _ _ rfl).trans ?_
  simp_all [decodeF4, decodeVop, chk, chkO, vopCode, Instr.wf, shiftFits, fmtOf_code, scopeOf_code, widthOf_code, condOf_code, combOf_code, fcondOf_code, vcondOf_code, lsb_bit, extract_low 8 3, extract_high 8 3, lsb_low 8 3, lsb_high 8 3, extract_low 11 1, extract_high 11 1, lsb_low 11 1, lsb_high 11 1, extract_low 12 4, extract_high 12 4, lsb_low 12 4, lsb_high 12 4, extract_low 16 1, extract_high 16 1, lsb_low 16 1, lsb_high 16 1, extract_low 17 16, extract_high 17 16, lsb_low 17 16, lsb_high 17 16, extract_low 33 4, extract_high 33 4, lsb_low 33 4, lsb_high 33 4, extract_low 37 6, extract_high 37 6, lsb_low 37 6, lsb_high 37 6, -BitVec.getLsbD_eq_getElem]
theorem vscan (g : Guard) (x : VArgs) : Statement (.vscan g x) := by
  intro hw w h; cases h; refine (decode_f4 _ _ _ _ _ _ _ _ rfl).trans ?_
  simp_all [decodeF4, decodeVop, chk, chkO, vopCode, Instr.wf, shiftFits, fmtOf_code, scopeOf_code, widthOf_code, condOf_code, combOf_code, fcondOf_code, vcondOf_code, lsb_bit, extract_low 8 3, extract_high 8 3, lsb_low 8 3, lsb_high 8 3, extract_low 11 1, extract_high 11 1, lsb_low 11 1, lsb_high 11 1, extract_low 12 4, extract_high 12 4, lsb_low 12 4, lsb_high 12 4, extract_low 16 1, extract_high 16 1, lsb_low 16 1, lsb_high 16 1, extract_low 17 16, extract_high 17 16, lsb_low 17 16, lsb_high 17 16, extract_low 33 4, extract_high 33 4, lsb_low 33 4, lsb_high 33 4, extract_low 37 6, extract_high 37 6, lsb_low 37 6, lsb_high 37 6, -BitVec.getLsbD_eq_getElem]
theorem vgath (g : Guard) (x : VArgs) (d : Reg) : Statement (.vgath g x d) := by
  intro hw w h; cases h; refine (decode_f4 _ _ _ _ _ _ _ _ rfl).trans ?_
  simp_all [decodeF4, decodeVop, chk, chkO, vopCode, Instr.wf, shiftFits, fmtOf_code, scopeOf_code, widthOf_code, condOf_code, combOf_code, fcondOf_code, vcondOf_code, lsb_bit, extract_low 8 3, extract_high 8 3, lsb_low 8 3, lsb_high 8 3, extract_low 11 1, extract_high 11 1, lsb_low 11 1, lsb_high 11 1, extract_low 12 4, extract_high 12 4, lsb_low 12 4, lsb_high 12 4, extract_low 16 1, extract_high 16 1, lsb_low 16 1, lsb_high 16 1, extract_low 17 16, extract_high 17 16, lsb_low 17 16, lsb_high 17 16, extract_low 33 4, extract_high 33 4, lsb_low 33 4, lsb_high 33 4, extract_low 37 6, extract_high 37 6, lsb_low 37 6, lsb_high 37 6, -BitVec.getLsbD_eq_getElem]
theorem vscat (g : Guard) (x : VArgs) (d : Reg) : Statement (.vscat g x d) := by
  intro hw w h; cases h; refine (decode_f4 _ _ _ _ _ _ _ _ rfl).trans ?_
  simp_all [decodeF4, decodeVop, chk, chkO, vopCode, Instr.wf, shiftFits, fmtOf_code, scopeOf_code, widthOf_code, condOf_code, combOf_code, fcondOf_code, vcondOf_code, lsb_bit, extract_low 8 3, extract_high 8 3, lsb_low 8 3, lsb_high 8 3, extract_low 11 1, extract_high 11 1, lsb_low 11 1, lsb_high 11 1, extract_low 12 4, extract_high 12 4, lsb_low 12 4, lsb_high 12 4, extract_low 16 1, extract_high 16 1, lsb_low 16 1, lsb_high 16 1, extract_low 17 16, extract_high 17 16, lsb_low 17 16, lsb_high 17 16, extract_low 33 4, extract_high 33 4, lsb_low 33 4, lsb_high 33 4, extract_low 37 6, extract_high 37 6, lsb_low 37 6, lsb_high 37 6, -BitVec.getLsbD_eq_getElem]
theorem vrng (g : Guard) (x : VArgs) (d : Reg) : Statement (.vrng g x d) := by
  intro hw w h; cases h; refine (decode_f4 _ _ _ _ _ _ _ _ rfl).trans ?_
  simp_all [decodeF4, decodeVop, chk, chkO, vopCode, Instr.wf, shiftFits, fmtOf_code, scopeOf_code, widthOf_code, condOf_code, combOf_code, fcondOf_code, vcondOf_code, lsb_bit, extract_low 8 3, extract_high 8 3, lsb_low 8 3, lsb_high 8 3, extract_low 11 1, extract_high 11 1, lsb_low 11 1, lsb_high 11 1, extract_low 12 4, extract_high 12 4, lsb_low 12 4, lsb_high 12 4, extract_low 16 1, extract_high 16 1, lsb_low 16 1, lsb_high 16 1, extract_low 17 16, extract_high 17 16, lsb_low 17 16, lsb_high 17 16, extract_low 33 4, extract_high 33 4, lsb_low 33 4, lsb_high 33 4, extract_low 37 6, extract_high 37 6, lsb_low 37 6, lsb_high 37 6, -BitVec.getLsbD_eq_getElem]
theorem vclr (g : Guard) (a : Reg) (b : Reg) (fmt : Fmt) (len : BitVec 16) : Statement (.vclr g a b fmt len) := by
  intro hw w h; cases h; refine (decode_f4 _ _ _ _ _ _ _ _ rfl).trans ?_
  simp_all [decodeF4, decodeVop, chk, chkO, vopCode, Instr.wf, shiftFits, fmtOf_code, scopeOf_code, widthOf_code, condOf_code, combOf_code, fcondOf_code, vcondOf_code, lsb_bit, extract_low 8 3, extract_high 8 3, lsb_low 8 3, lsb_high 8 3, extract_low 11 1, extract_high 11 1, lsb_low 11 1, lsb_high 11 1, extract_low 12 4, extract_high 12 4, lsb_low 12 4, lsb_high 12 4, extract_low 16 1, extract_high 16 1, lsb_low 16 1, lsb_high 16 1, extract_low 17 16, extract_high 17 16, lsb_low 17 16, lsb_high 17 16, extract_low 33 4, extract_high 33 4, lsb_low 33 4, lsb_high 33 4, extract_low 37 6, extract_high 37 6, lsb_low 37 6, lsb_high 37 6, -BitVec.getLsbD_eq_getElem]
theorem vcpy (g : Guard) (x : VArgs) : Statement (.vcpy g x) := by
  intro hw w h; cases h; refine (decode_f4 _ _ _ _ _ _ _ _ rfl).trans ?_
  simp_all [decodeF4, decodeVop, chk, chkO, vopCode, Instr.wf, shiftFits, fmtOf_code, scopeOf_code, widthOf_code, condOf_code, combOf_code, fcondOf_code, vcondOf_code, lsb_bit, extract_low 8 3, extract_high 8 3, lsb_low 8 3, lsb_high 8 3, extract_low 11 1, extract_high 11 1, lsb_low 11 1, lsb_high 11 1, extract_low 12 4, extract_high 12 4, lsb_low 12 4, lsb_high 12 4, extract_low 16 1, extract_high 16 1, lsb_low 16 1, lsb_high 16 1, extract_low 17 16, extract_high 17 16, lsb_low 17 16, lsb_high 17 16, extract_low 33 4, extract_high 33 4, lsb_low 33 4, lsb_high 33 4, extract_low 37 6, extract_high 37 6, lsb_low 37 6, lsb_high 37 6, -BitVec.getLsbD_eq_getElem]
theorem mzero (g : Guard) (acc : BitVec 4) : Statement (.mzero g acc) := by
  intro hw w h; cases h; refine (decode_f2 _ _ _ _ _ _ _ rfl).trans ?_
  simp_all [decodeF2, chk, chkO, Instr.wf, shiftFits, fmtOf_code, scopeOf_code, widthOf_code, condOf_code, combOf_code, fcondOf_code, vcondOf_code, lsb_bit, extract_low 12 4, extract_high 12 4, lsb_low 12 4, lsb_high 12 4, -BitVec.getLsbD_eq_getElem]
theorem mmac (g : Guard) (a : Reg) (b : Reg) (c : Reg) (acc : BitVec 4) (steps1 : BitVec 8) : Statement (.mmac g a b c acc steps1) := by
  intro hw w h; cases h; refine (decode_f4 _ _ _ _ _ _ _ _ rfl).trans ?_
  simp_all [decodeF4, chk, chkO, Instr.wf, shiftFits, fmtOf_code, scopeOf_code, widthOf_code, condOf_code, combOf_code, fcondOf_code, vcondOf_code, lsb_bit, extract_low 31 8, extract_high 31 8, lsb_low 31 8, lsb_high 31 8, extract_low 39 4, extract_high 39 4, lsb_low 39 4, lsb_high 39 4, -BitVec.getLsbD_eq_getElem]
theorem mxfTranspose (g : Guard) (a : Reg) (src : BitVec 4) (dst : BitVec 4) : Statement (.mxfTranspose g a src dst) := by
  intro hw w h; cases h; refine (decode_f4 _ _ _ _ _ _ _ _ rfl).trans ?_
  simp_all [decodeF4, decodeMxf, chk, chkO, Instr.wf, shiftFits, fmtOf_code, scopeOf_code, widthOf_code, condOf_code, combOf_code, fcondOf_code, vcondOf_code, lsb_bit, extract_low 35 4, extract_high 35 4, lsb_low 35 4, lsb_high 35 4, extract_low 39 4, extract_high 39 4, lsb_low 39 4, lsb_high 39 4, -BitVec.getLsbD_eq_getElem]
theorem mxfPerm (g : Guard) (a : Reg) (b : Reg) (src : BitVec 4) (dst : BitVec 4) : Statement (.mxfPerm g a b src dst) := by
  intro hw w h; cases h; refine (decode_f4 _ _ _ _ _ _ _ _ rfl).trans ?_
  simp_all [decodeF4, decodeMxf, chk, chkO, Instr.wf, shiftFits, fmtOf_code, scopeOf_code, widthOf_code, condOf_code, combOf_code, fcondOf_code, vcondOf_code, lsb_bit, extract_low 35 4, extract_high 35 4, lsb_low 35 4, lsb_high 35 4, extract_low 39 4, extract_high 39 4, lsb_low 39 4, lsb_high 39 4, -BitVec.getLsbD_eq_getElem]
theorem mxfRsum (g : Guard) (a : Reg) (src : BitVec 4) (dst : BitVec 4) : Statement (.mxfRsum g a src dst) := by
  intro hw w h; cases h; refine (decode_f4 _ _ _ _ _ _ _ _ rfl).trans ?_
  simp_all [decodeF4, decodeMxf, chk, chkO, Instr.wf, shiftFits, fmtOf_code, scopeOf_code, widthOf_code, condOf_code, combOf_code, fcondOf_code, vcondOf_code, lsb_bit, extract_low 35 4, extract_high 35 4, lsb_low 35 4, lsb_high 35 4, extract_low 39 4, extract_high 39 4, lsb_low 39 4, lsb_high 39 4, -BitVec.getLsbD_eq_getElem]
theorem mxfCsum (g : Guard) (a : Reg) (src : BitVec 4) (dst : BitVec 4) : Statement (.mxfCsum g a src dst) := by
  intro hw w h; cases h; refine (decode_f4 _ _ _ _ _ _ _ _ rfl).trans ?_
  simp_all [decodeF4, decodeMxf, chk, chkO, Instr.wf, shiftFits, fmtOf_code, scopeOf_code, widthOf_code, condOf_code, combOf_code, fcondOf_code, vcondOf_code, lsb_bit, extract_low 35 4, extract_high 35 4, lsb_low 35 4, lsb_high 35 4, extract_low 39 4, extract_high 39 4, lsb_low 39 4, lsb_high 39 4, -BitVec.getLsbD_eq_getElem]
theorem mxfExch (g : Guard) (a : Reg) (src : BitVec 4) (dst : BitVec 4) (i : BitVec 4) (j : BitVec 4) : Statement (.mxfExch g a src dst i j) := by
  intro hw w h; cases h; refine (decode_f4 _ _ _ _ _ _ _ _ rfl).trans ?_
  simp_all [decodeF4, decodeMxf, chk, chkO, Instr.wf, shiftFits, fmtOf_code, scopeOf_code, widthOf_code, condOf_code, combOf_code, fcondOf_code, vcondOf_code, lsb_bit, extract_low 27 4, extract_high 27 4, lsb_low 27 4, lsb_high 27 4, extract_low 31 4, extract_high 31 4, lsb_low 31 4, lsb_high 31 4, extract_low 35 4, extract_high 35 4, lsb_low 35 4, lsb_high 35 4, extract_low 39 4, extract_high 39 4, lsb_low 39 4, lsb_high 39 4, -BitVec.getLsbD_eq_getElem]
theorem mlda (g : Guard) (fmt : Fmt) (a : Reg) (b : Reg) (acc : BitVec 4) : Statement (.mlda g fmt a b acc) := by
  intro hw w h; cases h; refine (decode_f4 _ _ _ _ _ _ _ _ rfl).trans ?_
  simp_all [decodeF4, chk, chkO, Instr.wf, shiftFits, fmtOf_code, scopeOf_code, widthOf_code, condOf_code, combOf_code, fcondOf_code, vcondOf_code, lsb_bit, extract_low 35 4, extract_high 35 4, lsb_low 35 4, lsb_high 35 4, extract_low 39 4, extract_high 39 4, lsb_low 39 4, lsb_high 39 4, -BitVec.getLsbD_eq_getElem]
theorem msta (g : Guard) (fmt : Fmt) (sc : Bool) (a : Reg) (b : Reg) (acc : BitVec 4) (s : BitVec 8) : Statement (.msta g fmt sc a b acc s) := by
  intro hw w h; cases h; refine (decode_f4 _ _ _ _ _ _ _ _ rfl).trans ?_
  simp_all [decodeF4, chk, chkO, Instr.wf, shiftFits, fmtOf_code, scopeOf_code, widthOf_code, condOf_code, combOf_code, fcondOf_code, vcondOf_code, lsb_bit, extract_low 26 1, extract_high 26 1, lsb_low 26 1, lsb_high 26 1, extract_low 27 8, extract_high 27 8, lsb_low 27 8, lsb_high 27 8, extract_low 35 4, extract_high 35 4, lsb_low 35 4, lsb_high 35 4, extract_low 39 4, extract_high 39 4, lsb_low 39 4, lsb_high 39 4, -BitVec.getLsbD_eq_getElem]
theorem xcopy (g : Guard) (scope : Scope) (ch : BitVec 2) (a : Reg) (b : Reg) (c : Reg) (d : Reg) : Statement (.xcopy g scope ch a b c d) := by
  intro hw w h; cases h; refine (decode_f4 _ _ _ _ _ _ _ _ rfl).trans ?_
  simp_all [decodeF4, decodeXop, chk, chkO, Instr.wf, shiftFits, fmtOf_code, scopeOf_code, widthOf_code, condOf_code, combOf_code, fcondOf_code, vcondOf_code, lsb_bit, extract_low 39 2, extract_high 39 2, lsb_low 39 2, lsb_high 39 2, extract_low 41 2, extract_high 41 2, lsb_low 41 2, lsb_high 41 2, -BitVec.getLsbD_eq_getElem]
theorem xshape (g : Guard) (scope : Scope) (ch : BitVec 2) (a : Reg) (b : Reg) (c : Reg) (d : Reg) : Statement (.xshape g scope ch a b c d) := by
  intro hw w h; cases h; refine (decode_f4 _ _ _ _ _ _ _ _ rfl).trans ?_
  simp_all [decodeF4, decodeXop, chk, chkO, Instr.wf, shiftFits, fmtOf_code, scopeOf_code, widthOf_code, condOf_code, combOf_code, fcondOf_code, vcondOf_code, lsb_bit, extract_low 39 2, extract_high 39 2, lsb_low 39 2, lsb_high 39 2, extract_low 41 2, extract_high 41 2, lsb_low 41 2, lsb_high 41 2, -BitVec.getLsbD_eq_getElem]
theorem xfill (g : Guard) (scope : Scope) (ch : BitVec 2) (a : Reg) (b : Reg) (c : Reg) (d : Reg) : Statement (.xfill g scope ch a b c d) := by
  intro hw w h; cases h; refine (decode_f4 _ _ _ _ _ _ _ _ rfl).trans ?_
  simp_all [decodeF4, decodeXop, chk, chkO, Instr.wf, shiftFits, fmtOf_code, scopeOf_code, widthOf_code, condOf_code, combOf_code, fcondOf_code, vcondOf_code, lsb_bit, extract_low 39 2, extract_high 39 2, lsb_low 39 2, lsb_high 39 2, extract_low 41 2, extract_high 41 2, lsb_low 41 2, lsb_high 41 2, -BitVec.getLsbD_eq_getElem]
theorem xwptr (g : Guard) (a : Reg) (ch : BitVec 2) : Statement (.xwptr g a ch) := by
  intro hw w h; cases h; refine (decode_f4 _ _ _ _ _ _ _ _ rfl).trans ?_
  simp_all [decodeF4, decodeXop, chk, chkO, Instr.wf, shiftFits, fmtOf_code, scopeOf_code, widthOf_code, condOf_code, combOf_code, fcondOf_code, vcondOf_code, lsb_bit, extract_low 41 2, extract_high 41 2, lsb_low 41 2, lsb_high 41 2, -BitVec.getLsbD_eq_getElem]
theorem qeos (g : Guard) : Statement (.qeos g) := by
  intro _ _ h; cases h; exact decode_f2 _ _ _ _ _ _ _ rfl
theorem qpoll (g : Guard) : Statement (.qpoll g) := by
  intro _ _ h; cases h; exact decode_f2 _ _ _ _ _ _ _ rfl
theorem rdjoin (g : Guard) (a : Reg) (b : Reg) (c : Reg) : Statement (.rdjoin g a b c) := by
  intro _ _ h; cases h; exact decode_f2 _ _ _ _ _ _ _ rfl
theorem rdadd (g : Guard) (a : Reg) (b : Reg) (c : Reg) : Statement (.rdadd g a b c) := by
  intro _ _ h; cases h; exact decode_f2 _ _ _ _ _ _ _ rfl
theorem rdfree (g : Guard) (b : Reg) : Statement (.rdfree g b) := by
  intro _ _ h; cases h; exact decode_f2 _ _ _ _ _ _ _ rfl
theorem rdc (g : Guard) (a : Reg) (num : BitVec 16) : Statement (.rdc g a num) := by
  intro hw w h; cases h; refine (decode_f2 _ _ _ _ _ _ _ rfl).trans ?_
  simp_all [decodeF2, decodeMisc, chk, chkO, Instr.wf, shiftFits, fmtOf_code, scopeOf_code, widthOf_code, condOf_code, combOf_code, fcondOf_code, vcondOf_code, lsb_bit, -BitVec.getLsbD_eq_getElem]
theorem wrc (g : Guard) (b : Reg) (num : BitVec 16) : Statement (.wrc g b num) := by
  intro hw w h; cases h; refine (decode_f2 _ _ _ _ _ _ _ rfl).trans ?_
  simp_all [decodeF2, decodeMisc, chk, chkO, Instr.wf, shiftFits, fmtOf_code, scopeOf_code, widthOf_code, condOf_code, combOf_code, fcondOf_code, vcondOf_code, lsb_bit, -BitVec.getLsbD_eq_getElem]
theorem rdcyc (g : Guard) (a : Reg) : Statement (.rdcyc g a) := by
  intro _ _ h; cases h; exact decode_f2 _ _ _ _ _ _ _ rfl
theorem evwait (g : Guard) (a : Reg) (mask : BitVec 3) : Statement (.evwait g a mask) := by
  intro hw w h; cases h; refine (decode_f2 _ _ _ _ _ _ _ rfl).trans ?_
  simp_all [decodeF2, decodeMisc, chk, chkO, Instr.wf, shiftFits, fmtOf_code, scopeOf_code, widthOf_code, condOf_code, combOf_code, fcondOf_code, vcondOf_code, lsb_bit, extract_low 13 3, extract_high 13 3, lsb_low 13 3, lsb_high 13 3, -BitVec.getLsbD_eq_getElem]
theorem jreplay (g : Guard) (a : Reg) (b : Reg) : Statement (.jreplay g a b) := by
  intro _ _ h; cases h; exact decode_f2 _ _ _ _ _ _ _ rfl
theorem jstat (g : Guard) (a : Reg) (b : Reg) : Statement (.jstat g a b) := by
  intro _ _ h; cases h; exact decode_f2 _ _ _ _ _ _ _ rfl
theorem wakeResume (g : Guard) (a : Reg) (b : Reg) (c : Reg) (vi : BitVec 6) (slot : BitVec 6) : Statement (.wakeResume g a b c vi slot) := by
  intro hw w h; cases h; refine (decode_f4 _ _ _ _ _ _ _ _ rfl).trans ?_
  simp_all [decodeF4, decodeSys, chk, chkO, Instr.wf, shiftFits, fmtOf_code, scopeOf_code, widthOf_code, condOf_code, combOf_code, fcondOf_code, vcondOf_code, lsb_bit, extract_low 29 6, extract_high 29 6, lsb_low 29 6, lsb_high 29 6, extract_low 35 6, extract_high 35 6, lsb_low 35 6, lsb_high 35 6, extract_low 41 2, extract_high 41 2, lsb_low 41 2, lsb_high 41 2, -BitVec.getLsbD_eq_getElem]
theorem wakeFail (g : Guard) (a : Reg) (b : Reg) (c : Reg) (vi : BitVec 6) (slot : BitVec 6) : Statement (.wakeFail g a b c vi slot) := by
  intro hw w h; cases h; refine (decode_f4 _ _ _ _ _ _ _ _ rfl).trans ?_
  simp_all [decodeF4, decodeSys, chk, chkO, Instr.wf, shiftFits, fmtOf_code, scopeOf_code, widthOf_code, condOf_code, combOf_code, fcondOf_code, vcondOf_code, lsb_bit, extract_low 29 6, extract_high 29 6, lsb_low 29 6, lsb_high 29 6, extract_low 35 6, extract_high 35 6, lsb_low 35 6, lsb_high 35 6, extract_low 41 2, extract_high 41 2, lsb_low 41 2, lsb_high 41 2, -BitVec.getLsbD_eq_getElem]
theorem wakeCell (g : Guard) (a : Reg) (b : Reg) (c : Reg) (vi : BitVec 6) (slot : BitVec 6) : Statement (.wakeCell g a b c vi slot) := by
  intro hw w h; cases h; refine (decode_f4 _ _ _ _ _ _ _ _ rfl).trans ?_
  simp_all [decodeF4, decodeSys, chk, chkO, Instr.wf, shiftFits, fmtOf_code, scopeOf_code, widthOf_code, condOf_code, combOf_code, fcondOf_code, vcondOf_code, lsb_bit, extract_low 29 6, extract_high 29 6, lsb_low 29 6, lsb_high 29 6, extract_low 35 6, extract_high 35 6, lsb_low 35 6, lsb_high 35 6, extract_low 41 2, extract_high 41 2, lsb_low 41 2, lsb_high 41 2, -BitVec.getLsbD_eq_getElem]
theorem wakeGo (g : Guard) (a : Reg) (b : Reg) (c : Reg) (vi : BitVec 6) (slot : BitVec 6) : Statement (.wakeGo g a b c vi slot) := by
  intro hw w h; cases h; refine (decode_f4 _ _ _ _ _ _ _ _ rfl).trans ?_
  simp_all [decodeF4, decodeSys, chk, chkO, Instr.wf, shiftFits, fmtOf_code, scopeOf_code, widthOf_code, condOf_code, combOf_code, fcondOf_code, vcondOf_code, lsb_bit, extract_low 29 6, extract_high 29 6, lsb_low 29 6, lsb_high 29 6, extract_low 35 6, extract_high 35 6, lsb_low 35 6, lsb_high 35 6, extract_low 41 2, extract_high 41 2, lsb_low 41 2, lsb_high 41 2, -BitVec.getLsbD_eq_getElem]
theorem slotsv (g : Guard) (a : Reg) (b : Reg) (c : Reg) (core : Bool) (slot : BitVec 6) : Statement (.slotsv g a b c core slot) := by
  intro hw w h; cases h; refine (decode_f4 _ _ _ _ _ _ _ _ rfl).trans ?_
  simp_all [decodeF4, decodeSys, chk, chkO, Instr.wf, shiftFits, fmtOf_code, scopeOf_code, widthOf_code, condOf_code, combOf_code, fcondOf_code, vcondOf_code, lsb_bit, extract_low 36 1, extract_high 36 1, lsb_low 36 1, lsb_high 36 1, extract_low 37 6, extract_high 37 6, lsb_low 37 6, lsb_high 37 6, -BitVec.getLsbD_eq_getElem]
theorem slotld (g : Guard) (a : Reg) (b : Reg) (c : Reg) (core : Bool) (slot : BitVec 6) : Statement (.slotld g a b c core slot) := by
  intro hw w h; cases h; refine (decode_f4 _ _ _ _ _ _ _ _ rfl).trans ?_
  simp_all [decodeF4, decodeSys, chk, chkO, Instr.wf, shiftFits, fmtOf_code, scopeOf_code, widthOf_code, condOf_code, combOf_code, fcondOf_code, vcondOf_code, lsb_bit, extract_low 36 1, extract_high 36 1, lsb_low 36 1, lsb_high 36 1, extract_low 37 6, extract_high 37 6, lsb_low 37 6, lsb_high 37 6, -BitVec.getLsbD_eq_getElem]
theorem stopatStop (g : Guard) (a : Reg) (c : Reg) (vi : BitVec 6) (dies : BitVec 4) : Statement (.stopatStop g a c vi dies) := by
  intro hw w h; cases h; refine (decode_f4 _ _ _ _ _ _ _ _ rfl).trans ?_
  simp_all [decodeF4, decodeSys, chk, chkO, Instr.wf, shiftFits, fmtOf_code, scopeOf_code, widthOf_code, condOf_code, combOf_code, fcondOf_code, vcondOf_code, lsb_bit, extract_low 32 1, extract_high 32 1, lsb_low 32 1, lsb_high 32 1, extract_low 33 4, extract_high 33 4, lsb_low 33 4, lsb_high 33 4, extract_low 37 6, extract_high 37 6, lsb_low 37 6, lsb_high 37 6, -BitVec.getLsbD_eq_getElem]
theorem stopatGo (g : Guard) (a : Reg) (c : Reg) (vi : BitVec 6) (dies : BitVec 4) : Statement (.stopatGo g a c vi dies) := by
  intro hw w h; cases h; refine (decode_f4 _ _ _ _ _ _ _ _ rfl).trans ?_
  simp_all [decodeF4, decodeSys, chk, chkO, Instr.wf, shiftFits, fmtOf_code, scopeOf_code, widthOf_code, condOf_code, combOf_code, fcondOf_code, vcondOf_code, lsb_bit, extract_low 32 1, extract_high 32 1, lsb_low 32 1, lsb_high 32 1, extract_low 33 4, extract_high 33 4, lsb_low 33 4, lsb_high 33 4, extract_low 37 6, extract_high 37 6, lsb_low 37 6, lsb_high 37 6, -BitVec.getLsbD_eq_getElem]
theorem pzero (g : Guard) (a : Reg) (b : Reg) (c : Reg) : Statement (.pzero g a b c) := by
  intro _ _ h; cases h; exact decode_f4 _ _ _ _ _ _ _ _ rfl
theorem poolpart (g : Guard) (a : Reg) (b : Reg) (c : Reg) (bob : BitVec 8) : Statement (.poolpart g a b c bob) := by
  intro hw w h; cases h; refine (decode_f4 _ _ _ _ _ _ _ _ rfl).trans ?_
  simp_all [decodeF4, decodeSys, chk, chkO, Instr.wf, shiftFits, fmtOf_code, scopeOf_code, widthOf_code, condOf_code, combOf_code, fcondOf_code, vcondOf_code, lsb_bit, extract_low 35 8, extract_high 35 8, lsb_low 35 8, lsb_high 35 8, -BitVec.getLsbD_eq_getElem]
theorem tinv (g : Guard) (a : Reg) (b : Reg) (c : Reg) (op : BitVec 2) (all : Bool) (vi : BitVec 6) (dies : BitVec 4) : Statement (.tinv g a b c op all vi dies) := by
  intro hw w h; cases h; refine (decode_f4 _ _ _ _ _ _ _ _ rfl).trans ?_
  simp_all [decodeF4, decodeSys, chk, chkO, Instr.wf, shiftFits, fmtOf_code, scopeOf_code, widthOf_code, condOf_code, combOf_code, fcondOf_code, vcondOf_code, lsb_bit, extract_low 30 4, extract_high 30 4, lsb_low 30 4, lsb_high 30 4, extract_low 34 6, extract_high 34 6, lsb_low 34 6, lsb_high 34 6, extract_low 40 1, extract_high 40 1, lsb_low 40 1, lsb_high 40 1, extract_low 41 2, extract_high 41 2, lsb_low 41 2, lsb_high 41 2, -BitVec.getLsbD_eq_getElem]
theorem pgver (g : Guard) (a : Reg) (b : Reg) : Statement (.pgver g a b) := by
  intro _ _ h; cases h; exact decode_f4 _ _ _ _ _ _ _ _ rfl
theorem pgswap (g : Guard) (a : Reg) (b : Reg) (c : Reg) (d : Reg) (vi : BitVec 6) : Statement (.pgswap g a b c d vi) := by
  intro hw w h; cases h; refine (decode_f4 _ _ _ _ _ _ _ _ rfl).trans ?_
  simp_all [decodeF4, decodeSys, chk, chkO, Instr.wf, shiftFits, fmtOf_code, scopeOf_code, widthOf_code, condOf_code, combOf_code, fcondOf_code, vcondOf_code, lsb_bit, extract_low 37 6, extract_high 37 6, lsb_low 37 6, lsb_high 37 6, -BitVec.getLsbD_eq_getElem]
theorem selv (g : Guard) (a : Reg) (b : Reg) (c : Reg) : Statement (.selv g a b c) := by
  intro _ _ h; cases h; exact decode_f4 _ _ _ _ _ _ _ _ rfl
theorem imap (g : Guard) (a : Reg) (b : Reg) (c : Reg) (dies : BitVec 4) : Statement (.imap g a b c dies) := by
  intro hw w h; cases h; refine (decode_f4 _ _ _ _ _ _ _ _ rfl).trans ?_
  simp_all [decodeF4, decodeSys, chk, chkO, Instr.wf, shiftFits, fmtOf_code, scopeOf_code, widthOf_code, condOf_code, combOf_code, fcondOf_code, vcondOf_code, lsb_bit, extract_low 39 4, extract_high 39 4, lsb_low 39 4, lsb_high 39 4, -BitVec.getLsbD_eq_getElem]
theorem evpost (g : Guard) (a : Reg) (b : Reg) (c : Reg) (vi : BitVec 6) (gen : BitVec 16) (sysm : Bool) : Statement (.evpost g a b c vi gen sysm) := by
  intro hw w h; cases h; refine (decode_f4 _ _ _ _ _ _ _ _ rfl).trans ?_
  simp_all [decodeF4, decodeSys, chk, chkO, Instr.wf, shiftFits, fmtOf_code, scopeOf_code, widthOf_code, condOf_code, combOf_code, fcondOf_code, vcondOf_code, lsb_bit, extract_low 20 1, extract_high 20 1, lsb_low 20 1, lsb_high 20 1, extract_low 21 16, extract_high 21 16, lsb_low 21 16, lsb_high 21 16, extract_low 37 6, extract_high 37 6, lsb_low 37 6, lsb_high 37 6, -BitVec.getLsbD_eq_getElem]
theorem haltRetire (g : Guard) (a : Reg) (b : Reg) (c : Reg) (slice : Bool) : Statement (.haltRetire g a b c slice) := by
  intro _ _ h; cases h; cases slice <;> exact decode_f4 _ _ _ _ _ _ _ _ rfl
theorem haltRemap (g : Guard) (a : Reg) (b : Reg) (c : Reg) (slice : Bool) : Statement (.haltRemap g a b c slice) := by
  intro _ _ h; cases h; cases slice <;> exact decode_f4 _ _ _ _ _ _ _ _ rfl
theorem timerWrite : Statement .timerWrite := fun _ _ h => by cases h
theorem gstopWrite : Statement .gstopWrite := fun _ _ h => by cases h
theorem viidWrite : Statement .viidWrite := fun _ _ h => by cases h
theorem combiningRegisterWrite : Statement .combiningRegisterWrite := fun _ _ h => by cases h
theorem counterClearStore : Statement .counterClearStore := fun _ _ h => by cases h
theorem lineFetch : Statement .lineFetch := fun _ _ h => by cases h
theorem slotAssignment : Statement .slotAssignment := fun _ _ h => by cases h
theorem handlerMemberStart : Statement .handlerMemberStart := fun _ _ h => by cases h
theorem asyncFaultDelivery : Statement .asyncFaultDelivery := fun _ _ h => by cases h
theorem longLatencyLanding : Statement .longLatencyLanding := fun _ _ h => by cases h
theorem forwardedSharedArrival : Statement .forwardedSharedArrival := fun _ _ h => by cases h
theorem familyEnd : Statement .familyEnd := fun _ _ h => by cases h
theorem killArrival : Statement .killArrival := fun _ _ h => by cases h
theorem reservationReply : Statement .reservationReply := fun _ _ h => by cases h
theorem handleReply : Statement .handleReply := fun _ _ h => by cases h
theorem boundGrant : Statement .boundGrant := fun _ _ h => by cases h
theorem boundEnqueueRetry : Statement .boundEnqueueRetry := fun _ _ h => by cases h
theorem launchAdmission : Statement .launchAdmission := fun _ _ h => by cases h
theorem admissionRetryTimer : Statement .admissionRetryTimer := fun _ _ h => by cases h
theorem loadAtHome : Statement .loadAtHome := fun _ _ h => by cases h
theorem postedStoreAtHome : Statement .postedStoreAtHome := fun _ _ h => by cases h
theorem storeAcknowledgement : Statement .storeAcknowledgement := fun _ _ h => by cases h
theorem storeRefusal : Statement .storeRefusal := fun _ _ h => by cases h
theorem amoAtHome : Statement .amoAtHome := fun _ _ h => by cases h
theorem ldvAtHome : Statement .ldvAtHome := fun _ _ h => by cases h
theorem ldvAcceptance : Statement .ldvAcceptance := fun _ _ h => by cases h
theorem ldvReissueTimer : Statement .ldvReissueTimer := fun _ _ h => by cases h
theorem parkedLdvTimeout : Statement .parkedLdvTimeout := fun _ _ h => by cases h
theorem claimArrival : Statement .claimArrival := fun _ _ h => by cases h
theorem evaluatorStart : Statement .evaluatorStart := fun _ _ h => by cases h
theorem evaluatorClaimRetry : Statement .evaluatorClaimRetry := fun _ _ h => by cases h
theorem stfAtHome : Statement .stfAtHome := fun _ _ h => by cases h
theorem ssusAtHome : Statement .ssusAtHome := fun _ _ h => by cases h
theorem sempAtHome : Statement .sempAtHome := fun _ _ h => by cases h
theorem wakeMulticastDelivery : Statement .wakeMulticastDelivery := fun _ _ h => by cases h
theorem endNoticeAtHome : Statement .endNoticeAtHome := fun _ _ h => by cases h
theorem watchdogTest : Statement .watchdogTest := fun _ _ h => by cases h
theorem timerEvent : Statement .timerEvent := fun _ _ h => by cases h
theorem vectorCommandCompletion : Statement .vectorCommandCompletion := fun _ _ h => by cases h
theorem matrixCommandCompletion : Statement .matrixCommandCompletion := fun _ _ h => by cases h
theorem csplitCompletion : Statement .csplitCompletion := fun _ _ h => by cases h
theorem copyGranule : Statement .copyGranule := fun _ _ h => by cases h
theorem copyCompletion : Statement .copyCompletion := fun _ _ h => by cases h
theorem chainWordArrival : Statement .chainWordArrival := fun _ _ h => by cases h
theorem chainCredit : Statement .chainCredit := fun _ _ h => by cases h
theorem reductionContribution : Statement .reductionContribution := fun _ _ h => by cases h
theorem deliveryLanding : Statement .deliveryLanding := fun _ _ h => by cases h
theorem contributionAck : Statement .contributionAck := fun _ _ h => by cases h
theorem peerStateArrival : Statement .peerStateArrival := fun _ _ h => by cases h
theorem crossDeviceRoundTimeout : Statement .crossDeviceRoundTimeout := fun _ _ h => by cases h
theorem rdjoinAtHome : Statement .rdjoinAtHome := fun _ _ h => by cases h
theorem rdfreeAtHome : Statement .rdfreeAtHome := fun _ _ h => by cases h
theorem multicastTokenGrant : Statement .multicastTokenGrant := fun _ _ h => by cases h
theorem multicastTokenRelease : Statement .multicastTokenRelease := fun _ _ h => by cases h
theorem combiningWindowClose : Statement .combiningWindowClose := fun _ _ h => by cases h
theorem replicaFill : Statement .replicaFill := fun _ _ h => by cases h
theorem replicaClear : Statement .replicaClear := fun _ _ h => by cases h
theorem replicaClearConfirm : Statement .replicaClearConfirm := fun _ _ h => by cases h
theorem syncStop : Statement .syncStop := fun _ _ h => by cases h
theorem shuttleLaunch : Statement .shuttleLaunch := fun _ _ h => by cases h
theorem shuttleReturn : Statement .shuttleReturn := fun _ _ h => by cases h
theorem stationSave : Statement .stationSave := fun _ _ h => by cases h
theorem zeroFillComplete : Statement .zeroFillComplete := fun _ _ h => by cases h
theorem linkBundleFailure : Statement .linkBundleFailure := fun _ _ h => by cases h
theorem uncorrectableError : Statement .uncorrectableError := fun _ _ h => by cases h
theorem parityReplay : Statement .parityReplay := fun _ _ h => by cases h
theorem healdEventRetry : Statement .healdEventRetry := fun _ _ h => by cases h
theorem throttleUpdate : Statement .throttleUpdate := fun _ _ h => by cases h
theorem thermalTrip : Statement .thermalTrip := fun _ _ h => by cases h
theorem powerOn : Statement .powerOn := fun _ _ h => by cases h
theorem computeDieRelease : Statement .computeDieRelease := fun _ _ h => by cases h
theorem timeSliceEnd : Statement .timeSliceEnd := fun _ _ h => by cases h
theorem launch : Statement .launch := fun _ _ h => by cases h
theorem copyin : Statement .copyin := fun _ _ h => by cases h
theorem copyout : Statement .copyout := fun _ _ h => by cases h
theorem define : Statement .define := fun _ _ h => by cases h
theorem weight : Statement .weight := fun _ _ h => by cases h
theorem reset : Statement .reset := fun _ _ h => by cases h
theorem undefine : Statement .undefine := fun _ _ h => by cases h
theorem hostreg : Statement .hostreg := fun _ _ h => by cases h
theorem store : Statement .store := fun _ _ h => by cases h
theorem group : Statement .group := fun _ _ h => by cases h
theorem attest : Statement .attest := fun _ _ h => by cases h
theorem storage : Statement .storage := fun _ _ h => by cases h
theorem merge : Statement .merge := fun _ _ h => by cases h
theorem qsetup : Statement .qsetup := fun _ _ h => by cases h
theorem doorbell : Statement .doorbell := fun _ _ h => by cases h
theorem rmaWrite : Statement .rmaWrite := fun _ _ h => by cases h
theorem rmaRead : Statement .rmaRead := fun _ _ h => by cases h
theorem quiesce : Statement .quiesce := fun _ _ h => by cases h
theorem answer : Statement .answer := fun _ _ h => by cases h
theorem proceed : Statement .proceed := fun _ _ h => by cases h
theorem ready : Statement .ready := fun _ _ h => by cases h
theorem abort : Statement .abort := fun _ _ h => by cases h
theorem done : Statement .done := fun _ _ h => by cases h
theorem mergeTimeout : Statement .mergeTimeout := fun _ _ h => by cases h
theorem gcycAdvance : Statement .gcycAdvance := fun _ _ h => by cases h
theorem evaluatorReport : Statement .evaluatorReport := fun _ _ h => by cases h
theorem breakKillFaultReport : Statement .breakKillFaultReport := fun _ _ h => by cases h
theorem lineWriteBack : Statement .lineWriteBack := fun _ _ h => by cases h
theorem heldRefusalRelease : Statement .heldRefusalRelease := fun _ _ h => by cases h
theorem lateWakeMulticast : Statement .lateWakeMulticast := fun _ _ h => by cases h
theorem notsupRequest : Statement .notsupRequest := fun _ _ h => by cases h
theorem ueNotSupported : Statement .ueNotSupported := fun _ _ h => by cases h
theorem serviceCoreReassign : Statement .serviceCoreReassign := fun _ _ h => by cases h
end Sys2Proof.Laws.RoundTrip
end

