-- ==== Sys2Proof/Tests/Slice0.lean ====
section
/-! SUPPORT. The author's own tests: words decoded and encoded, ill-formed terms refused, worked values of the spec,
and for each statement with hypotheses a theorem `wit_<name>` that a concrete state and operands meet them. -/

set_option Elab.async false

open Sys2Proof Sys2Proof.Machine

/-! ## Decoding: words written out from the encoding tables of the spec. Where the spec gives a worked encoding, its file
stands before the test. -/

-- 05_integer_and_control: OP 0x10, TL 1, A 4; B 2, C 3, F 0 and F 0b110000 (its worked SRA.w l2, l0, l1).
theorem test_decode_add : decode 0x2090 0x10C0 = .ok (.add .always false 4 2 3) := rfl
theorem test_decode_sra_w : decode 0x2090 0x10F0 = .ok (.sra .always true 4 2 3) := rfl
theorem test_decode_clz : decode 0x208C 0x1017 = .ok (.clz .always false 3 2) := rfl
theorem test_decode_clz_reserved : decode 0x208C 0x1057 = .error .rsv := rfl
theorem test_decode_iop_function : decode 0x2090 0x10DC = .error .fn := rfl
theorem test_decode_tail_length : decode 0x2010 0x10C0 = .error .tlm := rfl
theorem test_decode_opcode : decode 0x1280 0 = .error .opc := rfl
theorem test_decode_addi : decode 0x230C 0x1000FFF8 = .ok (.addi .always false 3 2 0xFFF8) := rfl
theorem test_decode_shli_w : decode 0x230C 0x10240005 = .ok (.shli .always true 3 2 5) := rfl
theorem test_decode_ldi : decode 0x2508 0x07FFFFFB = .ok (.ldi .always 2 0x7FFFFFB) := rfl
theorem test_decode_padds_h : decode 0x2890 0x10D7 = .ok (.padds .always .h 4 2 3) := rfl
theorem test_decode_bfxz : decode 0x2B0C 0x100100C8 = .ok (.bfxz .always 3 2 8 3) := rfl
theorem test_decode_bfi : decode 0x2B10 0x10C200C8 = .ok (.bfi .always 4 2 3 8 3) := rfl
theorem test_decode_bfx_too_wide : decode 0x2B0C 0x10000FFF = .error .fn := rfl
theorem test_decode_lea : decode 0x2D10 0x10C30010 = .ok (.lea .always 4 2 3 3 16) := rfl
theorem test_decode_plog : decode 0x3488 0x0048 = .ok (.plog .always 2 0 1 8) := rfl
theorem test_decode_pgetw : decode 0x368C 0x0001 = .ok (.pgetw .always 3) := rfl
theorem test_decode_cmp : decode 0x3088 0x10F5 = .ok (.cmp .always .gez .or true 2 2 3) := rfl
-- 03_lines_and_syntax: CMP.LT p0, l0, z; ?!p0 BR @done; LDX.w l0, [g0 + ix<<2].
theorem test_decode_cmp_lt : decode 0x3080 0x1002 = .ok (.cmp .always .lt .set false 0 2 0) := rfl
theorem test_decode_br : decode 0x0302 0x00000004 = .ok (.br .ifNotP0 4) := rfl
theorem test_decode_ldx : decode 0xC288 0x0F92 = .ok (.ldx .always .w false 2 1 30 2) := rfl
-- 05_integer_and_control, bazaar.2: CMPI.LT.and p1, l3, #5 and SEL l9, l9, z, p1.
theorem test_decode_cmpi : decode 0x3304 0x280A0005 = .ok (.cmpi .always .lt .and false 1 5 5) := rfl
theorem test_decode_sel : decode 0x2EAC 0x5801 = .ok (.sel .always 11 11 0 1 false) := rfl
theorem test_decode_call : decode 0x0500 0x00000040 = .ok (.call .always 64) := rfl
theorem test_decode_jr : decode 0x0680 0xF800 = .ok (.jr .always 31) := rfl
theorem test_decode_callr : decode 0x0880 0x1000 = .ok (.callr .always 2) := rfl
theorem test_decode_jtab : decode 0x0B00 0x18400003 = .ok (.jtab .always 3 1 3) := rfl
theorem test_decode_exit : decode 0x0C00 0 = .ok (.exit .always) := rfl
theorem test_decode_nop : decode 0x0E01 0 = .ok (.nop .ifP0) := rfl
theorem test_decode_nop_reserved : decode 0x0E04 0 = .error .rsv := rfl
theorem test_decode_trap : decode 0x1100 0x10000042 = .ok (.trap .always 2 0x42) := rfl
-- 06_family_instructions, 20_program_stencil, 24_program_task_kernel: FALLOC in its forms.
theorem test_decode_falloc : decode 0x6198 0x01400008212C0000 = .ok (.fallocFree .always 6 0 5 ⟨1, 4, 1, 1, 12, 0, false, false⟩) := rfl
theorem test_decode_falloc_seq : decode 0x61A0 0x0000000809018100 = .ok (.fallocSeq .always 8 0 0 ⟨1, 1, 1, 0, 1, 0, false, true⟩) := rfl
theorem test_decode_falloc_chain : decode 0x6190 0x18800008090E3200 =
    .ok (.fallocFree .always 4 3 2 ⟨1, 1, 1, 0, 14, 3, true, false⟩) := rfl
-- 07_number_formats: FMA.d, FCMP.LT.d, CVT.f32.i64 with scale -3, RNGP, CVT.i64.lg6.
theorem test_decode_fma : decode 0x8090 0x10E9 = .ok (.fma .always true 4 2 3) := rfl
theorem test_decode_fcmp : decode 0x8288 0x10E1 = .ok (.fcmp .always .lt true 2 2 3) := rfl
theorem test_decode_cvt : decode 0x850C 0x1000FD05 = .ok (.cvt .always .f32 .i64 3 2 0xFD) := rfl
theorem test_decode_cvt_lg6 : decode 0x8520 0x40000080 = .ok (.cvt .always .i64 .lg6 8 8 0) := rfl
theorem test_decode_frnd : decode 0x868C 0x1021 = .ok (.frnd .always 1 true 3 2) := rfl
theorem test_decode_rngp : decode 0x898C 0x20BC000000000000 = .ok (.rngp .always 3 4 2 30) := rfl
-- 08_curve_codes: CADD.n2, CBOX.n2, CSPLIT.n2.
theorem test_decode_cadd : decode 0xA110 0x10C80000 = .ok (.cadd .always 1 false 4 2 3) := rfl
theorem test_decode_cext : decode 0xA10C 0x100B0001 = .ok (.cext .always 1 3 2 1) := rfl
theorem test_decode_cext_axis : decode 0xA10C 0x100B0002 = .error .fn := rfl
theorem test_decode_cbox : decode 0xA384 0x10C8400000000000 = .ok (.cbox .always 1 1 2 3 4) := rfl
theorem test_decode_csplit : decode 0xA79C 0x014C4000000E9000 = .ok (.csplit .always 1 7 0 5 6 0x9000 7) := rfl
-- 00_scope, 13_global_memory, 14_tagged_cells: LD.d l1, [g0 + #8]; LD.h.z l1, [l0 - #2]; LDV l1, [g0 + #8].
theorem test_decode_ld : decode 0xC10C 0x08030008 = .ok (.ld .always .d false 3 1 8) := rfl
theorem test_decode_ld_h_z : decode 0xC10C 0x1005FFFE = .ok (.ld .always .h true 3 2 0xFFFE) := rfl
theorem test_decode_ldv : decode 0xCD0C 0x08000008 = .ok (.ldv .always 3 1 8) := rfl
-- 15_ordering, 16_program_price_cells: FENCE.acq.pkg; FRSM.kill g0.
theorem test_decode_fence : decode 0xDA80 0x0009 = .ok (.fenceAcq .always .pkg) := rfl
theorem test_decode_rfence : decode 0xDC00 0 = .ok (.rfence .always) := rfl
theorem test_decode_frsm : decode 0x7880 0x0802 = .ok (.frsmKill .always 1) := rfl
-- 11_pool_and_vectors, 12_matrix_unit: VMUL.f32.s, VSUM.f32, MMAC.
theorem test_decode_vmul : decode 0xE198 0x190A000004002142 = .ok (.vmul .always ⟨6, 3, 4, .f32, 8⟩ 5 true) := rfl
theorem test_decode_vsum : decode 0xE19C 0x20C000000000214F = .ok (.vsum .always ⟨7, 4, 3, .f32, 8⟩) := rfl
theorem test_decode_mmac : decode 0xF398 0x1100000000000032 = .ok (.mmac .always 6 2 4 2 3) := rfl
-- 19_engine_and_chain_queues, 04_register_catalogue: XCOPY.pkg, RDADD, RDC l1, RKEY.
theorem test_decode_xcopy : decode 0xFB98 0x10C8000000000009 = .ok (.xcopy .always .pkg 1 6 2 3 4) := rfl
theorem test_decode_rdadd : decode 0xFD00 0x13430000 = .ok (.rdadd .always 0 2 13) := rfl
theorem test_decode_rdc : decode 0xFD0C 0x00050001 = .ok (.rdc .always 3 1) := rfl
theorem test_decode_rdc_unlisted : decode 0xFD0C 0x00050005 = .error .fn := rfl
-- 23_traps_and_preemption, 24_program_task_kernel, 26_program_partition_merge: SLOTSV, WAKE.go, EVPOST.
theorem test_decode_slotsv : decode 0xFF98 0x10C0080000000000 = .ok (.slotsv .always 6 2 3 false 0) := rfl
theorem test_decode_wake_go : decode 0xFFB0 0x6800000000000103 = .ok (.wakeGo .always 12 13 0 0 1) := rfl
theorem test_decode_evpost : decode 0xFF80 0x3A80580000000000 = .ok (.evpost .always 0 7 10 0 0 false) := rfl

-- The opcode table's numbering: the head above the tail.
theorem test_table_word_add : decodeTableWord 32 0x209010C0 = some (.add .always false 4 2 3) := by decide +kernel
theorem test_table_word_jr : decodeTableWord 32 0x06800800 = some (.jr .always 1) := by decide +kernel

/-! ## Encoding: the same words written back -/

theorem test_encode_sra_w : encode (.sra .always true 4 2 3) = some ⟨0x2090, 0x10F0⟩ := rfl
theorem test_encode_cvt : encode (.cvt .always .f32 .i64 3 2 0xFD) = some ⟨0x850C, 0x1000FD05⟩ := rfl
theorem test_encode_device_step : encode .gcycAdvance = none := rfl

/-! ## Well-formedness: a term that each check refuses, and its neighbour that it takes -/

theorem test_wf_shift : (Instr.shli .always true 3 2 32).wf = false ∧ (Instr.shli .always true 3 2 31).wf = true ∧
    (Instr.shri .always true 3 2 32).wf = false ∧ (Instr.srai .always true 3 2 32).wf = false ∧
    (Instr.srai .always false 3 2 63).wf = true := by decide
theorem test_wf_field : (Instr.bfx .always 3 2 1 63).wf = false ∧ (Instr.bfxz .always 3 2 60 4).wf = false ∧
    (Instr.bfi .always 3 2 4 63 1).wf = false ∧ (Instr.bfi .always 3 2 4 63 0).wf = true := by decide
theorem test_wf_axis : (Instr.cins .always 1 3 2 4 2).wf = false ∧ (Instr.cext .always 1 3 2 2).wf = false ∧
    (Instr.cext .always 1 3 2 1).wf = true := by decide
theorem test_wf_level : (Instr.clvl .always 1 3 2 33).wf = false ∧ (Instr.clvl .always 1 3 2 32).wf = true := by decide
theorem test_wf_load : (Instr.ld .always .d true 3 2 0).wf = false ∧ (Instr.ldx .always .d true 3 2 4 0).wf = false ∧
    (Instr.ldx .always .w true 3 2 4 0).wf = true := by decide
theorem test_wf_vector : (Instr.vadd .always ⟨3, 2, 4, .q4, 1⟩ 5 false).wf = false ∧
    (Instr.vcmp .always ⟨3, 2, 4, .lg6, 1⟩ 5 false .eq).wf = false ∧ (Instr.vsum .always ⟨3, 2, 4, .q4, 1⟩).wf = false ∧
    (Instr.vgath .always ⟨3, 2, 4, .q4, 1⟩ 5).wf = false ∧ (Instr.vexp2 .always ⟨3, 2, 4, .f64, 1⟩).wf = false ∧
    (Instr.vrng .always ⟨3, 2, 4, .i64, 1⟩ 5).wf = false ∧ (Instr.vrng .always ⟨3, 2, 4, .z32, 1⟩ 5).wf = true := by decide
theorem test_wf_control : (Instr.rdc .always 3 5).wf = false ∧ (Instr.wrc .always 3 0x17).wf = false ∧
    (Instr.wrc .always 3 0x33).wf = true := by decide
theorem test_wf_event : (Instr.evwait .always 3 0).wf = false ∧ (Instr.evwait .always 3 7).wf = true := by decide

/-! ## Small states -/

/-- A member alone in a slot: a window of 27 locals, all Full, holding `regs`. -/
def tSlot (regs : List (Nat × Word)) : Slot :=
  { work := .member 0, l := 27, sgen := 1, scnt := 1, full := 0x0FFFFFFE, regs := regs, bobRm := 0x17000, bobLim := 0x17200,
    ffrm := 0x17000, fflim := 0x17200 }
/-- Its family's create-queue entry. -/
def tEntry : CqEntry :=
  { fam := ⟨0, 0, 1⟩, g := 0, s := 0, l := 27, prio := 0, blk := 1, step := 1, start := 0, n := some 1, base := 0, count := 1,
    chain := false, bound := false, started := true, body := 0, handler := none, mode := 0, rkey := 0, glob := [], inis := [],
    next := 1, resident := 1, fwd := [], anchors := [], stop := none, seq := 0, defPlace := 0, root := true }
/-- A core that runs it in slot 0. -/
def tCore (x : Slot) : Core := { ({} : Core) with halted := false, poolw := 0x44, slots := [(0, x)], cq := [(0, tEntry)] }
/-- The released module with one core, compute core 0. -/
def tOf (c : Core) : State := { State.reset with released := true, agenda := [], cycle := 104, cores := [(0, c)] }
def tState (x : Slot) : State := tOf (tCore x)
def tRegs (regs : List (Nat × Word)) : State := tState (tSlot regs)
/-- The same in system mode. -/
def tSys (regs : List (Nat × Word)) : State := tOf { tCore (tSlot regs) with sysMode := true }

theorem ready0 {s t : State} {g srcs long vs} (h1 : s.cur.guard g = true) (h2 : s.checkRegs srcs [] long = .ok ())
    (h3 : s.readSrcs srcs = .ok (vs, t)) : s.Ready g srcs [] long vs t := ⟨h1, h2, h3, by simp⟩
theorem ready1 {s t : State} {g srcs a long vs} (h1 : s.cur.guard g = true) (h2 : s.checkRegs srcs [a] long = .ok ())
    (h3 : s.readSrcs srcs = .ok (vs, t)) (h4 : t.waitDst a = .ok ()) : s.Ready g srcs [a] long vs t := ⟨h1, h2, h3, by simpa using h4⟩
theorem ready2 {s t : State} {g srcs a b long vs} (h1 : s.cur.guard g = true) (h2 : s.checkRegs srcs [a, b] long = .ok ())
    (h3 : s.readSrcs srcs = .ok (vs, t)) (h4 : t.waitDst a = .ok ()) (h5 : t.waitDst b = .ok ()) :
    s.Ready g srcs [a, b] long vs t := ⟨h1, h2, h3, by simp [h4, h5]⟩


/-! ## Worked values of the spec -/

/-- Register `r` of the member after instruction `i` with registers `regs`, and its predicates. -/
def tAfter (i : Instr) (regs : List (Nat × Word)) (r : Reg) : Option (Word × BitVec 8) :=
  match exec i (tRegs regs) with
  | .next t => some (t.cur.reg r.toNat, t.cur.pred)
  | _ => none

-- 05_integer_and_control, R114: SHR.w of 0x8000_0000 by 0.
theorem test_shr_w_extends : (tAfter (.shr .always true 4 2 3) [(2, 0x80000000)] 4).map (·.1) = some 0xFFFFFFFF80000000 := by
  decide +kernel
-- 05, R115: what a division leaves for the corners.
theorem test_div_corners : divS 64 5 0 = 0xFFFFFFFFFFFFFFFF ∧ remS 64 5 0 = 5 ∧
    divS 64 0x8000000000000000 0xFFFFFFFFFFFFFFFF = 0x8000000000000000 ∧ remS 32 0x80000000 0xFFFFFFFF = 0 := by decide +kernel
-- 05: the worked PADDS.h.
theorem test_padds_h_clamps : (tAfter (.padds .always .h 4 2 3) [(2, 0x7FFF000180000005), (3, 0x00010002FFFFFFFB)] 4).map (·.1) =
    some 0x7FFF000380000000 := by decide +kernel
-- 07_number_formats, R173: counter 0 and key 0.
theorem test_philox : philox 0 0 0 = (0xE169C58D6627E8D5, 0x9B00DBD8BC57AC4C) := by decide +kernel
-- 07, R174: the worked RNGF.
theorem test_rngf : (tAfter (.rngf .always 3 2) [(2, 0xE169C58D6627E8D5)] 3).map (·.1) = some 0x3F6169C53ECC4FD0 := by decide +kernel
-- 07: CVT.i64.lg6 of the code 0x18 is 4.
theorem test_cvt_lg6 : (tAfter (.cvt .always .i64 .lg6 3 2 0) [(2, 0x418)] 3).map (·.1) = some 4 := by decide +kernel
-- 07, R162: 3.0 as f32 has the LG6 code 0x16.
theorem test_cvt_to_lg6 : (tAfter (.cvt .always .lg6 .f32 3 2 0) [(2, 0x40400000)] 3).map (·.1) = some 0x16 := by decide +kernel
-- 08_curve_codes: the worked CADD.n2, CSUB.n2 and CADD.n2.s.
theorem test_cadd : tAfter (.cadd .always 1 false 4 2 3) [(2, 13), (3, 3)] 4 = some (26, 0) := by decide +kernel
theorem test_csub_borrow : (tAfter (.csub .always 1 false 4 2 3) [(2, 3), (3, 4)] 4).map (·.2) = some 1 := by decide +kernel
-- 08: the market box, lo 12 and hi 48.
theorem test_cnext : tAfter (.cnext .always 1 5 2 3 4) [(2, 16), (3, 12), (4, 48)] 5 = some (24, 1) ∧
    tAfter (.cnext .always 1 5 2 3 4) [(2, 49), (3, 12), (4, 48)] 5 = some (0xFFFFFFFFFFFFFFFF, 0) := by decide +kernel
theorem test_cbox : ([14, 13, 48].all fun x => tAfter (.cbox .always 1 2 2 3 4) [(2, x), (3, 12), (4, 48)] 5 == some (0, 4)) = true ∧
    ([3, 51, 22, 44, 63].all fun x => tAfter (.cbox .always 1 2 2 3 4) [(2, x), (3, 12), (4, 48)] 5 == some (0, 0)) = true := by
  decide +kernel
theorem test_csplit_runs : runsOf 2 12 48 0 5 = [(12, 15), (24, 24), (26, 26), (36, 37), (48, 48)] ∧
    (runsOf 2 12 48 13 2).take 2 = [(13, 15), (24, 24)] := by decide +kernel
-- 11_pool_and_vectors: VSUM of 2,048, 1 and 1 in f16.
theorem test_vsum_f16 : vsum .f16 0 [0x6800, 0x3C00, 0x3C00] = (0x6801, 0) := by decide +kernel
-- 13_global_memory, R234: its two worked cases.
theorem test_slice_hash : sliceHash ⟨false, 3⟩ 0x400000 = 0x0E ∧ sliceHash ⟨false, 5⟩ 0x000123456789A000 = 0x5D := by decide +kernel
-- 05, R132: a JTAB at head 3 with an index not below its length falls through, p0 0.
theorem test_jtab_falls : tAfter (.jtab .always 2 3 3) [(2, 3), (3, 0xC000000000008000)] 2 = some (3, 0) := by decide +kernel
-- 17_rotation_and_launch_queues: the starved phase at GCYC 2,040 and 2,048.
def tStarved (cycle : Nat) (a0 a8 a16 : BitVec 12) (next : Nat) : Option (UnitId × Nat) :=
  let s := tOf { tCore (tSlot []) with
    slots := [(0, { tSlot [] with prio := 3, aging := a0 }), (8, { tSlot [] with prio := 3, aging := a8 }),
      (16, { tSlot [] with aging := a16 })], rr := [(3, next)] }
  State.pick { s with cycle := cycle }
theorem test_starved_phase : tStarved 2040 7 15 2040 1 = some (0, 8) ∧ tStarved 2048 15 7 2048 9 = some (0, 16) ∧
    tStarved 2056 23 15 7 9 = some (0, 0) := by decide +kernel

/-! ## Digests (FIPS 180-4, the example of one block) -/

set_option maxRecDepth 100000 in
theorem test_sha256_abc : sha256 [0x61, 0x62, 0x63] = 0xba7816bf8f01cfea414140de5dae2223b00361a396177a9cb410ff61f20015ad := by decide +kernel

/-! ## Witnesses -/

def w1 : State := tRegs [(2, 5), (3, 0xFFFFFFFFFFFFFFFE)]
def w2 : State := tRegs [(2, 0x8000000000000000), (3, 0xFFFFFFFFFFFFFFFF), (5, 7)]
def wPc : State := tState { tSlot [(2, 0x1000), (3, 2)] with pc := 0x10040 }
def wTab : State := tOf { tCore { tSlot [(2, 2), (3, 0xC000000000008000)] with pc := 0x10040 } with pool := [(0x8008, 0x40)] }
def wTaf : State := tRegs [(2, 2), (3, 0x8000)]
def aTab : Access := { who := ⟨0, 0, 1⟩, tid := 7, kind := .jtab, addr := 0x40, space := ⟨false, 0⟩, sys := false, c := 0, d := 0, outer := 0, dest := 0, pc := 0, entry := none, at_ := 0, replica := false, walk := 0 }
def oTab : Outst := { tid := 7, who := ⟨0, 0, 1⟩, pc := 0x10040, kind := .access aTab, dest := 0, dest2 := none, load := true, noticed := false, accepted := false, refusals := 0, parked := false, failed := false, h := ⟨none, 0, 0⟩, words := [] }
def wTan (j : Nat) : State := tOf { tCore { tSlot [] with pc := 0x10040, run := .wait .reply, trip := .out .reply, jtab := some j } with out := [oTab] }
def qTan (j : Nat) : State := ((((wTan j).dropOut 0 7).releaseHeld 0).progressFences 0)
def tNop : State := tState { tSlot [] with line := some (0, mkLine ⟨0x0E01, 0⟩) }
def f64t : FpFmt := ⟨11, 52⟩
def vOne : Word := 0x3FF0000000000000
def vInf : Word := 0x7FF0000000000000
def vNan : Word := 0x7FF8000000000000
def wF : State := tRegs [(2, 0x3FF8000000000000), (3, 0x4000000000000000), (4, 0x3FF0000000000000)]
def wC : State := tRegs [(2, 27), (3, 12), (4, 48)]
/-- l0 names the lowest scratchpad word, l1 a global word, l2 a word of compute core 1's pool, l3 holds data. -/
def wM : State := tOf { tCore (tSlot [(2, 0xC000000000008000), (3, 0x10000), (4, 0x8000000000108000), (5, 0xFFFFFFFFFFFFFF85), (6, 9)]) with pool := [(0x8000, 0x85), (0x8007, 0x80), (0x800F, 1)] }
/-- A load of the word 0x10000 and a store to it are under way. -/
def wBusy : State := (wM.issueLoad (.ld .d false) 0x10000 0 0 7 none).postStore 0 (.st .d) 0x10000 5 0
def wPosted : State := wM.postStore 0 (.st .d) 0x10000 5 0
def wW : State := tSys [(2, 0x17100), (3, 0x123457)]
/-- A chain-family member with both links. -/
def wQ : State := tOf { tCore (tSlot []) with cq := [(0, { tEntry with chain := true })], qchain := 0x80018002, downLink := some (2, ⟨0, 0, 1⟩), chainFam := some ⟨0, 0, 1⟩ }
def wEv : State := tOf { tCore (tSlot []) with timerEv := some 0xF000000000000077, posts := [0], pool := [(0x1F400, 0x88), (0x1F407, 0x30)], qi := [⟨5, false, false⟩] }
def wJ : State := (tOf { tCore (tSlot [(2, 0x40), (3, 1)]) with journal := [(0, { st := .refused, cause := 9, addr := 0x10000, size := 3, slot := 0, sgen := 1, stamp := 4, req := (wM.postStore 0 (.st .d) 0x10000 5 0 |> fun t => (aget {} t.curCore.journal 0).req) })] })
/-- Pool offsets of three vectors, and a scalar. -/
def wV : State := tOf { tCore (tSlot [(2, 0x8000), (3, 0x8040), (4, 0x8080), (5, 0x3C00)]) with pool := [(0x8040, 7), (0x8080, 0xFF)] }
def tV : State := match exec (.vadd .always ⟨6, 2, 3, .i32, 8⟩ 4 false) wV with | .next r => { r with arg := .tid 0 (wV.nextSeq) 0 } | _ => wV
def tMx : State := match exec (.mzero .always 0) wV with | .next r => { r with arg := .tid 0 ((r.curCore.mq.head?.map (·.tid)).getD 0) 0 } | _ => wV
/-- Byte operands: l0, l1 and l2, l3 are the two operand pairs. -/
def wX : State := tOf { tCore (tSlot [(2, 0x8000), (3, 0x00000010), (4, 0x8200), (5, 0x01000010)]) with mfmt := 0x099, pool := [(0x8000, 3), (0x8001, 0xFE), (0x8200, 5), (0x8201, 7)] }
def wSvc : State := { tOf (tCore (tSlot [])) with cores := [(0x8001, tCore (tSlot []))], curUnit := 0x8001 }
/-- l0 the destination, l1 the source, l2 the length of a copy inside the own pool. -/
def wK : State := tOf { tCore (tSlot [(2, 0xC000000000008000), (3, 0xC000000000008100), (4, 100)]) with pool := [(0x8100, 9), (0x8140, 8)] }
/-- A copy of 100 bytes on channel 1, running. -/
def xK : XCmd := { tid := 7, kind := .copy, ch := 1, dst := 0xC000000000008000, src := 0xC000000000008100, n := 100, scope := .pkg, seq := 1, xcw := 0xC000000000008700, space := ⟨false, 0⟩, sys := false }
def wG (pos : Nat) : State := { tOf { tCore (tSlot []) with
    pool := [(0x8100, 9), (0x8140, 8), (0x8163, 7), (0x8164, 6)]
    xq := [xK]
    chans := [(1, { running := true, pos := pos, seq := 1, wptr := 0xC000000000008000 })]
    locks := [{ dst := true, owner := 3, tid := 7, lo := 0xC000000000008000, hi := 0xC000000000008063 }, { dst := false, owner := 3, tid := 7, lo := 0xC000000000008100, hi := 0xC000000000008163 }] } with arg := .chan 0 1 }
def wGdone : State := wG 2
/-- A shape record of one axis in the record cache: l0 destination, l1 source, l2 the record. -/
def wShape (hit : Bool) : State := tOf { tCore (tSlot [(2, 0xC000000000008000), (3, 0xC000000000008100), (4, 0x40)]) with
    recs := if hit then [(0, { space := ⟨false, 0⟩, addr := 0x40, data := [0x31, 0, 4, 8, 16] })] else [] }
/-- l0 a place, l1 the range 0 to 10. -/
def wA (pl : Word) : State := tOf { tCore { tSlot [(2, pl), (3, 0x0000000A00000000)] with ffrm := 0x16E00 } with fams := [(0, { st := .running, cores := [(0, 1)], count := 1, limit := 1 })] }
def xA : FallocArgs := ⟨1, 1, 1, 1, 4, 1, false, false⟩
def xB : FallocArgs := { xA with blk := 5 }
/-- l0 the handle of entry 1 of core 0, l1 a word; the entry in a given state. -/
def yH (st : FamState) : FamEntry := { st := st, gen := 1, g := 2, s := 1, l := 3, limit := 4, step := 1, blk := 4, cores := [(0, 4)], count := 1, csgen := 1, status := 0x0500, fins := [(0, 77)] }
def wHd (st : FamState) : State := tOf { tCore (tSlot [(2, 0x21000), (3, 99)]) with fams := [(1, yH st)] }
def yF (st : FamState) : FamEntry := { yH st with heldFgo := some (⟨0, 0, 1⟩, .fgo 64 0 0) }
def wFq (h : Option (Who × HandleOp)) : State := (wHd .queued).modFam 0 1 fun x => { x with heldFgo := h }
/-- l0 a handle of core 3. -/
def wFar : State := tRegs [(2, 0x21003), (3, 99)]
/-- l0 a handle of an old generation. -/
def wOld : State := tOf { tCore (tSlot [(2, 0x41000), (3, 99)]) with fams := [(1, yH .staged)] }
/-- l0 the handle of the frame at 0x16E00 with two globals, at its start (`false`) or ended done (`true`); l1 a word. -/
def wFo (e : Bool) : State := tOf { tCore { tSlot [(2, 0x102DC0000), (3, 99)] with ffrm := 0x16F00, pushed := [0x16E00] } with
    pool := if e then [(0x16EFD, 4), (0x16EFE, 0x80)] else [(0x16EFD, 4)] }
def wFo1 : State := (wFo false).modCurCore fun c => c.setFrameEnd 0x16E00 1
def wSelf : State := tRegs []
/-- A member with one shared, full and pending in turn. -/
def wSh : State := tState { tSlot [(2, 5)] with s := 1, l := 25, full := 0 }
def wBar : State := tOf { tCore (tSlot []) with cq := [(0, { tEntry with bound := true })], fams := [(0, { st := .running, limit := 1, step := 1, cores := [(0, 1)], count := 1 })] }
def wFld : State := tState { tSlot [] with work := .folded }
def wEnd : State := tOf { tCore (tSlot []) with fams := [(0, { st := .running, limit := 1, step := 1, cores := [(0, 1)], count := 1 })] }
/-- A system-mode member: l0 names core 1, l1 a word. -/
def wS (b c : Word) : State := { tSys [(2, b), (3, c), (4, 7), (5, 9)] with cores := [(0, { tCore (tSlot [(2, b), (3, c), (4, 7), (5, 9)]) with sysMode := true }), (1, tCore (tSlot []))] }
def wU : State := tRegs [(2, 1), (3, 0)]
/-- A request of slot 0 of core 0 as it reaches a unit. -/
def mT (u : UnitId) (b c : Word) : SysMsg := { who := ⟨0, 0, 1⟩, tid := 7, unit := u, b := b, c := c, d := 0, v := 0, ans := none }
/-- Its answer back at the issuer, which waits for two. -/
def wAns (left : Nat) : State := { tOf { tCore { tSlot [] with run := .wait .reply, trip := .out .reply, replyDest := 6 } with sysMode := true, sysRuns := [⟨7, left, 40⟩] } with arg := .sys { mT 1 1 5 with ans := some 2 } }
def wAt (u : UnitId) (b c : Word) (x : Core) : State := { State.reset with released := true, agenda := [], cycle := 104, cores := [(0, tCore (tSlot [])), (1, x)], arg := .sys (mT u b c) }
/-- A slice with a notice for the chunk of address 0 of VI 1 and one access held behind it. -/
def hN : HeldChunk := { space := ⟨false, 1⟩, chunk := 0, notice := true, reqs := [] }
def wWake : State := { wAt (sliceUnit 5) 0x40 1 (tCore (tSlot [])) with slices := [(5, { held := [hN] })] }
def wSave (held : Bool) : State := wAt 1 1 0x4000 (tCore { tSlot [(2, 11)] with holds := if held then [.save] else [] })
def wPoolImg : State := { wAt 1 1 0x4000 (tCore { tSlot [(2, 11)] with holds := [.save] }) with slices := (List.range 64).map fun i => (i, ({ tcache := [⟨false, 0, 0, 2, 0x8000, true, false, false, true, 0x4000⟩] } : Slice)) }
def wIdle (c : Word) : State := wAt 1 1 c { ({} : Core) with slots := [(0, {})], pool := [(0x8000, 5)] }
def wRem (c : Word) : State := { wAt 1 1 c { ({} : Core) with retired := true } with cores := [(1, { ({} : Core) with retired := true })] }
def wTr (b c : Word) : State := { wAt (sliceUnit 3) b c {} with
  mem := [(0x4000, 0x1), (0x4001, 0x80)]
  slices := [(3, { tcache := [⟨false, 1, 0, 1, 0x8000, false, false, false, true, 0x4000⟩, ⟨false, 2, 0, 1, 0x8000, false, false, false, true, 0x4000⟩, ⟨true, 0, 1, 0, 0, false, false, false, true, 0⟩], replicas := [⟨false, 1, 64, 0⟩, ⟨false, 1, 640, 0⟩] })] }
def lnP (n : Nat) (d : Bool) : CLine := { svs := false, viid := 1, line := n, data := 5, tags := 0, dirty := d, pa := 0x8000, marked := 0 }
/-- A page of 8 MiB for VI 1, whose leaf lies at 0x10000. -/
def wLg : State := ((((({ wAt (sliceUnit 3) 0x2000 0x10000 {} with slices := [] } : State).setViWord 3 1 1 0xA000).setPhysWord 0xA000 0xC001).setPhysWord 0xC000 0x10001).setPhysWord 0x10000 0x800087)
def wQueue : State := wAt 1 1 5 { tCore (tSlot []) with sysQueue := [⟨.slotsv .always 6 2 3 false 0, .none⟩] }
/-- The line of address 0x4008 of VI 0 in its home, slice 2: its word 1 has the given tag and value. -/
def lH (tag : BitVec 2) (v : Word) : CLine := { svs := false, viid := 0, line := 128, data := BitVec.ofNat 1024 (v.toNat * 2 ^ 64), tags := BitVec.ofNat 32 (tag.toNat * 4), dirty := false, pa := 0x8000, marked := 0 }
def tH : TEntry := ⟨false, 0, 0, 2, 0x8000, true, false, false, true, 0x4000⟩
/-- Slice 2 holds that line; its page is mapped, writable and dirty. -/
def wH (tag : BitVec 2) (v : Word) (arg : Arg) : State := { tOf { tCore (tSlot []) with pool := [(0x8001, 0x85)] } with arg := arg, mem := [(0x4000, 0x10)], slices := [(2, { tcache := [tH], lines := [lH tag v] })] }
def qH (tag : BitVec 2) (v : Word) (arg : Arg) : State := (wH tag v arg).modSlice 2 fun x => { x with perf := bumpPerf x.perf 0 1 }
def aH (k : ReqKind) (at_ : UnitId) (addr : Word) : Access := { who := ⟨0, 0, 1⟩, tid := 7, kind := k, addr := addr, space := ⟨false, 0⟩, sys := false, c := 0x30, d := 0x99, outer := 0, dest := 6, pc := 0, entry := none, at_ := at_, replica := false, walk := 0 }
def pH (k : StoreKind) (at_ : UnitId) (addr : Word) : PostedStore := { who := ⟨0, 0, 1⟩, entry := 3, stamp := 9, kind := k, addr := addr, space := ⟨false, 0⟩, sys := false, d0 := 0x1234567890ABCDEF, d1 := 0, pc := 0, at_ := at_, e3 := false }
def xLd : Access := aH (.ld .h false) 0 0xC000000000008000
def wHl (x : Access) (tag : BitVec 2) (v : Word) : State := wH tag v (.access x)
def xHl : Access := aH (.ld .h false) (sliceUnit 2) 0x400A
def xAm (op : AmoOp) (w : Bool) : Access := aH (.amo op w) (sliceUnit 2) 0x4008
def xAp : Access := aH (.amo .add false) 0 0xC000000000008000
def pSt : PostedStore := pH (.st .h) (sliceUnit 2) 0x400A
def pPl : PostedStore := pH (.st .h) 0 0xC000000000008000
/-- The same store at a slice that is not its home any more. -/
def pOld : PostedStore := pH (.st .h) (sliceUnit 9) 0x400A
/-- A core with posted store 3 in its journal, stamp 9, counted. -/
def jK : JEntry := { st := .posted, addr := 0x4008, stamp := 9, pscl := true, req := some (.store (pH (.st .h) (sliceUnit 2) 0x4008)) }
def wJ7 (arg : Arg) : State := { tOf { tCore (tSlot []) with journal := [(3, jK)], pscl := 1 } with arg := arg }
def mRp (d : BitVec 1024) : ReplicaMsg := { slice := 4, space := ⟨false, 0⟩, line := 128, data := if d = 0 then none else some d, drop := d == 0, stamp := 9, access := xHl, res := .val 7 0 0, eta := 120, read := 3 }
def wRp (cl : Nat) : State := { wJ7 (.replica (mRp 5)) with slices := [(4, { clearedAt := cl, replicas := [⟨false, 0, 128, 1⟩, ⟨false, 0, 129, 1⟩], refusals := [⟨2, ⟨0, 3, 9, 1, false, true, 4⟩⟩], windows := [⟨6, false, 0, 128, [], 0⟩], lines := [lH 0 5] })] }
def oK (parked : Bool) : Outst := { tid := 7, who := ⟨0, 0, 1⟩, pc := 0, kind := .access (aH .ldv (sliceUnit 2) 0x4008), dest := 6, dest2 := none, load := true, noticed := false, accepted := false, refusals := 3, parked := parked, failed := false, h := noHandler, words := [(⟨false, 0⟩, 0x801)] }
def wO (parked : Bool) : State := { tOf { tCore (tSlot []) with out := [oK parked] } with arg := .tid 0 7 2 }
def wWb (d : Bool) : State := { wJ7 (.line 2 ⟨false, 0⟩ 128) with slices := [(2, { lines := [{ lH 0 5 with dirty := d }] })] }
def xLv : Access := aH .ldv (sliceUnit 2) 0x4008
def pC (k : StoreKind) : PostedStore := pH k (sliceUnit 2) 0x4008
def cK (p : Word) : Claim := ⟨⟨0, 0, 1⟩, 7, ⟨false, 0⟩, 0x4008, p, 4, sliceUnit 2, noHandler, 0⟩
def eK (u : UnitId) (step : Nat) : EvalReq := { unit := u, space := ⟨false, 0⟩, cell := 0x4008, claim := 4, home := sliceUnit 2, body := 0x40, prio := 1, args := [1, 2], claimant := ⟨0, 0, 1⟩, defPlace := 0, h := noHandler, step := step }
/-- Core 1 has all its slots taken. -/
def wE (u : UnitId) : State := { tOf (tCore (tSlot [])) with cores := [(0, tCore (tSlot [])), (1, { tCore (tSlot []) with slots := (List.range 64).map fun i => (i, tSlot []) })], arg := .eval (eK u 0) }
def cFull : Core := { tCore (tSlot []) with slots := (List.range 64).map fun i => (i, tSlot []) }
/-- The claimant's core is full; its slot waits for the cell with room for a fold, or none. -/
def wEf (room : Bool) : State := { tOf { cFull with slots := (List.range 64).map fun i => (i, { tSlot [] with run := .wait (.reg 2), ffrm := if room then 0x17000 else 0x17200 }) } with arg := .eval (eK 0 2) }
def nK (e : Option Who) (c : BitVec 16) : EvalNotice := ⟨sliceUnit 2, ⟨false, 0⟩, 0x4008, c, e, sliceUnit 2⟩
def rK : WaitRec := { waitFor xLv 0 4 with ev := false }
def wN (e : Option Who) (c : BitVec 16) : State := { wH 3 0x8000000000000000 (.notice (nK e c)) with slices := [(2, { tcache := [tH], lines := [lH 3 0x8000000000000000], waits := [(0, rK)] })] }
def wDog (evto : Word) : State := { tOf { tCore { tSlot [] with evc := 0x40, evage := 5000 } with evto := evto } with arg := .unit 0 }
def dHome : Nat := State.reset.homeOfSlice 0 ⟨true, 0⟩ 0x4040
/-- A store of the service space to word 8 of VI 0's entry, the count DROP. -/
def pDr (d : Word) : PostedStore := { pH (.st .d) (sliceUnit dHome) 0x4040 with space := ⟨true, 0⟩, d0 := d }
def wDr (d : Word) : State := { wH 0 5 (.store (pDr d)) with slices := [(dHome, { vtb := 0x8000, tcache := [{ tH with svs := true }], lines := [{ lH 0 5 with svs := true }] })] }
def mW : Multicast := { mcFrom (sliceUnit 2) with wakes := [⟨0, [], .val 5 0 0⟩] }
/-- l0 the handle of the member in slot 1 of core 0, held for a fault with record 0; or gone; or not held. -/
def fiR : FaultInfo := { code := 6, dest := 3, tid := some 9 }
def wR (held : Bool) : State := tOf { tCore (tSlot [(2, 0x600020000)]) with slots := [(0, tSlot [(2, 0x600020000)]), (1, { tSlot [] with holds := if held then [.fault 0 fiR] else [] })], recUsed := 1 }
def wRg : State := tRegs [(2, 0x600040000)]
/-- A create-queue entry of four members in blocks of 2 over one core, window 2 + 1 + 3, with member `next` next. -/
def eA (next : Nat) : CqEntry := { tEntry with g := 2, s := 1, l := 3, prio := 2, blk := 2, step := 0xFF, start := 0xFFFFFFFE, n := some 8, count := 2, body := 0x1040, mode := 1, rkey := 99, glob := [(0, 11), (1, 12)], inis := [(0, 13)], next := next, resident := 0, fwd := [(next, 0, 77)] }
def wAs (next : Nat) : State := { tOf { tCore (tSlot []) with cq := [(0, eA next)], slots := [(0, { scnt := 6, anchor := some 0, regs := [(3, 5)], full := 0x8 })] } with arg := .slot 0 0 }
def hqA : HandlerReq := { held := ⟨0, 1, 3⟩, recNo := 2, stamp := 4, h := ⟨none, 1, 5⟩, body := 0x80, prio := 3, defPlace := 0, fold := true }
def wHm : State := { tOf { tCore (tSlot []) with slots := [(0, { scnt := 6 }), (1, tSlot [])], hq := [hqA] } with arg := .slot 0 0 }
def fA : FaultInfo := { code := 32, addr := 0x40 }
def wAf : State := { tState { tSlot [] with asyncs := [(9, fA), (1, fA)] } with arg := .slot 0 0 }
def wFe : State := { tState { tSlot [] with run := .wait .fence, fence := some ⟨2, .pkg, false, some [], none⟩, asyncs := [(1, fA)] } with arg := .slot 0 0 }
def wNr : State := { tState { tSlot [] with holds := [.noRecord fA] } with arg := .slot 0 0 }
def yL : FamEntry := { st := .running, gen := 1, g := 1, s := 2, l := 3, limit := 4, step := 1, blk := 4, cores := [(0, 4)], count := 1, fins := [(1, 5)], finOrd := [(1, 2)] }
def wL (f : FamEntry) (arg : Arg) : State := { tOf { tCore (tSlot []) with fams := [(0, f)] } with arg := arg }
def fwF (o : Nat) : Forward := ⟨0, ⟨0, 0, 1⟩, o, 1, 9, true⟩
/-- Member 0 in slot 0; `o` the ordinal a forwarded shared is for. -/
def wFw (o : Nat) : State := { tState { tSlot [] with g := 1, s := 1, l := 3, full := 2 } with arg := .forward ⟨0, ⟨0, 0, 1⟩, o, 0, 9, false⟩ }
def wFw2 : State := { tOf { tCore (tSlot []) with slots := [] } with arg := .forward ⟨0, ⟨0, 0, 1⟩, 1, 0, 9, false⟩ }
def yO : FamEntry := { yL with contig := 4, s := 0, ended := 4 }
def kL : KillMsg := ⟨0, ⟨0, 0, 1⟩, 0⟩
def rp (e : FamEvent) : FamReport := ⟨⟨0, 0, 1⟩, 0, e⟩
def spL : FamSpec := (wL yL .none).fallocSpec ⟨1, 1, 1, 0, 4, 1, false, false⟩ 0 0x0000000A00000000 0 1
def hL : FamEntry := { yL with st := .staged, csgen := 1 }
def bL : BoundReq := ⟨⟨0, 0, 1⟩, 5, 1, 0, 1⟩
def wBq (st : FamState) (q : List BoundReq) : State := { tOf { tCore (tSlot []) with fams := [(0, { yL with st := st })], bq := q } with arg := .bound bL }
def wRw (bar : Bool) : State := { tState { tSlot [] with run := .wait (if bar then .bar else .reply), trip := .out (if bar then .bar else .reply), replyDest := 6 } with arg := .handle (.answer ⟨0, 0, 1⟩ (.ok 44)) }
def wLn (pc : Word) (line : Option (Word × BitVec 512)) (tg : Bool) : State := { tState { tSlot [] with pc := pc, line := line, target := tg } with arg := .slot 0 0 }
def wLf (b : BitVec 512) : State := { tState { tSlot [] with run := .wait .fetch, fetching := some 7, branchPc := some 0x90 } with arg := .fetch ⟨⟨0, 0, 1⟩, 7, 0x40, .data b⟩ }
def oU : Outst := { tid := 7, who := ⟨0, 0, 1⟩, pc := 0, kind := .unit, dest := 6, dest2 := none, load := false, noticed := false, accepted := false, refusals := 0, parked := false, failed := false, h := noHandler, words := [] }
def wLd : State := { tOf { tCore { tSlot [] with full := 0, pend := 0x40 } with out := [oU] } with arg := .land ⟨0, 7, .val 5 0 3⟩ }
/-- A free slot 1 beside a member, a handler, an evaluator and a bound request that wait, and families with a next member. -/
def eR : EvalReq := { unit := 0, space := ⟨false, 0⟩, cell := 0x4008, claim := 4, home := sliceUnit 2, body := 0x40, prio := 1, args := [], claimant := ⟨0, 0, 1⟩, defPlace := 0, h := noHandler, step := 2 }
def qR (prio : BitVec 2) (seq : Nat) (b : Bool) : CqEntry := { eA 1 with prio := prio, seq := seq, bound := b, blk := 1 }
def wOr (hq : List HandlerReq) (eq : List EvalReq) (bq : List BoundReq) (cq : List (Nat × CqEntry)) : State := { tOf { tCore (tSlot []) with hq := hq, eq := eq, bq := bq, cq := cq } with arg := .slot 0 1 }
def cqR : List (Nat × CqEntry) := [(0, qR 3 1 true), (1, qR 1 2 false), (2, qR 2 5 false), (3, qR 2 4 false)]
def oA (d2 : Option Reg) : Outst := { oU with kind := .access { who := ⟨0, 0, 1⟩, tid := 7, kind := .ldp, addr := 0x40, space := ⟨false, 0⟩, sys := false, c := 0, d := 0, outer := 0, dest := 6, pc := 0, entry := none, at_ := 0, replica := false, walk := 0 }, dest2 := d2 }
def wL2 (o : Outst) : State := { tOf { tCore { tSlot [] with full := 0, pend := 0xC0, run := .wait (.reg 6) } with out := [o] } with arg := .land ⟨0, 7, .val 5 9 0⟩ }
def wT (u : UnitId) (v : Word) (c : Core) : State := { tOf c with arg := .unitWord u v }
def kC : CurveCmd := { who := ⟨0, 0, 1⟩, tid := 7, dest := 6, n1 := 2, start := 0, lo := 0, hi := 0x0000000300000003, off := 0x8000, m := 4, til := 200 }
def wC9 (j : Nat) : State := { tOf { tCore { tSlot [] with run := .wait .reply, replyDest := 6 } with curve := some kC } with arg := .tid 0 7 j }
def wCh (fam : FamRef) : State := { tOf { tCore (tSlot []) with qoOut := 3, qo := [⟨1, false, false⟩], chainFam := some ⟨0, 0, 1⟩, qchain := 0 } with arg := .chain 0 ⟨5, false, false⟩ 1 fam }
def wC2 (j : Nat) (kl : Option Nat) : State := (wC9 j).modCore 0 fun c => { c with curve := some { kC with killed := kl }, curves := [{ kC with tid := 9, off := 0x9000 }] }
def wCe (fam : FamRef) : State := (wCh fam).modCore 0 fun c => { c with cq := [(0, { tEntry with chain := true, fam := ⟨0, 0, 0⟩ })] }
/-- A reduction of 32-bit integer sums over core 0 alone, key 0x40, expecting two contributions. -/
def dR : Word := 0x0000000004001000
def wRd : State := tRegs [(2, 0x40), (3, dR)]
def hRd : Word := 0x8000000000000040
def wAd : State := tRegs [(2, hRd), (3, 9)]
def jR (h : Word) (r : JoinRes) : JoinMsg := { who := ⟨0, 0, 1⟩, tid := 7, key := 0x40, desc := dR, handle := h, dest := 6, space := ⟨false, 0⟩, sys := false, at_ := sliceUnit 2, res := r }
def cR : RedContext := newContext 0 0x40 dR 3
def eR9 : DirEntry := ⟨0, 0x40, hRd, dR, .station 1 2⟩
def wDir (dir : List (Nat × DirEntry)) (quota : Word) (arg : Arg) : State :=
  (({ tState { tSlot [] with run := .wait .reply } with slices := [(2, { dir := dir })], arg := arg } : State).setViWord 2 0 0 quota).modStation 1 fun t => { t with ctx := [(2, cR)] }
def oJ : Outst := { tid := 7, who := ⟨0, 0, 1⟩, pc := 0, kind := .join, dest := 6, dest2 := none, load := false, noticed := false, accepted := false, refusals := 0, parked := false, failed := false, h := noHandler, words := [] }
def wJr : State := { tOf { tCore { tSlot [] with run := .wait .reply, trip := .out .reply, replyDest := 6 } with out := [oJ] } with arg := .join (jR 0 (.ok hRd)) }
def xR (h : Word) (t : Option Nat) : Contribution := { unit := 0, viid := 0, handle := h, v := 9, who := ⟨0, 0, 1⟩, tid := t }
def hS : Word := 0x8100000000000040
def wCt (c : RedContext) (x : Contribution) : State := { tRegs [] with stations := [(1, { ctx := [(2, c)] })], arg := .contrib x }
def dD : Delivery := { viid := 0, key := 0x40, round := 0, v := 18, flags := 0, failed := false }
def aK (r : Option (BitVec 16)) : ContribAck := { unit := 0, tid := 7, viid := 0, key := 0x40, round := r }
def oRd : Outst := { oJ with kind := .rdadd 0 0x40 none }
def wDl (arg : Arg) : State := { tOf { tCore { tSlot [] with full := 0, pend := 0x40 } with out := [oRd] } with arg := arg }
def pP (die : Nat) : PeerState := { die := die, viid := 0, key := 0x40, peer := 1, round := 0, acc := 5, flags := 0 }
def wPe (full : Bool) (arg : Arg) : State := { tRegs [] with engines := [(1, { ctx := [(2, { cR with full := full, peers := 1, expect := 3 })] })], arg := arg }
def wTk (q : List Nat) : State := { tRegs [] with tokens := [(4, q)], mcasts := [⟨8, [4], mcFrom 0⟩, ⟨9, [4], mcFrom 0⟩], arg := .token 4 8 }
def stR (k l : Bool) (n : Nat) (cs : List UnitId) : StopRun := { viid := 0, cycle := 104, gstop := 104, issuer := ⟨0, 0, 1⟩, dies := 1, shuttles := n, cores := cs, kept := k, launched := l }
def wSy (g : Word) (st : List StopRun) : State := { tOf { tCore (tSlot []) with gstop := g, vq := [⟨7, .clr, .i8, 0x8000, 0, 0, 0, false, 1, 0, false, 0, 0, 0⟩] } with dies := [(0, { stops := st })], arg := .unitWord 0 104 }
def pkt : Pending := { due := 110, rank := 3, seq := 5, packet := true, cls := 1, src := 0, dst := 1024, viid := 0, svs := false, ev := ⟨.gcycAdvance, .none⟩ }
def vS : Via := ⟨0, 0, 4⟩
/-- Packet 5 at the `k`th place of its way, with `n` flits kept at station 0. -/
def wSv (stop : Bool) (n k : Nat) : State := { tRegs [] with arg := .way k 5, dies := if stop then [(0, { stops := [stR true true 0 []] })] else [], agenda := [{ pkt with seq := 4 }, pkt], stations := [(0, { save := List.replicate n ⟨{ pkt with viid := 9 }, 0, 0, 0, [1], 1, none⟩ })] }
/-- The same at port 0, with its PASS, what its source hears, and whether no port stops it. -/
def wPt (pass ex : Bool) (bk : Option Ev) : State := { tRegs [] with arg := .way 1 5, ports := [(0, { pass := pass })], agenda := [{ pkt with exempt := ex, back := bk }] }
def wRr (st : Bool) : State := { tRegs [] with arg := .reread 0 0, dies := if st then [(0, { stops := [stR true true 0 []] })] else [], stations := [(0, { reading := [9, 0], save := [⟨pkt, 20, 0, 0, [4], 1, none⟩, ⟨{ pkt with viid := 9 }, 20, 0, 0, [4], 1, none⟩] })] }
/-- Multicast 8, granted and still wanting the tokens `l`. -/
def wGr (l : List Nat) : State := { tRegs [] with mcasts := [⟨8, l, mcFrom 0⟩, ⟨9, [4], mcFrom 0⟩], arg := .granted 8 }
def wSw (st : List StopRun) (n : Nat) : State := { tRegs [] with dies := [(0, { stops := st })], arg := .sweep n 0 0 }
def wLk (deg bun : List (Nat × Nat)) : State := { tRegs [] with degraded := deg, bundles := bun, arg := .link 5 7 false }
def wMe (u : UnitId) : State := { tRegs [] with arg := .memError (.pool u) }
def wMs : State := { tRegs [] with arg := .memError (.slice 2 ⟨false, 0⟩ 0x4008), slices := [(2, { lines := [⟨false, 0, 128, 5, 0, false, 0x8000, 0⟩] })] }
def wPw (h l a c : Bool) (t : BitVec 3) : State := { tRegs [] with dies := [(1, { throttle := t })], arg := .power 1 ⟨h, l, a, c⟩ }
def wTt : State := { tRegs [] with mem := [(3, 1), (2 ^ 38 + 5, 2)], cores := [(0, tCore (tSlot [])), (1024, tCore (tSlot []))], dies := [(0, { power := .running })], parts := [(0, {}), (1, {})], arg := .die 0 }
def wBt (p : Power) (arg : Arg) : State := { State.reset with dies := [(1, { power := p }), (2, { power := .ready })], agenda := [], cycle := 500, arg := arg }
/-- A request entry of VI 1 of partition 0: its type, where it came from, its generation and the words after the first. -/
def rQ (ty : Nat) (via : HostVia) (gen : Nat) (ws : List Nat) : HostReq :=
  { pid := 0, via := via, viid := 1, w := BitVec.ofNat 512 (((ty * 2 ^ 56 + 2 ^ 48 + gen * 2 ^ 32 + 0x99) :: ws).zipIdx.foldl (fun n p => n + p.1 * 2 ^ (64 * p.2)) 0) }
/-- Partition 0 on die 0; VI 1 is defined with generation 5, in state `vst`; a page of it is mapped; it has 4 KiB of host region. -/
def wQ11 (vst : Nat) (arg : Arg) : State :=
  ({ State.reset with
      released := true
      agenda := []
      cycle := 104
      parts := [(0, { dies := [0], hostReg := [(1, 0x100)], hostLen := [(1, 0x1000)], winFirst := [(1, 7)], winCount := [(1, 4)] })]
      mem := [(0x6000, 0x10)]
      hostMem := [(0x110, 3), (0x118, 4), (0x130, 9)]
      slices := (List.range 64).map fun i => (i, ({ tcache := [⟨false, 1, 0, 2, 0x8000, true, false, false, true, 0x6000⟩] } : Slice))
      arg := arg } : State).setVi 0 1 0 (BitVec.ofNat 64 (2 ^ 63 + vst * 2 ^ 61 + 5)) |>.setVi 0 1 4 0x1800000000000000 |>.setVi 0 1 6 0x1800000000000000
def wQh (vst : Nat) (r : HostReq) : State := wQ11 vst (.host r)
/-- COPYIN and COPYOUT of 16 bytes between host offset 0x10 and address 0x4008; the words: completion 0, VA, host offset, count, no map. -/
def rCi : HostReq := rQ 2 .queue 5 [0, 0x4008, 0x10, 16, 2 ^ 64 - 1]
def rCo : HostReq := rQ 3 .queue 5 [0, 0x4008, 0x10, 16, 2 ^ 64 - 1]
def rLn : HostReq := rQ 1 .queue 5 []
def w4D : Nat := 3 * 2 ^ 24 + 3 * 2 ^ 16 + 2 * 2 ^ 8 + 4 + 2 ^ 32
def rDf : HostReq := rQ 4 .operator 0 [0, 1, 0x2000, w4D, 0x8000, 0xA000]
def wDf (r : HostReq) : State := (wQh 0 r).setVi 0 1 0 0
def rWt : HostReq := rQ 4 .operator 5 [0, 2, 0, w4D]
def rRs (op : Nat) : HostReq := rQ 4 .operator 5 [0, op]
def rHr : HostReq := rQ 4 .operator 5 [0, 5, 0x200, 0x2000, 0x123456789A]
def rSt : HostReq := rQ 4 .operator 5 [0, 6, 9, 12]
def rGr : HostReq := rQ 4 .operator 5 [0, 7, 3, 2, 0x20]
def rAt (n : Nat) : HostReq := rQ 5 .queue 5 [0, 0x10, 0x100, n]
def rSg (w : Nat) (va lba n : Nat) : HostReq := rQ 6 .queue 5 [0, va, lba, n, w]
def gS (w0 w1 : Word) : GuestSend := ⟨0, 1, w0, w1⟩
def wGs (v : Nat) (g : GuestSend) : State := wQ11 v (.guest g)
def gQs : GuestSend := gS 0x0000000500000600 0x4000
def gDb (n : Nat) : GuestSend := gS (BitVec.ofNat 64 (0x500000000 + n)) 0
/-- The same with a page table for the queue: root 0xA000, leaf at level 3 mapping everything. -/
def wQs : State := (((wGs 0 gQs).setVi 0 1 1 0xA000).setPhysWord 0xA000 0xC001).setPhysWord 0xC000 0xE001 |>.setPhysWord 0xE000 0x12001 |>.setPhysWord 0x12010 0x8087 |>.setPhysWord 0x12018 0xA087 |>.setPhysWord 0x12020 0xC087
def wTs (w : Nat) : State := { wQ11 0 (.part 0 7) with parts := [(0, { dies := [0], sliceStamp := w })] }
def wTw : State := ((wTs 7).setVi 0 1 0 (BitVec.ofNat 64 (2 ^ 63 + 2 ^ 48 + 5))).setVi 0 1 3 0x100000000
def wLa : State := { wQ11 0 (.vi 0 1) with parts := [(0, { dies := [0], retryAt := [(1, 104)] })] }
/-- A service routine is running for partition 0. -/
def wRn (arg : Arg) : State := { wQ11 0 arg with parts := [(0, { dies := [0], retryAt := [(1, 104)], merge := .routine rLn 1 3 9 false false })] }
def rR (a : Word) : RmaReq := { die := 0, viid := 1, addr := a, wd := .w, data := 0x12345678, ticket := 77, home := none }
def lR (tag : BitVec 2) : CLine := { svs := false, viid := 1, line := 128, data := 0x99 * 2 ^ 64, tags := BitVec.ofNat 32 (tag.toNat * 4), dirty := false, pa := 0x8000, marked := 0 }
def wRm (tag : BitVec 2) (r : RmaReq) (dies : BitVec 4) : State := { wQ11 0 (.rma r) with slices := [(2, { tcache := [⟨false, 1, 0, 2, 0x8000, true, false, false, true, 0x6000⟩], lines := [lR tag] })], engines := [(0, { dies := dies, rmas := [⟨6, 77, true, 2, 0, false⟩, ⟨7, 77, false, 1, 0x5678, false⟩] })] }
def qRm (tag : BitVec 2) (r : RmaReq) : State := (wRm tag r 1).modSlice 2 fun x => { x with perf := bumpPerf x.perf 0 1 }
/-- A piece of it at the home slice, and its answer back at the port. -/
def rRh : RmaReq := { rR 0x4008 with home := some (sliceUnit 2), n := 4 }
def rRb (run : Nat) (ok : Bool) : RmaReq := { rR 0x4008 with home := some (sliceUnit 2), n := 2, off := 2, run := run, ans := some ok }
def wUe (u : Bool) : State := { tRegs [] with arg := .ue ⟨0, u, 77⟩ }
def eR11 : TEntry := ⟨false, 1, 0, 2, 0x8000, true, false, false, true, 0x6000⟩
/-- The pieces of an RMA at `a`: 4 bytes, or 2 and 2 at a word's end. -/
def pR (s : State) (a : Word) (off n : Nat) : RmaReq :=
  { rR a with addr := a + BitVec.ofNat 64 off, data := (rR a).data >>> (8 * off), n := n, off := off, home := some (sliceUnit (s.homeOfSlice 0 ⟨false, 1⟩ (a + BitVec.ofNat 64 off))) }
def rMg : HostReq := rQ 7 .operator 5 [0, 2]
def wMg (m m1 : MergeState) (arg : Arg) : State := { wQ11 0 arg with parts := [(0, { dies := [0], merge := m }), (1, { dies := [1], merge := m1 })] }
def mMg (d : Word) : Arg := .merge ⟨0, d⟩
/-- Its stop has not been heard of as complete. -/
def wSt (m : MergeState) (arg : Arg) : State := (wMg m .idle arg).modPart 0 fun p => { p with stopC := some 5, running := some 1 }
def qMg (s : State) (b : Bool) : State := ({ s with nextSeq := s.nextSeq + 1 } : State).modPart 0 fun p => { p with merge := .asked rMg 1 s.nextSeq b }
/-- The end of a routine's root, whose word at pool offset 0x40 says `st`. -/
def gRo : GuestSend := ⟨0, 1, 0xC000000000000040, 0⟩
def wRo (j : Bool) (st : Word) (r : HostReq) : State := { wMg (.routine r 0 3 9 false false) .idle (.guest gRo) with cores := [(0x8000, { (({} : Core).setPoolWord 0x40 st) with journal := if j then [(5, {})] else [] })] }
/-- Partition 0 of two dies, that a split of die 1 divides. -/
def wSp (m : MergeState) (d : BitVec 4) (stop : Option Nat) : State := { wQ11 0 (.split 0 d) with parts := [(0, { dies := [0, 1], merge := m, stopC := stop })] }
/-- A core with register and pool contents, and a state with a listed line of memory and its tags. -/
def kP : Core := { tCore (tSlot [(1, 5), (27, 9)]) with pool := [(0x8000, 1), (0x8004, 0x7F), (0x8008, 3)] }
def lW : CLine := { svs := false, viid := 1, line := 256, data := 0x1234 * 2 ^ 1016, tags := 0xC0000001, dirty := true, pa := 0x8000, marked := 0 }
def wM12 : State := { tRegs [] with mem := [(0x7FFF, 1), (0x8000, 2), (0x8080, 3)], tags := [(0x7FF8, 1), (0x8000, 2), (0x8080, 3)] }
/-- Two instructions of a line with a tail each, an ADD and an ADDI; and a line of 32 heads. -/
def lnTwo : BitVec 512 := BitVec.ofNat 512 (0x2090 + 0x230C * 2 ^ 16 + 0x10C0 * 2 ^ (16 * 31) + 0x1000FFF8 * 2 ^ (16 * 29))
def lnNops : BitVec 512 := BitVec.ofNat 512 ((List.replicate 32 0x0E00).foldl (fun n h => n * 2 ^ 16 + h) 0)
def lnBad : BitVec 512 := BitVec.ofNat 512 ((List.replicate 16 0x2090).foldl (fun n h => n * 2 ^ 16 + h) 0 + 0x2090 * 2 ^ 256)
def wLine (l : BitVec 512) (pc : Word) : State := tState { tSlot [(2, 7), (3, 5)] with pc := pc, line := some (pc &&& ~~~63, l), aging := 9 }
/-- A member whose family has a handler, with records 0 and 2 of the core in use. -/
def wEx (used : BitVec 16) (h : Option Word) : State :=
  tOf { tCore { tSlot [(2, 0x55)] with pc := 0x10040, aging := 3 } with recUsed := used, cq := [(0, { tEntry with handler := h })] }
def fX : FaultInfo := { code := 17, ucode := 0x42, val := 0x55 }
def fH : FaultInfo := { code := 6, dest := 4 }
def wRt : State := tOf { tCore { tSlot [(2, 7)] with pc := 0x10042, line := some (0x10040, lnTwo), holds := [.fault 3 fH], aging := 5, run := .ready } with recUsed := 0x18 }
def wSvc12 : State := { tRegs [] with curUnit := 0x8001, cores := [(0x8001, tCore (tSlot []))] }
def wSt12 (l : BitVec 512) : State := wLine l 0x10042
def wSt8 (n : Nat) : State := (wSt12 lnTwo).modCore 0 fun c => { c with slots := [(0, c.slot 0), (8, { c.slot 0 with aging := BitVec.ofNat 12 n })] }
def lnIll : BitVec 512 := BitVec.ofNat 512 (0x0E00 + 0x0E04 * 2 ^ 16)
/-- Three operands of ADD that do not go on: register 5 Empty, register 6 Pending, and a destination in a window of one local. -/
def wRo12 : State := tState { tSlot [(2, 7), (3, 5)] with full := 0x0FFFFF9E, pend := 0x40 }
def wRs : State := tState { tSlot [(2, 7), (3, 5)] with l := 3 }
/-- Globals 1 to 2, shared 3, dependent 4, locals from 5. -/
def wRf : State := tState { tSlot [(1, 7)] with g := 2, s := 1, l := 5, full := 6, pend := 0x40, lnPend := true }
theorem nextOf {o : Out} (h : (match o with | .next _ => true | _ => false) = true) : ∃ t, o = .next t := by cases o <;> simp_all
def lnMat : BitVec 512 := BitVec.ofNat 512 (0x0E00 + 0xF000 * 2 ^ 16)
/-- The member with an answer come, or on its way; a kept fault; a PC past its line's heads; a line it does not hold; a service core. -/
def wTr12 (x : Slot → Slot) : State := (wSt12 lnTwo).modSlot 0 0 x
def wTd : State := wTr12 fun x => { x with trip := .done 44 (some true), replyDest := 4 }
def wTo : State := wTr12 fun x => { x with trip := .out .reply, replyDest := 4 }
def wTk12 : State := wTr12 fun x => { x with asyncs := [(1, fX)] }
def wTj : State := wTr12 fun x => { x with pc := 0x10044 }
def wTf : State := wTr12 fun x => { x with pc := 0x10080 }
def wTm : State := { wSt12 lnMat with cores := [(0x8001, ((wSt12 lnMat).core 0))] }

theorem wit_IntegerResults : State.Ready w1 .always [2, 3] [4] false [5, 0xFFFFFFFFFFFFFFFE] w1 ∧
    (iop2Value (.add .always false 4 2 3)).isSome = true :=
  ⟨ready1 rfl rfl rfl rfl, by rfl⟩

theorem wit_IntegerResults_z : State.Ready w1 .always [2, 3] [0] false [5, 0xFFFFFFFFFFFFFFFE] w1 :=
  ready1 rfl rfl rfl rfl

theorem wit_UnaryResults : State.Ready w1 .always [2] [4] false [5] w1 ∧
    (iop1Value (.addi .always false 4 2 0x8000)).isSome = true :=
  ⟨ready1 rfl rfl rfl rfl, by rfl⟩

theorem wit_PackedLaneResults : State.Ready w2 .always [2, 3] [4] false [0x8000000000000000, 0xFFFFFFFFFFFFFFFF] w2 ∧
    (packedValue (.padds .always .b 4 2 3)).isSome = true :=
  ⟨ready1 rfl rfl rfl rfl, by rfl⟩

theorem wit_LeaAddress : State.Ready w1 .always [2, 3] [4] false [5, 0xFFFFFFFFFFFFFFFE] w1 :=
  ready1 rfl rfl rfl rfl

theorem wit_PredicateLogic : w1.cur.guard .always = true :=
  by decide +kernel

theorem wit_Constants : State.Ready w1 .always [] [4] false [] w1 :=
  ready1 rfl rfl rfl rfl

theorem wit_PredicateWord : State.Ready w1 .always [2] [] false [5] w1 :=
  ready0 rfl rfl rfl

theorem wit_Select : State.Ready w1 .always [2, 3] [4] false [5, 0xFFFFFFFFFFFFFFFE] w1 :=
  ready1 rfl rfl rfl rfl

theorem wit_Insert : State.Ready w1 .always [2, 3] [4] false [5, 0xFFFFFFFFFFFFFFFE] w1 ∧
    (63 : BitVec 6).toNat + (0 : BitVec 6).toNat ≤ 63 :=
  ⟨ready1 rfl rfl rfl rfl, by decide +kernel⟩

theorem wit_Divisions : State.Ready w1 .always [2, 3] [4] true [5, 0xFFFFFFFFFFFFFFFE] w1 ∧
    w1.curCore.divFree ≤ w1.cycle :=
  ⟨ready1 rfl rfl rfl rfl, by decide +kernel⟩

theorem wit_Comparisons : State.Ready w1 .always [2, 3] [] false [5, 0xFFFFFFFFFFFFFFFE] w1 ∧
    State.Ready w1 .always [2] [] false [5] w1 :=
  ⟨ready0 rfl rfl rfl, ready0 rfl rfl rfl⟩

theorem wit_Branches : wPc.cur.guard .always = true ∧
    wPc.cur.lnPend = false ∧
    State.Ready wPc .always [2] [] false [0x1000] wPc ∧
    State.Ready wPc .always [2] [31] false [0x1000] wPc :=
  ⟨by decide +kernel, by decide +kernel, ready0 rfl rfl rfl, ready1 rfl rfl rfl rfl⟩

theorem wit_JumpTable_outside : State.Ready wTab .always [2, 3] [] false [2, 0xC000000000008000] wTab ∧
    (2 : BitVec 16).toNat ≤ (2 : Word).toNat :=
  ⟨ready0 rfl rfl rfl, by decide +kernel⟩

theorem wit_JumpTable_entry : State.Ready wTab .always [2, 3] [] false [2, 0xC000000000008000] wTab ∧
    (2 : Word).toNat < (3 : BitVec 16).toNat ∧
    targetOf wTab.curUnit ((0xC000000000008000 : Word) + 4 * 2) = some (.own 0x8008) ∧
    ((0xC000000000008000 : Word) + 4 * 2).toNat % 4 = 0 ∧
    wTab.curCore.inScratch (poolSize wTab.curUnit) 0x8008 4 = true ∧
    (0x8008 : Nat) < poolSize wTab.curUnit - 4096 ∧
    wTab.curCore.poolRead 0x8008 4 = 0x40 ∧
    wTab.cur.pc.toNat < (targetAddr wTab.cur.pc (BitVec.ofNat 27 0x40)).toNat :=
  ⟨ready0 rfl rfl rfl, by decide +kernel, by decide +kernel, by decide +kernel, by decide +kernel, by decide +kernel, by decide +kernel, by decide +kernel⟩

theorem wit_JumpTable_far : State.Ready wTaf .always [2, 3] [] false [2, 0x8000] wTaf ∧
    ((2 : Word).toNat < (3 : BitVec 16).toNat ∧ ((0x8000 : Word) + 4 * 2).toNat % 4 = 0 ∧ targetOf wTaf.curUnit ((0x8000 : Word) + 4 * 2) = some (.global 0x8008)) :=
  ⟨ready0 rfl rfl rfl, by decide +kernel⟩

theorem wit_JumpTableAnswer : (((wTan 7).core 0).outOf 7 = some oTab ∧ oTab.kind = .access aTab ∧ ((wTan 7).slot 0 0).seat 1 = .occupant ∧ ((qTan 7).slot 0 0).jtab = some 7 ∧ ((qTan 6).slot 0 0).jtab ≠ some 7 ∧ (0x08000000 : Word).toNat % 2 ^ 32 ≥ 2 ^ 27 ∧ (targetAddr 0x10040 0x7FFFFFF).toNat ≤ 0x10040 ∧ 0x10040 < (targetAddr 0x10040 0x40).toNat) :=
  by decide +kernel

theorem wit_Nop : tNop.due = none ∧
    tNop.pick = some (0, 0) ∧
    (tNop.slot 0 0).turn = .issue (.nop .ifP0) :=
  ⟨by decide +kernel, by decide +kernel, by decide +kernel⟩

theorem wit_ExactFloatResults : (f64t.num vOne = .fin false (2 ^ 52) (-52) ∧ f64t.num 0 = .fin false 0 (-1074) ∧ f64t.num (vOne + 2 ^ 63) = .fin true (2 ^ 52) (-52) ∧ f64t.num vInf = .inf false ∧ f64t.num (vInf + 2 ^ 63) = .inf true ∧ (f64t.num vNan).isNaN = true ∧ mulNum (f64t.num vOne) (f64t.num vOne) = some (.fin false (2 ^ 104) (-104)) ∧ mulNum (f64t.num vInf) (f64t.num 0) = none ∧ mulNum (f64t.num vInf) (f64t.num vOne) = some (.inf false)) :=
  by decide +kernel

theorem wit_FloatResults : State.Ready wF .always [2, 3] [5] false [0x3FF8000000000000, 0x4000000000000000] wF ∧
    State.Ready wF .always [2] [5] false [0x3FF8000000000000] wF ∧
    State.Ready wF .always [2, 3, 4] [4] false [0x3FF8000000000000, 0x4000000000000000, 0x3FF0000000000000] wF ∧
    State.Ready wF .always [2, 3] [] false [0x3FF8000000000000, 0x4000000000000000] wF ∧
    ((fop2Value (.fdiv .always false 5 2 3)).isSome = true ∧ (fop1Value (.fsqrt .always false 5 2)).isSome = true) :=
  ⟨ready1 rfl rfl rfl rfl, ready1 rfl rfl rfl rfl, ready1 rfl rfl rfl rfl, ready0 rfl rfl rfl, by decide +kernel⟩

theorem wit_LongLatency : State.Ready wF .always [2, 3] [5] true [0x3FF8000000000000, 0x4000000000000000] wF ∧
    wF.curCore.fpFree ≤ wF.cycle ∧
    State.Ready wF .always [2] [5] true [0x3FF8000000000000] wF ∧
    State.Ready wF .always [2, 3] [5, 5] true [0x3FF8000000000000, 0x4000000000000000] wF ∧
    State.Ready wF .always [2, 3] [5, 6] true [0x3FF8000000000000, 0x4000000000000000] wF :=
  ⟨ready1 rfl rfl rfl rfl, by decide +kernel, ready1 rfl rfl rfl rfl, ready2 rfl rfl rfl rfl rfl, ready2 rfl rfl rfl rfl rfl⟩

theorem wit_ExactImages : fpBits .f16 = some (5, 10) ∧
    (0x7C00 : Nat) < 2 ^ 16 ∧
    ((∀ sig, unpackFp 5 10 0x7C00 ≠ .nan sig) ∧ ∀ sig, unpackFp 5 10 0x0001 ≠ .nan sig) :=
  ⟨by decide +kernel, by decide +kernel, by decide +kernel⟩

theorem wit_CurveAxes : State.Ready w1 .always [2] [4] false [5] w1 ∧
    State.Ready w1 .always [2, 3] [4] false [5, 0xFFFFFFFFFFFFFFFE] w1 :=
  ⟨ready1 rfl rfl rfl rfl, ready1 rfl rfl rfl rfl⟩

theorem wit_CurveSums : State.Ready w1 .always [2, 3] [4] false [5, 0xFFFFFFFFFFFFFFFE] w1 :=
  ready1 rfl rfl rfl rfl

theorem wit_CurveBox : State.Ready wC .always [2, 3, 4] [] false [27, 12, 48] wC :=
  ready0 rfl rfl rfl

theorem wit_CurveNext : State.Ready wC .always [2, 3, 4] [5] false [27, 12, 48] wC :=
  ready1 rfl rfl rfl rfl

theorem wit_CurveRuns : ((0 : Nat) < 2 ^ (2 * (64 / 2)) ∧ (12 : Nat) < 2 ^ (2 * (64 / 2)) ∧ (48 : Nat) < 2 ^ (2 * (64 / 2))) :=
  by decide +kernel

theorem wit_CsplitStarts : State.Ready wC .always [2, 3, 4] [5] false [27, 12, 48] wC ∧
    (0x1E000 : BitVec 17).toNat % 16 = 0 ∧
    wC.curCore.inScratch (poolSize wC.curUnit) 0x1E000 (16 * ((4 : BitVec 8).toNat + 1)) = true ∧
    wC.curCore.rangeLocked (ownAddr 0x1E000) (16 * ((4 : BitVec 8).toNat + 1)) true = false ∧
    (wC.curCore.curve = none ∧ wC.curCore.curves = [] ∧ wC.cur.work ≠ .none ∧ wC.cur.ending = none) :=
  ⟨ready1 rfl rfl rfl rfl, by decide +kernel, by decide +kernel, by decide +kernel, by decide +kernel⟩

theorem wit_OwnPoolLoads : State.Ready wM .always [2] [7] false [0xC000000000008000] wM ∧
    State.Ready wM .always [2, 6] [7] false [0xC000000000008000, 9] wM ∧
    (wM.OwnOk (addrImm 0xC000000000008000 7) 0x8007 1 false ∧ wM.OwnOk (addrImm 0xC000000000008000 8) 0x8008 8 false ∧ wM.OwnOk (addrIndex 0xC000000000008000 9 3) 0x8048 8 false ∧ wM.OwnOk (addrImm 0xC000000000008000 0) 0x8000 16 false) ∧
    (wM.cur.badDst (7 + 1) = false ∧ wM.waitDst (7 + 1) = .ok ()) :=
  ⟨ready1 rfl rfl rfl rfl, ready1 rfl rfl rfl rfl, by unfold State.OwnOk; decide +kernel, ⟨by decide +kernel, by rfl⟩⟩

theorem wit_OwnPoolRecords : wM.OwnOk (addrImm 0xC00000000001F000 0x3F8) 0x1F3F8 8 false :=
  by unfold State.OwnOk; decide +kernel

theorem wit_OwnPoolStores : State.Ready wM .always [2, 5] [] false [0xC000000000008000, 0xFFFFFFFFFFFFFF85] wM ∧
    State.Ready wM .always [2, 6, 5] [] false [0xC000000000008000, 9, 0xFFFFFFFFFFFFFF85] wM ∧
    (wM.OwnOk (addrImm 0xC000000000008000 2) 0x8002 2 true ∧ wM.OwnOk (addrIndex 0xC000000000008000 9 0) 0x8009 1 true ∧ wM.OwnOk (addrImm 0xC000000000008000 16) 0x8010 16 true) ∧
    (wM.cur.val 5 = 0xFFFFFFFFFFFFFF85 ∧ wM.cur.badSrc (5 + 1) = false ∧ wM.cur.isFull 6 = true ∧ wM.cur.isFull 5 = true) :=
  ⟨ready0 rfl rfl rfl, ready0 rfl rfl rfl, by unfold State.OwnOk; decide +kernel, by decide +kernel⟩

theorem wit_OwnPoolAtomics : State.Ready wM .always [2, 6] [7] false [0xC000000000008000, 9] wM ∧
    State.Ready wM .always [2, 6, 5] [7] false [0xC000000000008000, 9, 0xFFFFFFFFFFFFFF85] wM ∧
    (wM.OwnOk 0xC000000000008000 0x8000 (bits false / 8) true ∧ wM.OwnOk 0xC000000000008000 0x8000 (bits true / 8) true) ∧
    (amoForm (.amoAdd .always true 7 2 6)).isSome = true :=
  ⟨ready1 rfl rfl rfl rfl, ready1 rfl rfl rfl rfl, by unfold State.OwnOk; decide +kernel, by rfl⟩

theorem wit_FarLoads : State.Ready wM .always [3] [7] false [0x10000] wM ∧
    State.Ready wM .always [3, 6] [7] false [0x10000, 9] wM ∧
    wM.FarOk (addrImm 0x10000 0xFFF8) 8 false ∧
    wM.FarOk (addrIndex 0x10000 9 3) 8 false ∧
    wM.FarOk (addrImm 0x10000 0) 16 false ∧
    wM.FarOk (addrImm 0x8000000000108000 0) 8 false ∧
    (wM.cur.badDst (7 + 1) = false ∧ wM.waitDst (7 + 1) = .ok ()) :=
  ⟨ready1 rfl rfl rfl rfl, ready1 rfl rfl rfl rfl, ⟨by decide +kernel, by decide +kernel, .inl ⟨_, rfl⟩⟩, ⟨by decide +kernel, by decide +kernel, .inl ⟨_, rfl⟩⟩, ⟨by decide +kernel, by decide +kernel, .inl ⟨_, rfl⟩⟩, ⟨by decide +kernel, by decide +kernel, .inr ⟨_, _, rfl, by decide +kernel⟩⟩, ⟨by decide +kernel, by rfl⟩⟩

theorem wit_FarAtomics : State.Ready wM .always [3, 6] [7] false [0x10000, 9] wM ∧
    State.Ready wM .always [3, 6, 5] [7] false [0x10000, 9, 0xFFFFFFFFFFFFFF85] wM ∧
    wM.FarOk 0x10000 (bits false / 8) true ∧
    wM.FarOk 0x8000000000108000 (bits true / 8) true :=
  ⟨ready1 rfl rfl rfl rfl, ready1 rfl rfl rfl rfl, ⟨by decide +kernel, by decide +kernel, .inl ⟨_, rfl⟩⟩, ⟨by decide +kernel, by decide +kernel, .inr ⟨_, _, rfl, by decide +kernel⟩⟩⟩

theorem wit_FarStores : State.Ready wM .always [3, 5] [] false [0x10000, 0xFFFFFFFFFFFFFF85] wM ∧
    State.Ready wM .always [3, 6, 5] [] false [0x10000, 9, 0xFFFFFFFFFFFFFF85] wM ∧
    wM.FarOk (addrImm 0x10000 1) 1 true ∧
    wM.FarOk (addrIndex 0x10000 9 2) 4 true ∧
    wM.FarOk (addrImm 0x10000 16) 16 true ∧
    wM.curCore.freeEntry = some 0 :=
  ⟨ready0 rfl rfl rfl, ready0 rfl rfl rfl, ⟨by decide +kernel, by decide +kernel, .inl ⟨_, rfl⟩⟩, ⟨by decide +kernel, by decide +kernel, .inl ⟨_, rfl⟩⟩, ⟨by decide +kernel, by decide +kernel, .inl ⟨_, rfl⟩⟩, by decide +kernel⟩

theorem wit_FarAtomicsToZ : State.Ready wM .always [3, 6] [0] false [0x10000, 9] wM ∧
    State.Ready wM .always [3, 6, 5] [0] false [0x10000, 9, 0xFFFFFFFFFFFFFF85] wM ∧
    wM.FarOk 0x10000 (bits false / 8) true :=
  ⟨ready1 rfl rfl rfl rfl, ready1 rfl rfl rfl rfl, ⟨by decide +kernel, by decide +kernel, .inl ⟨_, rfl⟩⟩⟩

theorem wit_CellLoads : State.Ready wM .always [3] [7] false [0x10000] wM ∧
    wM.FarOk (addrImm 0x10000 8) 8 false ∧
    targetOf wM.curUnit (addrImm 0x10000 8) = some (.global 0x10008) ∧
    State.Ready wM .always [4] [7] false [0x8000000000108000] wM ∧
    wM.FarOk (addrImm 0x8000000000108000 0) 8 false ∧
    targetOf wM.curUnit (addrImm 0x8000000000108000 0) = some (.pool 1 0x8000) ∧
    State.Ready wM .always [2] [7] false [0xC000000000008000] wM ∧
    wM.OwnOk (addrImm 0xC000000000008000 0) 0x8000 8 false :=
  ⟨ready1 rfl rfl rfl rfl, ⟨by decide +kernel, by decide +kernel, .inl ⟨_, rfl⟩⟩, by decide +kernel, ready1 rfl rfl rfl rfl, ⟨by decide +kernel, by decide +kernel, .inr ⟨_, _, rfl, by decide +kernel⟩⟩, by decide +kernel, ready1 rfl rfl rfl rfl, by unfold State.OwnOk; decide +kernel⟩

theorem wit_CellStores : State.Ready wM .always [3, 6] [] false [0x10000, 9] wM ∧
    State.Ready wM .always [3] [] false [0x10000] wM ∧
    wM.FarOk (addrImm 0x10000 8) 8 true ∧
    (targetOf wM.curUnit (addrImm 0x10000 8) = some (.global 0x10008) ∧ wM.curCore.freeEntry = some 0) :=
  ⟨ready0 rfl rfl rfl, ready0 rfl rfl rfl, ⟨by decide +kernel, by decide +kernel, .inl ⟨_, rfl⟩⟩, by decide +kernel⟩

theorem wit_IssuedLoadHeld : ((∃ o, o ∈ (wBusy.issueLoad (.ld .d false) 0x10000 0 0 8 none).curCore.out ∧ wBusy.curCore.loadBlocked wBusy.nextSeq o.words = true)) :=
  ⟨_, .tail _ (.head _), by decide +kernel⟩

theorem wit_PostedStoreHeld : ((∃ p, (∃ j, afind (wBusy.postStore 1 (.st .d) 0x10000 6 0).curCore.journal 1 = some j ∧ j.req = some (.store p)) ∧ wBusy.curCore.storeBlocked p.stamp (wordsOf p.space 0x10000 8) = true)) :=
  ⟨_, ⟨_, rfl, rfl⟩, by decide +kernel⟩

theorem wit_FenceWaitsForLoads : (wBusy.cur.guard .always = true ∧ wBusy.cur.holds = [] ∧ wBusy.curCore.loadsOut wBusy.curSlot = true) :=
  by decide +kernel

theorem wit_FenceWaitsForStores : (wPosted.cur.guard .always = true ∧ wPosted.cur.holds = [] ∧ wPosted.curCore.loadsOut wPosted.curSlot = false) ∧
    (∃ e j, afind wPosted.curCore.journal e = some j ∧ j.counted = true ∧ (j.pscl = true ∨ Scope.pkg ≠ .die)) :=
  ⟨by decide +kernel, ⟨0, _, rfl, by decide +kernel, .inr (by decide)⟩⟩

theorem wit_FenceEnds : (wM.curCore.loadsOut wM.curSlot = false ∧ (wM.curCore.journal.any fun p => p.2.counted && (p.2.pscl || Scope.die != .die)) = false) :=
  by decide +kernel

theorem wit_Rfence : (wM.cur.guard .always = true ∧ wM.cur.holds = [] ∧ (wM.curCore.journal.any fun p => p.2.counted) = false) ∧
    ((⟨2, .pkg, true, none, none⟩ : FenceRun).kind ≠ 3 ∧ (⟨2, .pkg, true, none, none⟩ : FenceRun).rfence = true) :=
  ⟨by decide +kernel, by decide +kernel⟩

theorem wit_ControlReads : State.Ready wM .always [] [7] false [] wM ∧
    (((0x33 : BitVec 16).toNat, 0) ∈ wM.controlRegisters ∧ ((0x00 : BitVec 16).toNat, 0) ∈ wM.controlRegisters) :=
  ⟨ready1 rfl rfl rfl rfl, by decide +kernel⟩

theorem wit_ControlWrites : State.Ready wW .always [2] [] false [0x17100] wW ∧
    ((0x17100 : Word).toNat % 256 = 0 ∧ (0x17100 : Word).toNat ≤ wW.cur.fflim.toNat ∧ (0x17100 : Word).toNat ≤ poolSize wW.curUnit - 4096 ∧ (0x17100 : Word).toNat % 4 = 0 ∧ wW.sysOf wW.curUnit = true ∧ wM.sysOf wM.curUnit = false) :=
  ⟨ready0 rfl rfl rfl, by decide +kernel⟩

theorem wit_ChainQueues : (wQ.cur.guard .always = true ∧ wQ.holdsChain wQ.curUnit wQ.curSlot = true ∧ wQ.curCore.qchain.getLsbD 31 = true ∧ wQ.curCore.qo.length < 8) ∧
    (let t := wQ.modCurCore fun c => { c with qchain := 0 }
    t.holdsChain t.curUnit t.curSlot = true ∧ t.curCore.qchain.getLsbD 31 = false) :=
  ⟨by decide +kernel, by decide +kernel⟩

theorem wit_EventWait : State.Ready wEv .always [] [7] false [] wEv ∧
    (wEv.curCore.timerEv = some 0xF000000000000077 ∧ (1 : BitVec 3).getLsbD 0 = true) ∧
    ((6 : BitVec 3).getLsbD 0 = false ∧ wEv.curCore.posts = [0] ∧ (6 : BitVec 3).getLsbD 2 = true) ∧
    ((2 : BitVec 3).getLsbD 0 = false ∧ (2 : BitVec 3).getLsbD 2 = false ∧ wEv.curCore.qi ≠ [] ∧ (2 : BitVec 3).getLsbD 1 = true) ∧
    State.Ready wM .always [] [7] false [] wM ∧
    (wM.curCore.timerEv = none ∧ wM.curCore.posts = [] ∧ wM.curCore.qi = []) :=
  ⟨ready1 rfl rfl rfl rfl, by decide +kernel, by decide +kernel, by decide +kernel, ready1 rfl rfl rfl rfl, by decide +kernel⟩

theorem wit_Journal : State.Ready wJ .always [2] [7] false [0x40] wJ ∧
    (match afind wJ.curCore.journal ((0x40 : Word).toNat % 64) with | some j => decide (j.st = .refused) | none => false) = true ∧
    State.Ready wJ .always [3] [7] false [1] wJ ∧
    afind wJ.curCore.journal ((1 : Word).toNat % 64) = none :=
  ⟨ready1 rfl rfl rfl rfl, by decide +kernel, ready1 rfl rfl rfl rfl, by decide +kernel⟩

theorem wit_VectorCommands : State.Ready wV .always [2, 3, 4] [6] true [0x8000, 0x8040, 0x8080] wV ∧
    (vecForm (.vadd .always ⟨6, 2, 3, .i32, 8⟩ 4 false)).isSome = true ∧
    (wV.vecCommand .add ⟨6, 2, 3, .i32, 8⟩ 0x8000 0x8040 0x8080 false).Fits wV.curCore wV.curUnit ∧
    (wV.curCore.vq.length < 8 ∧ wV.curCore.locks.length + ((wV.vecCommand .add ⟨6, 2, 3, .i32, 8⟩ 0x8000 0x8040 0x8080 false).ranges wV.curUnit).length ≤ 16) :=
  ⟨ready1 rfl rfl rfl rfl, by rfl, ⟨by decide +kernel, by decide +kernel, by decide +kernel, by decide +kernel, by decide +kernel⟩, by decide +kernel⟩

theorem wit_VectorCompletes : (∃ x, (tV.core 0).vq = [x] ∧ x.tid = wV.nextSeq ∧ tV.arg = .tid 0 wV.nextSeq 0) ∧
    (tV.core 0).Alone 0 :=
  ⟨⟨_, by rfl, by rfl, by rfl⟩, ⟨by decide +kernel, by decide +kernel⟩⟩

theorem wit_MatrixCompletes : (∃ x, (tMx.core 0).mq = [x] ∧ tMx.arg = .tid 0 x.tid 0) ∧
    (tMx.core 0).Alone 1 :=
  ⟨⟨_, by rfl, by rfl⟩, ⟨by decide +kernel, by decide +kernel⟩⟩

theorem wit_VectorImages : (awf 0 wV.curCore.pool = true ∧ wV.curCore.rfEnd ≤ 0x8040) :=
  by decide +kernel

theorem wit_IntegerElements : (fpBits .i8 = none ∧ Fmt.i8 ≠ .lg6 ∧ Fmt.i8 ≠ .q4) :=
  by decide +kernel

theorem wit_MatrixZero : wX.cur.guard .always = true ∧
    wX.curCore.AccOk 14 ∧
    wX.MatrixRoom 0 :=
  ⟨by decide +kernel, by unfold Core.AccOk; decide +kernel, by unfold State.MatrixRoom; decide +kernel⟩

theorem wit_MatrixMultiply : State.Ready wX .always [2, 2 + 1, 4, 4 + 1] [6] true [0x8000, 0x10, 0x8200, 0x01000010] wX ∧
    (pairReg 2 = true ∧ pairReg 4 = true ∧ isService wX.curUnit = false ∧ matRow wX.curCore.mfmt = some 16 ∧ mfmtA wX.curCore.mfmt = some .i8 ∧ mfmtB wX.curCore.mfmt = some .i8) ∧
    wX.curCore.AccOk 2 ∧
    wX.curCore.PairOk wX.curUnit 0x8000 0x10 ((1 : BitVec 8).toNat + 1) (pairTile 0x10) (rowBytes .i8 16) ∧
    wX.curCore.PairOk wX.curUnit 0x8200 0x01000010 ((1 : BitVec 8).toNat + 1) (pairTile 0x01000010) (rowBytes .i8 16) ∧
    wX.MatrixRoom 2 :=
  ⟨ready1 rfl rfl rfl rfl, by decide +kernel, by unfold Core.AccOk; decide +kernel, by unfold Core.PairOk; decide +kernel, by unfold Core.PairOk; decide +kernel, by unfold State.MatrixRoom; decide +kernel⟩

theorem wit_MatrixMoves : State.Ready wX .always [] [6] true [] wX ∧
    State.Ready wX .always [2] [6] true [0x8000] wX ∧
    wX.curCore.AccOk 0 ∧
    (wX.curCore.inScratch (poolSize wX.curUnit) (0x8000 : Word).toNat 16 = true ∧ (0x8000 : Word).toNat < 2 ^ 17) ∧
    wX.MatrixRoom 1 :=
  ⟨ready1 rfl rfl rfl rfl, ready1 rfl rfl rfl rfl, by unfold Core.AccOk; decide +kernel, by decide +kernel, by unfold State.MatrixRoom; decide +kernel⟩

theorem wit_MatrixLoadStore : State.Ready wX .always [2, 2 + 1] [6] true [0x8000, 0x10] wX ∧
    (mldaFmt (mfmtAcc wX.curCore.mfmt) .i8 = true ∧ (matRow wX.curCore.mfmt).isSome = true) ∧
    wX.curCore.PairOk wX.curUnit 0x8000 0x10 1 0 (rowBytes .i8 16) ∧
    (let t := wX.modCurCore fun c => { c with msca := 0x8400, mscb := 0x8410 }
    t.curCore.inScratch (poolSize t.curUnit) t.curCore.msca.toNat 16 = true ∧ t.curCore.inScratch (poolSize t.curUnit) t.curCore.mscb.toNat 16 = true) ∧
    wX.MatrixRoom 3 :=
  ⟨ready1 rfl rfl rfl rfl, by decide +kernel, by unfold Core.PairOk; decide +kernel, by decide +kernel, by unfold State.MatrixRoom; decide +kernel⟩

theorem wit_MatrixOfService : (isService wSvc.curUnit = true ∧ wSvc.cur.guard .always = true) :=
  by decide +kernel

theorem wit_TileMoves : (mfmtAcc (0x099 : BitVec 11) = 0 ∧ mfmtLxm (0x099 : BitVec 11) = false ∧ (15 : Nat) < 16) :=
  by decide +kernel

theorem wit_ByteProducts : (mfmtA (0x099 : BitVec 11) = some .i8 ∧ mfmtB (0x099 : BitVec 11) = some .i8 ∧ mfmtAcc (0x099 : BitVec 11) = 0 ∧ mfmtLxm (0x099 : BitVec 11) = false) :=
  by decide +kernel

theorem wit_CopyQueues : State.Ready wK .always [2, 3, 4] [6] true [0xC000000000008000, 0xC000000000008100, 100] wK ∧
    (100 : Word).toNat < 2 ^ 32 ∧
    wK.copyRanges [span (ownForm wK.curUnit 0xC000000000008000) 100, span (ownForm wK.curUnit 0xC000000000008100) 100] = .ok () ∧
    wK.copyRanges [span (ownForm wK.curUnit 0xC000000000008000) 100] = .ok () ∧
    (span (ownForm wK.curUnit 0xC000000000008000) 100).2 < (span (ownForm wK.curUnit 0xC000000000008100) 100).1 ∧
    wK.CopyRoom (1 : BitVec 2).toNat 2 :=
  ⟨ready1 rfl rfl rfl rfl, by decide +kernel, by rfl, by rfl, by decide +kernel, by unfold State.CopyRoom; exact ⟨by rfl, by decide +kernel, by decide +kernel⟩⟩

theorem wit_ShapeRecord : State.Ready (wShape true) .always [2, 3, 4] [6] true [0xC000000000008000, 0xC000000000008100, 0x40] (wShape true) ∧
    targetOf (wShape true).curUnit 0x40 = some (.global 0x40) ∧
    (∃ k e sh, ((wShape true).curCore.recs.find? fun q => q.2.space == (wShape true).spaceOf (wShape true).curUnit && q.2.addr == 0x40) = some (k, e) ∧ shapeOf e.data = some sh ∧ sh.count ≠ 0 ∧ (0 : Int) ≤ (sh.footprints 0xC000000000008000 0xC000000000008100).1.1 ∧ (sh.footprints 0xC000000000008000 0xC000000000008100).1.2 < 2 ^ 64 ∧ (wShape true).copyRanges [(sh.footprints 0xC000000000008000 0xC000000000008100).2, (sh.footprints 0xC000000000008000 0xC000000000008100).1] = .ok ()) ∧
    (wShape true).CopyRoom (1 : BitVec 2).toNat 2 :=
  ⟨ready1 rfl rfl rfl rfl, by rfl, ⟨_, _, _, by rfl, by rfl, by decide +kernel, by decide +kernel, by decide +kernel, by rfl⟩, by unfold State.CopyRoom; exact ⟨by rfl, by decide +kernel, by decide +kernel⟩⟩

theorem wit_ShapeRecordRead : State.Ready (wShape false) .always [2, 3, 4] [6] true [0xC000000000008000, 0xC000000000008100, 0x40] (wShape false) ∧
    ((wShape false).curCore.recs.find? (fun q => q.2.space == (wShape false).spaceOf (wShape false).curUnit && q.2.addr == 0x40) = none ∧ ((wShape false).curCore.recReads.any fun q => q.space == (wShape false).spaceOf (wShape false).curUnit && q.addr == 0x40) = false) :=
  ⟨ready1 rfl rfl rfl rfl, ⟨by rfl, by rfl⟩⟩

theorem wit_CopyRanges : (targetOf wK.curUnit (BitVec.ofInt 64 0x1000) = some (.global 0x1000) ∧ targetOf wK.curUnit (BitVec.ofInt 64 0xC000000000008000) = some (.own 0x8000) ∧ wK.curCore.accEnd ≤ 0x8000 ∧ targetOf wK.curUnit (BitVec.ofInt 64 0xA000000000000000) = some (.pool (svcUnit 0) 0) ∧ isService (svcUnit 0) = true ∧ targetOf wK.curUnit (BitVec.ofInt 64 0x2000000000000000) = none) :=
  by decide +kernel

theorem wit_CopyGranule : ((wG 0).arg = .chan 0 1 ∧ ((wG 0).core 0).chanHead 1 = some xK ∧ 0 < xK.n ∧ xK.ch = 1 ∧ ((wG 0).core 0).stopped = false ∧ (((wG 0).core 0).chan 1).running = true ∧ (((wG 0).core 0).chan 1).failed = 0 ∧ 64 * (((wG 0).core 0).chan 1).pos < xK.n) ∧
    ((wG 0).core 0).Alone (2 + 1) ∧
    (targetOf 0 (xK.src + 0) = some (.own 0x8100) ∧ targetOf 0 (xK.dst + 0) = some (.own 0x8000)) :=
  ⟨by decide +kernel, ⟨by decide +kernel, by decide +kernel⟩, ⟨by rfl, by rfl⟩⟩

theorem wit_CopyCompletion : (wGdone.arg = .chan 0 1 ∧ (wGdone.core 0).chanHead 1 = some xK ∧ xK.ch = 1 ∧ xK.xcw ≠ 0 ∧ ((wGdone.core 0).chan 1).stored = false ∧ targetOf 0 xK.xcw = some (.own 0x8700)) :=
  by decide +kernel

theorem wit_FallocFold : State.Ready (wA 0) .always [2, 3] [5] false [0, 0x0000000A00000000] (wA 0) ∧
    (wA 0).fallocCheck xA 2 0 0x0000000A00000000 = .ok ((wA 0).fallocSpec xA 2 0x0000000A00000000 0 1) ∧
    (wA 0).cur.ffrm.toNat + 256 ≤ (wA 0).cur.fflim.toNat :=
  ⟨ready1 rfl rfl rfl rfl, by rfl, by decide +kernel⟩

theorem wit_FallocNoFold : State.Ready (wA 0) .always [2, 3] [5] false [0, 0x0000000A00000000] (wA 0) ∧
    (wA 0).fallocCheck { xA with chain := true } 0 0 0x0000000A00000000 = .ok ((wA 0).fallocSpec { xA with chain := true } 0 0x0000000A00000000 0 1) ∧
    (let t := (wA 0).modCur fun x => { x with fflim := 0x16E80 }
    t.fallocCheck xA 2 0 0x0000000A00000000 = .ok (t.fallocSpec xA 2 0x0000000A00000000 0 1) ∧ t.cur.fflim.toNat < t.cur.ffrm.toNat + 256) :=
  ⟨ready1 rfl rfl rfl rfl, by rfl, ⟨by rfl, by decide +kernel⟩⟩

theorem wit_FallocFree : State.Ready (wA 0) .always [2, 3] [5] false [0, 0x0000000A00000000] (wA 0) ∧
    (wA 0).fallocCheck xA 0 0 0x0000000A00000000 = .ok ((wA 0).fallocSpec xA 0 0x0000000A00000000 0 1) ∧
    ((wA 0).curCore.bq = [] ∧ (wA 0).curCore.firstFree = some 1 ∧ (wA 0).curCore.freeCq = some 1 ∧ (wA 0).curCore.freeFam = some 1 ∧ specN ((wA 0).fallocSpec xA 0 0x0000000A00000000 0 1) = some 10) :=
  ⟨ready1 rfl rfl rfl rfl, by rfl, by decide +kernel⟩

theorem wit_FallocFar : State.Ready (wA 0x2001) .always [2, 3] [5] false [0x2001, 0x0000000A00000000] (wA 0x2001) ∧
    (wA 0x2001).fallocCheck xA 0 0x2001 0x0000000A00000000 = .ok ((wA 0x2001).fallocSpec xA 0 0x0000000A00000000 1 2) :=
  ⟨ready1 rfl rfl rfl rfl, by rfl⟩

theorem wit_FallocBound : State.Ready (wA 0x2001) .always [2, 3] [5] false [0x2001, 0x0000000A00000000] (wA 0x2001) ∧
    (wA 0x2001).fallocCheck xB 1 0x2001 0x0000000A00000000 = .ok ((wA 0x2001).fallocSpec xB 1 0x0000000A00000000 1 2) ∧
    (((List.range 2).find? fun k => ((wA 0x2001).core (1 + k)).freeFam.isSome) = some 0 ∧ ((wA 0x2001).core (1 + 0)).freeFam = some 0) :=
  ⟨ready1 rfl rfl rfl rfl, by rfl, by decide +kernel⟩

theorem wit_HandleFills : State.Ready (wHd .staged) .always [2, 3] [] false [0x21000, 99] (wHd .staged) ∧
    (wHd .staged).OwnHandle 0x21000 1 (yH .staged) ∧
    ((yH .staged).st = .staged ∧ (1 : BitVec 3).toNat < (yH .staged).g.toNat ∧ (0 : BitVec 3).toNat < (yH .staged).s.toNat) :=
  ⟨ready0 rfl rfl rfl, ⟨by rfl, by rfl, by decide +kernel, by decide +kernel, by decide +kernel, by decide +kernel⟩, by decide +kernel⟩

theorem wit_HandleGo : State.Ready (wHd .staged) .always [2] [] false [0x21000] (wHd .staged) ∧
    (wHd .staged).OwnHandle 0x21000 1 (yH .staged) ∧
    State.Ready (wHd .queued) .always [2] [] false [0x21000] (wHd .queued) ∧
    (wHd .queued).OwnHandle 0x21000 1 (yH .queued) ∧
    (yH .queued).heldFgo = none :=
  ⟨ready0 rfl rfl rfl, ⟨by rfl, by rfl, by decide +kernel, by decide +kernel, by decide +kernel, by decide +kernel⟩, ready0 rfl rfl rfl, ⟨by rfl, by rfl, by decide +kernel, by decide +kernel, by decide +kernel, by decide +kernel⟩, by decide +kernel⟩

theorem wit_HandleWaits : State.Ready (wHd .ended) .always [2] [5] false [0x21000] (wHd .ended) ∧
    (wHd .ended).OwnHandle 0x21000 1 (yH .ended) ∧
    State.Ready (wHd .running) .always [2] [5] false [0x21000] (wHd .running) ∧
    (wHd .running).OwnHandle 0x21000 1 (yH .running) ∧
    (0 : BitVec 3).toNat < (yH .running).s.toNat :=
  ⟨ready1 rfl rfl rfl rfl, ⟨by rfl, by rfl, by decide +kernel, by decide +kernel, by decide +kernel, by decide +kernel⟩, ready1 rfl rfl rfl rfl, ⟨by rfl, by rfl, by decide +kernel, by decide +kernel, by decide +kernel, by decide +kernel⟩, by decide +kernel⟩

theorem wit_HandleFaults : State.Ready (wHd .running) .always [2, 3] [] false [0x21000, 99] (wHd .running) ∧
    (wHd .running).OwnHandle 0x21000 1 (yH .running) ∧
    State.Ready (wHd .staged) .always [2] [5] false [0x21000] (wHd .staged) ∧
    ((yH .running).g.toNat ≤ (2 : BitVec 3).toNat ∧ (yH .running).s.toNat ≤ (1 : BitVec 3).toNat ∧ (0 : BitVec 3).toNat < (yH .running).s.toNat ∧ (yH .staged).st = .staged ∧ (yF .queued).heldFgo ≠ none) ∧
    (wFq (some (⟨0, 0, 1⟩, .fgo 64 0 0))).OwnHandle 0x21000 1 (yF .queued) :=
  ⟨ready0 rfl rfl rfl, ⟨by rfl, by rfl, by decide +kernel, by decide +kernel, by decide +kernel, by decide +kernel⟩, ready1 rfl rfl rfl rfl, by decide +kernel, ⟨by rfl, by rfl, by decide +kernel, by decide +kernel, by decide +kernel, by decide +kernel⟩⟩

theorem wit_FamilyWithdrawals : State.Ready (wHd .queued) .always [2] [] false [0x21000] (wHd .queued) ∧
    (wHd .queued).OwnHandle 0x21000 1 (yH .queued) ∧
    ((yH .queued).heldFgo = none ∧ (yF .queued).heldFgo = some (⟨0, 0, 1⟩, .fgo 64 0 0)) :=
  ⟨ready0 rfl rfl rfl, ⟨by rfl, by rfl, by decide +kernel, by decide +kernel, by decide +kernel, by decide +kernel⟩, by decide +kernel⟩

theorem wit_HandleKills : State.Ready (wHd .ended) .always [2] [] false [0x21000] (wHd .ended) ∧
    State.Ready (wHd .staged) .always [2] [] false [0x21000] (wHd .staged) ∧
    State.Ready (wHd .running) .always [2] [] false [0x21000] (wHd .running) :=
  ⟨ready0 rfl rfl rfl, ready0 rfl rfl rfl, ready0 rfl rfl rfl⟩

theorem wit_HandleFar : State.Ready wFar .always [2, 3] [] false [0x21003, 99] wFar ∧
    (handleParts 0x21003 = some ⟨3, 1, 1⟩ ∧ (3 : Nat) ≠ wFar.curUnit ∧ wFar.inPart (unitDie wFar.curUnit) 3 = true) :=
  ⟨ready0 rfl rfl rfl, by decide +kernel⟩

theorem wit_HandleStale : State.Ready wOld .always [2, 3] [] false [0x41000, 99] wOld ∧
    ((0x41000 : Word).getLsbD 32 = false ∧ handleParts 0x41000 = some ⟨0, 1, 2⟩ ∧ (wOld.fam 0 1).gen ≠ 2) :=
  ⟨ready0 rfl rfl rfl, by decide +kernel⟩

theorem wit_FoldHandles : State.Ready (wFo false) .always [2, 3] [] false [0x102DC0000, 99] (wFo false) ∧
    State.Ready (wFo true) .always [2] [5] false [0x102DC0000] (wFo true) ∧
    State.Ready (wFo false) .always [2] [] false [0x102DC0000] (wFo false) ∧
    (((wFo false).cur.reg 2).getLsbD 32 = true ∧ ((wFo false).cur.reg 2).getLsbD 33 = false ∧ (wFo false).foldFrame ((wFo false).cur.reg 2) = some 0x16E00 ∧ (wFo false).curCore.frameEnd 0x16E00 = 0 ∧ wFo1.curCore.frameEnd 0x16E00 = 1 ∧ wFo1.foldFrame 0x102DC0000 = some 0x16E00 ∧ (1 : BitVec 3).toNat < fld ((wFo false).curCore.frameWord 0x16E00 31) 43 41 ∧ (wFo false).cur.pend = 0) ∧
    ((wFo true).foldFrame ((wFo true).cur.reg 2) = some 0x16E00 ∧ (wFo true).curCore.frameEnd 0x16E00 = 4) :=
  ⟨ready0 rfl rfl rfl, ready1 rfl rfl rfl rfl, ready0 rfl rfl rfl, by decide +kernel, by decide +kernel⟩

theorem wit_SelfAndExit : State.Ready wSelf .always [] [5] false [] wSelf ∧
    (wSelf.curUnit < 4096 ∧ wSelf.curSlot < 64 ∧ wSelf.cur.endWait = none ∧ wSelf.cur.work = .member 0) ∧
    (wSh.cur.endWait = some 2 ∧ wSh.cur.work = .member 0 ∧ wSh.cur.guard .always = true) ∧
    (wFld.cur.work = .folded ∧ wFld.cur.endWait = none) :=
  ⟨ready1 rfl rfl rfl rfl, by decide +kernel, by decide +kernel, by decide +kernel⟩

theorem wit_Barrier : wSelf.inBound = false ∧
    (wBar.inBound = true ∧ wBar.cur.holds = [] ∧ wBar.curCore.loadsOut wBar.curSlot = false ∧ (∀ p ∈ wBar.curCore.journal, p.2.counted = false)) :=
  ⟨by decide +kernel, by decide +kernel⟩

theorem wit_MemberEnd : (wEnd.cur.guard .always = true ∧ wEnd.cur.work = .member 0 ∧ wEnd.cur.s = 0 ∧ wEnd.cur.eos = false ∧ wEnd.cur.created = [] ∧ wEnd.cur.holds = [] ∧ wEnd.cur.asyncs = [] ∧ wEnd.cur.pushed = []) ∧
    (afind wEnd.curCore.cq 0 = some tEntry ∧ tEntry.fam.owner = wEnd.curUnit ∧ tEntry.chain = false ∧ (wEnd.fam 0 0).gen = tEntry.fam.gen ∧ (wEnd.fam 0 0).st = .running) :=
  ⟨by decide +kernel, by decide +kernel⟩

theorem wit_SysRequests : State.Ready (wS 1 5) .always [2, 3] [6] true [1, 5] (wS 1 5) ∧
    (sysRow (.pzero .always 6 2 3) = some (.always, [2, 3], 6) ∧ sysKinds (.pzero .always 6 2 3) = some [0, 2] ∧ (wS 1 5).arg = .none ∧ (wS 1 5).sysOf (wS 1 5).curUnit = true ∧ (wS 1 5).sysUnit 1 [0, 2] = some 1) ∧
    sysOperandOk (.pzero .always 6 2 3) 5 ∧
    State.Ready (wS 0 5) .always [3] [6] true [5] (wS 0 5) ∧
    State.Ready (wS 0x2000 5) .always [2] [6] true [0x2000] (wS 0x2000 5) ∧
    State.Ready (wS 0x2000 5) .always [2, 3, 4, 5] [5] true [0x2000, 5, 7, 9] (wS 0x2000 5) ∧
    ((wS 0 5).sysDies 1 = true ∧ (wS 0x2000 5).sysDies 1 = true) ∧
    (∃ q, (wS 1 5).sysSend (.pzero .always 6 2 3) 6 [1] 1 5 0 0 = .ok q) :=
  ⟨ready1 rfl rfl rfl rfl, by decide +kernel, by unfold sysOperandOk; decide +kernel, ready1 rfl rfl rfl rfl, ready1 rfl rfl rfl rfl, ready1 rfl rfl rfl rfl, by decide +kernel, ⟨_, rfl⟩⟩

theorem wit_SysPrivilege : (wU.arg = .none ∧ wU.cur.guard .always = true ∧ wU.sysOf wU.curUnit = false) :=
  by decide +kernel

theorem wit_SysAnswers : ((wAns 2).arg = .sys { mT 1 1 5 with ans := some 2 } ∧ ((wAns 2).core 0).sysRuns.find? (fun x => x.tid == 7) = some ⟨7, 2, 40⟩ ∧ ((wAns 2).slot 0 0).work ≠ .none ∧ ((wAns 2).slot 0 0).sgen = 1 ∧ ((wAns 2).slot 0 0).trip = .out .reply ∧ ((wAns 2).slot 0 0).run = .wait .reply) ∧
    ((wAns 1).core 0).sysRuns.find? (fun x => x.tid == 7) = some ⟨7, 1, 40⟩ :=
  ⟨by decide +kernel, by decide +kernel⟩

theorem wit_ContextForms : (wWake.arg = .sys (mT (sliceUnit 5) 0x40 1) ∧ (mT (sliceUnit 5) 0x40 1).ans = none ∧ (mT (sliceUnit 5) 0x40 1).who.slot ≠ 64 ∧ (wWake.slice (unitIdent (sliceUnit 5))).heldAt ⟨false, 1⟩ (chunkOf 0x40) = some hN ∧ hN.notice = true) ∧
    (((wSave true).slot 1 0).holds.contains .save = true ∧ ((wSave false).core 1).stopped = false ∧ ((wSave false).slot 1 0).work ≠ .none ∧ ((wSave false).slot 1 0).saveHeld = false ∧ ((wSave true).slot 1 0).saveHeld = true ∧ ((wSave true).core 1).unitsLanded 0 = true) ∧
    (∃ q, wPoolImg.imageStore 0 (wPoolImg.spaceOf 0) 0x4000 ((List.range 32).map (wPoolImg.slot 1 0).ctxWord) = .ok q) ∧
    (awf 0 (wPoolImg.slot 1 0).regs = true ∧ ∀ k, k < 32 → wPoolImg.imageGet 0 (wPoolImg.spaceOf 0) (0x4000 + BitVec.ofNat 64 (8 * k)) = some 0) :=
  ⟨by decide +kernel, by decide +kernel, ⟨_, rfl⟩, by decide +kernel⟩

theorem wit_CoreForms : (((wIdle 5).core 1).retired = false ∧ ((wIdle 5).core 1).idle = true ∧ ((wIdle 5).core 1).stopped = false) ∧
    ((1 : Nat) ≤ (0x44 : Word).toNat % 16 ∧ (0x44 : Word).toNat % 16 ≤ 4 ∧ (0x44 : Word).toNat / 16 % 32 ≤ 4 ∧ 4096 * ((0x44 : Word).toNat % 16 + (0x44 : Word).toNat / 16 % 32) + 256 * (2 : BitVec 8).toNat * (16 * ((0x44 : Word).toNat % 16)) ≤ poolSize 1 - 4096) ∧
    (unitKind (engineUnit 1) = 4 ∧ unitKind (portUnit 1 true) ≠ 4 ∧ unitKind 1 = 0 ∧ unitKind (sliceUnit 3) = 1) ∧
    ((∀ p ∈ (wIdle 5).cores, isCompute p.1 = true → (2 : BitVec 4).getLsbD (unitDie p.1) = true → p.2.idle = true ∨ p.2.stopped = true) ∧ isService 1 = false ∧ ((wIdle 5).core 1).posts.contains 0 = false ∧ ((wIdle 5).core 1).sysQueue = [] ∧ (wRem 256).dieBusy 0 = false) :=
  ⟨by decide +kernel, by decide +kernel, by decide +kernel, by decide +kernel⟩

theorem wit_TranslationForms : ((wTr 0x2000 0x4000).arg = .sys (mT (sliceUnit 3) 0x2000 0x4000) ∧ (0x2000 : Word).toNat < hbmSize ∧ (0x4000 : Word).toNat % 8 = 0 ∧ ((wTr 0x2000 0x4000).physWord 0x4000).getLsbD 0 = true ∧ ((wTr 0x2000 0x4000).physWord 0x4000).toNat / 2 ^ 13 % 2 ^ 35 * 8192 = 0x8000 ∧ (wTr 0x2000 0x4000).version 0x8000 = 0 ∧ ((wTr 0x2000 0x4800).physWord 0x4800).getLsbD 0 = false) ∧
    (∀ e pa, (wTr 0x2000 0x4000).walkFrom ⟨false, 1⟩ 0x2000 3 ((wTr 0x2000 0x4000).rootOf 3 ⟨false, 1⟩) = .ok pa e → e.leafAt = 0x4000 → e.psize = 0) :=
  ⟨by decide +kernel, by have h0 : (wTr 0x2000 0x4000).walkFrom ⟨false, 1⟩ 0x2000 3 ((wTr 0x2000 0x4000).rootOf 3 ⟨false, 1⟩) = .miss := (by decide +kernel); intro e pa h; rw [h0] at h; cases h⟩

theorem wit_SysKept : (wQueue.arg = .sys (mT 1 1 5) ∧ (mT 1 1 5).ans = none ∧ unitKind (mT 1 1 5).unit ≠ 1 ∧ (wQueue.core 1).sysQueue = [⟨.slotsv .always 6 2 3 false 0, .none⟩]) ∧
    (((wSave true).slot 1 0).saveHeld = true ∧ ((wSave true).core 1).unitsLanded 0 = true ∧ (mT 1 1 0x4000).v ≠ 1) :=
  ⟨by decide +kernel, by decide +kernel⟩

theorem wit_LoadAtPool : ((wHl xLd 0 5).arg = .access xLd ∧ xLd.kind = .ld .h false ∧ xLd.entry = none) ∧
    (wHl xLd 0 5).PoolOpen xLd.at_ (poolOff xLd.at_ xLd.addr) 2 xLd.who.unit :=
  ⟨by decide +kernel, ⟨by decide +kernel, by decide +kernel, by rfl⟩⟩

theorem wit_LoadAtSlice : ((wHl xHl 0 0xFFFE0000).arg = .access xHl ∧ xHl.kind = .ld .h false ∧ xHl.entry = none ∧ unitKind xHl.at_ = 1 ∧ xHl.replica = false) ∧
    (wHl xHl 0 0xFFFE0000).AtHome 2 xHl.space xHl.addr .read xHl.sys 0x800A tH (lH 0 0xFFFE0000) 36 (qH 0 0xFFFE0000 (.access xHl)) ∧
    (((qH 0 0xFFFE0000 (.access xHl)).slice 2).w = 0 ∧ ((qH 0 0xFFFE0000 (.access xHl)).slice 2).windows = [] ∧ ∀ k ∈ lineWords 10 2, (lH 0 0xFFFE0000).marked.getLsbD k = false) ∧
    ((wHl xHl 0 0xFFFE0000).homeOfSlice 2 xHl.space xHl.addr = 2 ∧ xHl.at_ = sliceUnit 2 ∧ unitDie 1024 * 64 + 2 % 64 ≠ 2 ∧ unitDie 0 * 64 + 9 % 64 = 9 ∧ (wHl xHl 0 5).homeOfSlice 9 xHl.space xHl.addr ≠ 9) ∧
    (match (({ wHl xHl 0 5 with slices := [], mem := [] } : State).translate 2 xHl.space xHl.addr .read xHl.sys).1 with | .miss => true | _ => false) = true :=
  ⟨by decide +kernel, ⟨by rfl, ⟨_, by rfl, by rfl⟩, by decide +kernel⟩, by decide +kernel, by decide +kernel, by decide +kernel⟩

theorem wit_AtomicAtHome : (wHl xAp 0 5).PoolOpen xAp.at_ (poolOff xAp.at_ xAp.addr) 8 xAp.who.unit ∧
    ((wHl (xAm .add false) 0 5).homeOfSlice 2 (xAm .add false).space (xAm .add false).addr = 2 ∧ (lH 0 5).tag 1 = 0 ∧ (lH 0 5).marked.getLsbD 1 = false ∧ (lH 2 5).tag 1 ≠ 0) ∧
    (wHl (xAm .add false) 0 5).AtHome 2 (xAm .add false).space (xAm .add false).addr .write (xAm .add false).sys 0x8008 tH (lH 0 5) 36 (qH 0 5 (.access (xAm .add false))) ∧
    (∃ r, (qH 0 5 (.access (xAm .add false))).Wrote r 2 (xAm .add false).space (xAm .add false).addr 0x8008 tH (lH 0 5) ((lH 0 5).put 8 8 0x35)) :=
  ⟨⟨by decide +kernel, by decide +kernel, by rfl⟩, by decide +kernel, ⟨by rfl, ⟨_, by rfl, by rfl⟩, by decide +kernel⟩, ⟨_, _, by rfl, rfl⟩⟩

theorem wit_StoreAtHome : (wH 0 5 (.store pPl)).PoolOpen pPl.at_ (poolOff pPl.at_ pPl.addr) 2 pPl.who.unit ∧
    (pPl.addr.toNat % 2 = 0 ∧ pSt.addr.toNat % 2 = 0 ∧ unitKind pSt.at_ = 1 ∧ (wH 0 5 (.store pSt)).homeOfSlice 2 pSt.space pSt.addr = 2 ∧ (wH 0 5 (.store pOld)).homeOfSlice 9 pOld.space pOld.addr ≠ 9 ∧ unitKind pOld.at_ = 1 ∧ (lH 0 5).tag 1 ≠ 3 ∧ (lH 3 5).tag 1 = 3) ∧
    (wH 0 5 (.store pSt)).AtHome 2 pSt.space pSt.addr .write pSt.sys 0x800A tH (lH 0 5) 36 (qH 0 5 (.store pSt)) ∧
    (wH 3 5 (.store pSt)).AtHome 2 pSt.space pSt.addr .write pSt.sys 0x800A tH (lH 3 5) 36 (qH 3 5 (.store pSt)) ∧
    (∃ d, (qH 0 5 (.store pSt)).markDirty 2 pSt.space pSt.addr tH = (.done, d)) :=
  ⟨⟨by decide +kernel, by decide +kernel, by rfl⟩, by decide +kernel, ⟨by rfl, ⟨_, by rfl, by rfl⟩, by decide +kernel⟩, ⟨by rfl, ⟨_, by rfl, by rfl⟩, by decide +kernel⟩, ⟨_, by rfl⟩⟩

theorem wit_JournalAnswers : ((wJ7 (.ack 0 3 9)).arg = .ack 0 3 9 ∧ afind ((wJ7 (.ack 0 3 9)).core 0).journal 3 = some jK ∧ jK.stamp = 9 ∧ jK.counted = true ∧ ((wJ7 (.ack 0 3 9)).core 0).journal.Pairwise (fun p q => p.1 < q.1)) ∧
    (∀ j, afind ((wJ7 (.ack 0 3 8)).core 0).journal 3 = some j → j.stamp ≠ 8) ∧
    (wJ7 (.refusal ⟨0, 3, 9, 4, false, true, 4⟩)).arg = .refusal ⟨0, 3, 9, 4, false, true, 4⟩ :=
  ⟨by decide +kernel, by intro j h; cases h; decide, by decide +kernel⟩

theorem wit_Replicas : ((wRp 10).arg = .replica (mRp 5) ∧ (9 : Nat) ≤ ((wRp 10).slice 4).clearedAt ∧ ((wRp 8).slice 4).clearedAt < 9 ∧ aget 0 ((wRp 8).slice 4).invalAt 128 < 9 ∧ aget 0 ((wRp 8).slice 4).newest 128 ≤ 3 ∧ (3 : Nat) < aget 0 (({ wRp 8 with slices := [(4, { newest := [(128, 5)] })] } : State).slice 4).newest 128) ∧
    (((wRp 8).slot 0 0).sgen = 1 ∧ ((wRp 8).slice 4).windows.find? (fun x => x.id == 6) = some ⟨6, false, 0, 128, [], 0⟩ ∧ (0 : Nat) ≤ (wRp 8).cycle ∧ ((wRp 8).slot 0 0).seat 1 = .occupant ∧ ((wRp 8).slice 4).lineAt ⟨false, 0⟩ 128 = some (lH 0 5)) :=
  ⟨by decide +kernel, by decide +kernel⟩

theorem wit_LdvTimers : ((wO false).arg = .tid 0 7 2 ∧ ((wO false).core 0).outOf 7 = some (oK false) ∧ (oK false).refusals = 2 + 1 ∧ (oK false).failed = false ∧ ((wO true).core 0).outOf 7 = some (oK true) ∧ (oK true).accepted = false ∧ (oK true).parked = true ∧ (oK false).parked = false) ∧
    ((wWb true).arg = .line 2 ⟨false, 0⟩ 128 ∧ ((wWb true).slice 2).lineAt ⟨false, 0⟩ 128 = some { lH 0 5 with dirty := true } ∧ (lH 0 5).pa + 128 ≤ hbmSize) :=
  ⟨by decide +kernel, by decide +kernel⟩

theorem wit_LdvAtHome : (xLv.kind = .ldv ∧ xLv.entry = none ∧ xLv.outer = 0 ∧ (lH 0 5).tag 1 = 0 ∧ (lH 1 5).tag 1 = 1 ∧ (lH 2 5).tag 1 = 2 ∧ (lH 3 5).tag 1 = 3 ∧ (lH 0 5).marked.getLsbD 1 = false ∧ tH.w = true ∧ ((qH 1 5 (.access xLv)).slice 2).freeWait = some 0) ∧
    (wH 0 5 (.access xLv)).AtHome 2 xLv.space xLv.addr .write xLv.sys 0x8008 tH (lH 0 5) 36 (qH 0 5 (.access xLv)) ∧
    (wH 1 5 (.access xLv)).AtHome 2 xLv.space xLv.addr .write xLv.sys 0x8008 tH (lH 1 5) 36 (qH 1 5 (.access xLv)) ∧
    (wH 2 5 (.access xLv)).AtHome 2 xLv.space xLv.addr .write xLv.sys 0x8008 tH (lH 2 5) 36 (qH 2 5 (.access xLv)) ∧
    (wH 3 5 (.access xLv)).AtHome 2 xLv.space xLv.addr .write xLv.sys 0x8008 tH (lH 3 5) 36 (qH 3 5 (.access xLv)) ∧
    (∃ p, (qH 1 5 (.access xLv)).Wrote p 2 xLv.space xLv.addr 0x8008 tH (lH 1 5) ((lH 1 5).cell (xLv.addr.toNat % 128) (BitVec.ofNat 64 (0 * 2 ^ 52)) 3)) :=
  ⟨by decide +kernel, ⟨by rfl, ⟨_, by rfl, by rfl⟩, by decide +kernel⟩, ⟨by rfl, ⟨_, by rfl, by rfl⟩, by decide +kernel⟩, ⟨by rfl, ⟨_, by rfl, by rfl⟩, by decide +kernel⟩, ⟨by rfl, ⟨_, by rfl, by rfl⟩, by decide +kernel⟩, ⟨_, _, by rfl, rfl⟩⟩

theorem wit_CellStoresAtHome : (unitKind (pC .stf).at_ = 1 ∧ (wH 0 5 (.store (pC .stf))).homeOfSlice 2 (pC .stf).space (pC .stf).addr = 2 ∧ ((lH 3 5).word 1).getLsbD 62 = false ∧ ((lH 3 0x4000000000000000).word 1).getLsbD 62 = true) ∧
    (wH 0 5 (.store (pC .stf))).AtHome 2 (pC .stf).space (pC .stf).addr .write (pC .stf).sys 0x8008 tH (lH 0 5) 36 (qH 0 5 (.store (pC .stf))) ∧
    (wH 1 5 (.store (pC .stf))).AtHome 2 (pC .stf).space (pC .stf).addr .write (pC .stf).sys 0x8008 tH (lH 1 5) 36 (qH 1 5 (.store (pC .stf))) ∧
    (wH 2 5 (.store (pC .ssus))).AtHome 2 (pC .ssus).space (pC .ssus).addr .write (pC .ssus).sys 0x8008 tH (lH 2 5) 36 (qH 2 5 (.store (pC .ssus))) ∧
    (wH 3 5 (.store (pC .stf))).AtHome 2 (pC .stf).space (pC .stf).addr .write (pC .stf).sys 0x8008 tH (lH 3 5) 36 (qH 3 5 (.store (pC .stf))) ∧
    (∃ r, (qH 1 5 (.store (pC .stf))).Wrote r 2 (pC .stf).space (pC .stf).addr 0x8008 tH (lH 1 5) ((lH 1 5).cell 8 (pC .stf).d0 0)) :=
  ⟨by decide +kernel, ⟨by rfl, ⟨_, by rfl, by rfl⟩, by decide +kernel⟩, ⟨by rfl, ⟨_, by rfl, by rfl⟩, by decide +kernel⟩, ⟨by rfl, ⟨_, by rfl, by rfl⟩, by decide +kernel⟩, ⟨by rfl, ⟨_, by rfl, by rfl⟩, by decide +kernel⟩, ⟨_, _, by rfl, rfl⟩⟩

theorem wit_Claims : ((cK 0x80).ptr.toNat % 64 = 0 ∧ targetOf (cK 0x80).who.unit (cK 0x80).ptr = some (.global 0x80) ∧ (cK 0x44).ptr.toNat % 64 ≠ 0) :=
  by decide +kernel

theorem wit_EvaluatorsStart : (((wE 0).core 0).firstFree = some 1 ∧ ((wE 0).core 0).halted = false ∧ ((wE 0).core 0).retired = false ∧ ((wE 0).core 0).stopped = false ∧ ((wE 1).core 1).firstFree = none ∧ (eK 1 0).claimant.unit ≠ (eK 1 0).unit) ∧
    (((wEf false).core 0).firstFree = none ∧ ((wEf false).core 0).canFold (eK 0 2).claimant = false ∧ ((wEf true).core 0).canFold (eK 0 2).claimant = true) :=
  ⟨by decide +kernel, by decide +kernel⟩

theorem wit_EvaluatorsEnd : (((wN none 4).slice 2).lineAt ⟨false, 0⟩ (0x4008 / 128) = some (lH 3 0x8000000000000000) ∧ (lH 3 0x8000000000000000).tag 1 = 3 ∧ ((lH 3 0x8000000000000000).word 1).getLsbD 63 = true ∧ ((lH 3 0x8000000000000000).word 1).toNat / 2 ^ 52 % 2 ^ 10 = 0 ∧ afind ((wN none 4).slice 2).waits 0 = some rK ∧ rK.claim = 4) :=
  by decide +kernel

theorem wit_Watchdog : ((wDog 4096).arg = .unit 0 ∧ ((wDog 4096).core 0).evto ≠ 0 ∧ ((wDog 4096).core 0).stopped = false ∧ 0 < ((wDog 4096).core 0).nslots ∧ ((wDog 4096).slot 0 0).evc ≠ 0 ∧ ((wDog 4096).slot 0 0).evRaised = false ∧ max 4096 ((wDog 4096).core 0).evto.toNat ≤ ((wDog 4096).slot 0 0).evage.toNat ∧ ((wDog 4096).slot 0 0).run = .ready ∧ ((wDog 0).core 0).evto = 0) :=
  by decide +kernel

theorem wit_StoreToDrop : ((wDr 3).homeOfSlice dHome ⟨true, 0⟩ 0x4040 = dHome ∧ unitKind (pDr 3).at_ = 1 ∧ (pDr 3).space.svs = true ∧ 64 < 64 + 8 ∧ ((wDr 3).slice dHome).vtb.toNat ≤ 0x8040 / 128 * 128 ∧ 0x8040 / 128 * 128 < ((wDr 3).slice dHome).vtb.toNat + 8192 ∧ unitDie (pDr 3).who.unit = dHome / 64 ∧ unitDie 1024 ≠ dHome / 64) :=
  by decide +kernel

theorem wit_EvaluatorState : ((∀ k : Nat, k < 5 → True) ∧ awf 0 ((wE 0).slot 0 1).regs = true ∧ unitKind (mcFrom 0).src ≠ 4 ∧ mcParts (mcFrom 0) = []) ∧
    (mcParts mW ≠ [] ∧ (wE 0).mcTokens mW.src (mcUnits mW) = ((wE 0).mcTokens mW.src (mcUnits mW)).head! :: ((wE 0).mcTokens mW.src (mcUnits mW)).tail) :=
  ⟨⟨fun _ _ => trivial, by decide +kernel, by decide, by rfl⟩, by decide +kernel⟩

theorem wit_Resume : State.Ready (wR true) .always [2] [] false [0x600020000] (wR true) ∧
    State.Ready wRg .always [2] [] false [0x600040000] wRg ∧
    (fld (0x600020000 : Word) 63 41 = 0 ∧ (0x600020000 : Word).getLsbD 33 = true ∧ fld (0x600020000 : Word) 16 12 = 0 ∧ handleUnit 0x600020000 = (wR true).curUnit ∧ (wR true).inPart (unitDie (wR true).curUnit) (wR true).curUnit = true ∧ (wR true).cur.work ≠ .none ∧ fld (0x600020000 : Word) 39 34 = 1) ∧
    (((wR true).slot 0 1).seat (BitVec.ofNat 15 (fld (0x600020000 : Word) 31 17)) = .occupant ∧ ((wR true).slot 0 1).heldFault = some (0, fiR) ∧ ((wR false).slot 0 1).heldFault = none ∧ (wRg.slot 0 1).seat (BitVec.ofNat 15 (fld (0x600040000 : Word) 31 17)) = .gone) :=
  ⟨ready0 rfl rfl rfl, ready0 rfl rfl rfl, by decide +kernel, by decide +kernel⟩

theorem wit_Assignment : ((wAs 0).arg = .slot 0 0 ∧ ((wAs 0).slot 0 0).work = .none ∧ ((wAs 0).core 0).halted = false ∧ ((wAs 0).core 0).retired = false ∧ 0 < ((wAs 0).core 0).nslots ∧ ((wAs 0).slot 0 0).anchor = some 0 ∧ afind ((wAs 0).core 0).cq 0 = some (eA 0) ∧ (eA 0).ready = true ∧ 1 + (eA 0).g.toNat + 2 * (eA 0).s.toNat + (eA 0).l.toNat ≤ 28 ∧ (eA 0).next = 0) ∧
    (((tRegs []).slot 0 0).work ≠ .none ∧ (wHm.slot 0 0).work = .none ∧ (wHm.slot 0 0).anchor = none ∧ (wHm.core 0).hq = [hqA]) ∧
    ((wAf.slot 0 0).holds = [] ∧ (wAf.slot 0 0).run = .ready ∧ (wAf.slot 0 0).work ≠ .none ∧ (wAf.slot 0 0).fence = none ∧ (wFe.slot 0 0).fence = some ⟨2, .pkg, false, some [], none⟩ ∧ (wAf.core 0).stopped = false ∧ (wFe.slot 0 0).holds = [] ∧ (∀ p ∈ (wFe.slot 0 0).asyncs, p.2.code = 32) ∧ (wAf.slot 0 0).asyncs.find? (fun k => k.1 == (wAf.slot 0 0).sgen) = some (1, fA) ∧ (wNr.slot 0 0).holds = [.noRecord fA] ∧ (wNr.core 0).freeRecordNo ≠ none) :=
  ⟨by decide +kernel, by decide +kernel, by decide +kernel⟩

theorem wit_Forwards : ((fwF 3).final = true ∧ ((wL yL (.forward (fwF 3))).fam 0 0).gen = 1 ∧ yL.st = .running ∧ afind yL.finOrd 1 = some 2) ∧
    ((wFw 0).arg = .forward ⟨0, ⟨0, 0, 1⟩, 0, 0, 9, false⟩ ∧ ((wFw 0).core 0).cqOf ⟨0, 0, 1⟩ = some (0, tEntry) ∧ afind ((wFw 0).core 0).cq 0 = some tEntry ∧ 0 < ((wFw 0).core 0).nslots ∧ ((wFw 0).slot 0 0).work = .member 0 ∧ ((wFw 0).slot 0 0).ord.toNat = 0 ∧ ((wFw 0).slot 0 0).run = .ready ∧ ((wFw 0).slot 0 0).ending = none) ∧
    (∀ i, (wFw2.slot 0 i).work ≠ .member 0 ∧ ∀ fo ∈ (wFw2.slot 0 i).folds, fo.work ≠ .member 0) :=
  ⟨by decide +kernel, by decide +kernel, by intro i; have h : wFw2.slot 0 i = ({} : Slot) := rfl; rw [h]; exact ⟨by decide, by simp⟩⟩

theorem wit_FamilyEnds : ((wL yO (.entry 0 0)).arg = .entry 0 0 ∧ yO.over = true ∧ yO.orphan = false ∧ yO.waiters = [] ∧ yO.launch = none ∧ yL.over = false ∧ ((wL yL (.report (rp (.ended 0)))).fam 0 0).gen = (rp (.ended 0)).fam.gen ∧ (1 : Nat) < yL.brk.toNat) :=
  by decide +kernel

theorem wit_Requests : ((wBq .queued [bL]).arg = .bound bL ∧ ((wBq .queued [bL]).fam 0 0).st = .queued ∧ ((wBq .queued [bL]).fam 0 0).gen = 1 ∧ (wBq .queued [bL]).boundReady bL ((wBq .queued [bL]).fam 0 0) = true ∧ (wBq .queued []).boundReady bL ((wBq .queued []).fam 0 0) = false ∧ ((wBq .queued [bL]).fam 0 0).heldFgo = none ∧ ((wBq .staged []).fam 0 0).st ≠ .queued) ∧
    (((wRw false).slot 0 0).seat 1 = .occupant ∧ ((wRw true).slot 0 0).trip = .out .bar ∧ ((wRw false).slot 0 0).trip = .out .reply ∧ ((wRw false).slot 0 0).run = .wait .reply) ∧
    (∃ r q, (wL hL .none).serveHandle 0 ⟨0, 0, 1⟩ (.fhand 64) 0x20000 = (some r, q)) ∧
    (∃ q, (wL { hL with st := .running } .none).serveHandle 0 ⟨0, 0, 1⟩ .fsync 0x20000 = (none, q)) :=
  ⟨by decide +kernel, by decide +kernel, ⟨_, _, by rfl⟩, ⟨_, by rfl⟩⟩

theorem wit_Fetches : (((wLn 0x44 none true).slot 0 0).line = none ∧ targetOf 0 (((wLn 0x44 none true).slot 0 0).pc &&& ~~~63#64) = some (.global 0x40) ∧ ((wLn 0x44 (some (0x40, 0)) true).slot 0 0).target = true ∧ ((wLn 0x44 (some (0x40, 0)) false).slot 0 0).target = false) ∧
    (∀ va, targetOf 0 ((0xC000000000008004 : Word) &&& ~~~63#64) ≠ some (.global va)) ∧
    (wLn 0x44 none true).cur.fetching = none ∧
    (((wLf 0x0A00).slot 0 0).seat 1 = .occupant ∧ ((wLf 0x0A00).slot 0 0).fetching = some 7 ∧ lineOk 0x0A00 = true ∧ lineOk (BitVec.allOnes 512) = false) ∧
    ((wLd.core 0).outOf 7 = some oU ∧ oU.kind = .unit ∧ (wLd.slot 0 oU.who.slot).seat oU.who.sgen = .occupant ∧ oU.noticed = false ∧ oU.dest2 = none) :=
  ⟨by decide +kernel, by intro va h; exact absurd h (by simp [targetOf, fld]), by decide +kernel, by decide +kernel, by decide +kernel⟩

theorem wit_AssignmentOrder : ((wOr [] [] [] cqR).arg = .slot 0 1 ∧ (((wOr [] [] [] cqR).core 0).slot 1).work = .none ∧ (((wOr [] [] [] cqR).core 0).slot 1).anchor = none ∧ ((wOr [] [] [] cqR).core 0).halted = false ∧ ((wOr [] [] [] cqR).core 0).retired = false ∧ 1 < ((wOr [] [] [] cqR).core 0).nslots ∧ (3, qR 2 4 false) ∈ cqR ∧ (qR 2 4 false).ready = true ∧ ((wOr [] [] [] cqR).core 0).anchorEmpty 3 = false) ∧
    (∀ p ∈ cqR, p.2.ready = true → p.2.bound = false → p.1 ≠ 3 → p.2.prio.toNat < 2 ∨ (p.2.prio = 2 ∧ 4 < p.2.seq)) :=
  ⟨by decide +kernel, by decide +kernel⟩

theorem wit_PairLanding : (((wL2 (oA (some 7))).core 0).outOf 7 = some (oA (some 7)) ∧ (oA (some 7)).dest2 = some 7 ∧ (oA none).dest2 = none ∧ (oA none).noticed = false ∧ ((wL2 (oA none)).slot 0 0).seat 1 = .occupant ∧ isWindow 6 = true ∧ ((wL2 (oA none)).slot 0 0).role 6 = .loc ∧ awf 0 ((wL2 (oA none)).slot 0 0).regs = true ∧ ((wL2 (oA none)).slot 0 0).run = .wait (.reg 6)) :=
  by decide +kernel

theorem wit_UnitEvents : ((wT 0 500 (tCore (tSlot []))).arg = .unitWord 0 500 ∧ ((wT 0 500 { tCore (tSlot []) with timer := 500 }).core 0).timer = 500 ∧ ((wT 0 500 { tCore (tSlot []) with timer := 500 }).core 0).stopped = false ∧ ((wT 0 500 (tCore (tSlot []))).core 0).timer ≠ 500 ∧ ((wT 0 500 (tCore (tSlot []))).core 0).eventWaiters = []) :=
  by decide +kernel

theorem wit_CounterStores : ((0xFF0002000000 + 2 ^ 16 * 3 + 8 : Nat) = 0xFF0002030008 ∧ (8 : Nat) ≠ 0x28) :=
  by decide +kernel

theorem wit_CsplitQueue : (((wC2 0 (some 9)).core 0).curve = some { kC with killed := some 9 } ∧ (9 : Nat) ≠ (wC2 0 (some 9)).cycle ∧ ((wC2 9 none).core 0).curveDead { kC with tid := 9, off := 0x9000 } = false) :=
  by decide +kernel

theorem wit_ChainEarly : (((wCe ⟨0, 5, 1⟩).core 0).cqOf ⟨0, 5, 1⟩ = none ∧ (∀ p ∈ ((wCh ⟨0, 5, 1⟩).core 0).cq, p.2.chain = true → p.2.fam.gen ≠ 0) ∧ ((wCe ⟨0, 5, 1⟩).core 0).cq.all (fun p => p.2.chain && p.2.fam.gen == 0) = true) :=
  by decide +kernel

theorem wit_CsplitDone : (((wC9 0).core 0).curve = some kC ∧ kC.tid = 7 ∧ ((wC9 0).slot 0 kC.who.slot).seat kC.who.sgen = .occupant ∧ kC.split.1[0]?.isSome = true ∧ kC.split.1[9]? = none ∧ kC.split.1.length < 2 ^ 16 ∧ kC.who.slot < 64) :=
  by decide +kernel

theorem wit_ChainArrivals : (((wCh ⟨0, 0, 1⟩).core 0).cqOf ⟨0, 0, 1⟩ = some (0, tEntry) ∧ ((wCh ⟨0, 5, 1⟩).core 0).cqOf ⟨0, 5, 1⟩ = none) :=
  by decide +kernel

theorem wit_Joins : State.Ready wRd .always [2, 3] [6] false [0x40, dR] wRd ∧
    ((0x40 : Word) ≠ 0 ∧ (0x40 : Word).toNat % 64 = 0 ∧ descOk dR = true ∧ targetOf wRd.curUnit 0x40 = some (.global 0x40) ∧ wRd.resolveDesc dR = some dR) ∧
    State.Ready wRd .always [2] [] false [0x40] wRd ∧
    State.Ready wAd .always [2, 3] [6] true [hRd, 9] wAd ∧
    (fld hRd 55 53 = 0 ∧ fld hRd 5 0 = 0) :=
  ⟨ready1 rfl rfl rfl rfl, by decide +kernel, ready0 rfl rfl rfl, ready1 rfl rfl rfl rfl, by decide +kernel⟩

theorem wit_JoinsAtHome : ((jR 0 .pending).res = .pending ∧ ((wDir [] 0x040000000000 (.join (jR 0 .pending))).slice 2).heldAt (jR 0 .pending).space (chunkOf 0x40) = none ∧ ((wDir [] 0x040000000000 (.join (jR 0 .pending))).slice 2).dir.find? (fun p => p.2.viid == 0 && p.2.key == 0x40) = none ∧ dR.getLsbD 46 = false ∧ freeKey ((wDir [] 0x040000000000 (.join (jR 0 .pending))).slice 2).dir 256 = some 0 ∧ freeKey ((wDir [] 0x040000000000 (.join (jR 0 .pending))).station ((wDir [] 0x040000000000 (.join (jR 0 .pending))).redStation 2)).ctx 8 = some 0 ∧ fld ((wDir [] 0x040000000000 (.join (jR 0 .pending))).viWord 2 0 0) 39 32 < fld ((wDir [] 0x040000000000 (.join (jR 0 .pending))).viWord 2 0 0) 47 40) ∧
    (((wDir [(4, eR9)] 0 .none).slice 2).dir.find? (fun p => p.2.viid == 0 && p.2.key == 0x40) = some (4, eR9) ∧ eR9.ctx = .station 1 2 ∧ eR9.handle = hRd) :=
  ⟨by decide +kernel, by decide +kernel⟩

theorem wit_Contributions : ((jR 0 (.ok hRd)).res = .ok hRd ∧ (wJr.slot 0 0).seat 1 = .occupant ∧ (wJr.core 0).outOf 7 = some oJ ∧ oJ.noticed = false ∧ (wJr.slot 0 0).trip = .out .reply ∧ (wJr.slot 0 0).run = .wait .reply) ∧
    (hS.getLsbD 63 = true ∧ hS.getLsbD 62 = false ∧ fld hS 61 56 = 1 ∧ findCtx ((wCt cR (xR hS none)).station 1).ctx 0 (handleKey hS) = some (2, cR) ∧ findCtx ((tRegs []).station 1).ctx 0 (handleKey hS) = none) :=
  ⟨by decide +kernel, by decide +kernel⟩

theorem wit_DeliveriesAndPeers : ((wDl (.contribAck (aK none))).arg = .contribAck (aK none) ∧ ((wDl (.contribAck (aK (some 0)))).core 0).deliveries = [] ∧ findCtx ((wPe false (.peer (pP 1))).engine 1).ctx 0 0x40 = some (2, { cR with full := false, peers := 1, expect := 3 }) ∧ findCtx ((wPe false (.peer (pP 0))).engine 0).ctx 0 0x40 = none ∧ afind ((wPe true (.round 1 2 0 3)).engine 1).ctx 2 = some { cR with full := true, peers := 1, expect := 3 } ∧ cR.round = 0 ∧ cR.alloc = 3 ∧ cR.late = []) :=
  by decide +kernel

theorem wit_TokensAndStops : (aget [] (wTk []).tokens 4 = [] ∧ aget [] (wTk [8, 9]).tokens 4 = [8, 9] ∧ (8 : Nat) ∉ [9]) ∧
    (((wSy 104 []).core 0).gstop = 104 ∧ ((wSy 104 []).modCore 0 fun c => { c with stopped := true }).stopOf 0 = none ∧ ((wSy 104 [stR true false 0 [0]]).modCore 0 fun c => { c with stopped := true }).stopOf 0 = some (stR true false 0 [0]) ∧ ((wSy 104 [stR true false 0 [0]]).core 0).drained = false ∧ ((wSy 9 []).core 0).gstop ≠ 104) ∧
    ((wGr [4]).mcasts.find? (fun x => x.id == 8) = some ⟨8, [4], mcFrom 0⟩ ∧ (wGr [4, 5]).mcasts.find? (fun x => x.id == 8) = some ⟨8, [4, 5], mcFrom 0⟩ ∧ (stR true true 0 []).gstop = (104 : Word).toNat ∧ (wSy 104 [{ stR true false 0 [0] with cycle := 112 }]).cycle < 112) :=
  ⟨by decide +kernel, by decide +kernel, by decide +kernel⟩

theorem wit_Shuttles : ((wSw [stR true true 2 []] 0).arg = .sweep 0 0 0 ∧ ((wSw [stR true true 0 []] 0).agenda.find? (fun p => p.packet && p.seq = 5)) = none) ∧
    (([0, 1, 3].map fun k => (wSv true 0 k).agenda.find? (fun p => p.packet && p.seq = 5)) = [some pkt, some pkt, some pkt] ∧ ((wSv true 0 0).waysOf pkt)[0]? = some (.station vS, 78) ∧ ((wSv true 0 1).waysOf pkt)[1]? = some (.port 0 true, 64) ∧ ((wPt false false none).waysOf { pkt with exempt := false })[1]? = some (.port 0 true, 64) ∧ (wSv true 0 0).keeps 0 ⟨false, 0⟩ = true ∧ (wSv false 0 0).keeps 0 ⟨false, 0⟩ = false ∧ (wSv true 0 0).drains pkt.ev = false) ∧
    (((wPt false false none).port 0).pass = false ∧ ((wPt true false none).port 0).pass = true ∧ (wRr true).stoppedAt 0 false 0 (wRr true).cycle = true ∧ (wRr false).stoppedAt 0 false 0 (wRr false).cycle = false) :=
  ⟨by decide +kernel, by decide +kernel, by decide +kernel⟩

theorem wit_Errors : ((5 : Nat) < 36 ∧ aget 0 (wLk [] []).bundles (5 * 64 + 7) = 0 ∧ aget 0 (wLk [] []).degraded 5 = 0 ∧ aget 0 (wLk [(5, 2)] []).degraded 5 = 2 ∧ isCompute 0 = true ∧ isCompute 0x8001 = false ∧ (wMs.slice 2).lineAt ⟨false, 0⟩ ((0x4008 : Word).toNat / 128) = some ⟨false, 0, 128, 5, 0, false, 0x8000, 0⟩) ∧
    (unitIdent 0x8001 % 8 ≠ 0 ∧ ((0x0200000000000000 : Word).toNat / 2 ^ 56 % 16) ≠ 9) :=
  ⟨by decide +kernel, by decide +kernel⟩

theorem wit_PowerAndClock : ((wPw true false false false 7).arg = .power 1 ⟨true, false, false, false⟩ ∧ wTt.arg = .die 0 ∧ (tRegs []).released = true ∧ ((tRegs []).core 0).stopped = false) :=
  by decide +kernel

theorem wit_Boot : (((wBt .rom (.die 1)).die 1).power ≠ .off ∧ ((wBt .off (.die 1)).die 1).power = .off ∧ (1 : Nat) ≠ 0 ∧ (wBt .rom .none).released = false ∧ ((wBt .rom (.die 1)).die 1).power = .rom) :=
  by decide +kernel

theorem wit_RequestGates : ((wQh 0 (rQ 1 .queue 5 [])).arg = .host (rQ 1 .queue 5 []) ∧ (wQh 0 (rQ 1 .queue 5 [])).heardBy 0 = some 0 ∧ ({ wQh 0 (rQ 1 .queue 5 []) with dies := [(0, { power := .tripped })] }).heardBy 0 = none ∧ (wQh 0 (rQ 1 .queue 5 [])).healdHolds 0 true = false ∧ ({ wQh 0 (rQ 1 .queue 5 []) with parts := [] }).healdHolds 0 true = true ∧ entryInstr (rQ 7 .operator 4 []) = .merge ∧ BitVec.ofNat 6 (fld (reqWord (rQ 7 .operator 4 []) 0) 53 48) = reqVi (rQ 7 .operator 4 []) ∧ BitVec.ofNat 6 (fld (reqWord { rQ 1 .queue 5 [] with viid := 2 } 0) 53 48) ≠ reqVi { rQ 1 .queue 5 [] with viid := 2 } ∧ entryInstr (rQ 1 .queue 5 []) = .launch ∧ entryInstr (rQ 9 .queue 5 []) = .notsupRequest ∧ (wQh 0 (rQ 1 .queue 5 [])).viDefined 0 (reqVi (rQ 1 .queue 5 [])) = true ∧ (wQh 0 (rQ 1 .queue 5 [])).viEntryOk 0 1 = true ∧ (wQh 3 (rQ 1 .queue 5 [])).vst 0 1 = 3 ∧ fld (reqWord (rQ 1 .queue 4 []) 0) 47 32 ≠ (wQh 0 (rQ 1 .queue 4 [])).guestGen 0 1) :=
  by decide +kernel

theorem wit_Copies : (wQh 0 rCi).Serves .copyin rCi [.queue] ∧
    (wQh 0 rCo).Serves .copyout rCo [.queue] ∧
    ((wQh 0 rCi).hostAt 0 (reqVi rCi) 0x10 16 = some 0x110 ∧ (16 : Nat) < 2 ^ 40 ∧ reqWord rCi 5 = 0xFFFFFFFFFFFFFFFF ∧ (wQh 0 rCi).hostAt 0 (reqVi rCi) 0x1000 16 = none) ∧
    (∃ q, (wQh 0 rCi).viStore 0 (reqVi rCi) ((pieces 0x4008 16).map fun p => ⟨p.1, p.2, ofBytes (hostRead (wQh 0 rCi).hostMem (0x110 + (p.1 - 0x4008)) p.2), 0⟩) = (.done, q)) ∧
    (∃ ws q, (wQh 0 rCo).viLoad 0 (reqVi rCo) (pieces 0x4008 16) = (some ws, q)) :=
  ⟨⟨by rfl, by decide +kernel, by decide +kernel, by decide +kernel, by decide +kernel, by decide +kernel, fun _ => by decide +kernel, fun _ _ => ⟨by decide +kernel, by decide +kernel, fun _ => by decide +kernel⟩⟩, ⟨by rfl, by decide +kernel, by decide +kernel, by decide +kernel, by decide +kernel, by decide +kernel, fun _ => by decide +kernel, fun _ _ => ⟨by decide +kernel, by decide +kernel, fun _ => by decide +kernel⟩⟩, by decide +kernel, ⟨_, by rfl⟩, ⟨_, _, by rfl⟩⟩

theorem wit_LaunchServed : (wQh 0 rLn).Serves .launch rLn [.queue] ∧
    (wQh 0 rLn).launchSpec rLn = none :=
  ⟨⟨by rfl, by decide +kernel, by decide +kernel, by decide +kernel, by decide +kernel, by decide +kernel, fun _ => by decide +kernel, fun _ _ => ⟨by decide +kernel, by decide +kernel, fun _ => by decide +kernel⟩⟩, by decide +kernel⟩

theorem wit_Define : (wDf rDf).Serves .define rDf [.operator] ∧
    (fld (reqWord rDf 2) 7 0 = 1 ∧ (wDf rDf).viDefined 0 (reqVi rDf) = false ∧ (reqWord rDf 3).toNat % 8192 = 0 ∧ fld (reqWord rDf 4) 15 8 ≤ 128 ∧ fld (reqWord rDf 4) 39 32 ≤ 64 ∧ 3 ≤ fld (reqWord rDf 4) 20 16 ∧ 3 ≤ fld (reqWord rDf 4) 28 24 ∧ (reqWord rDf 5).toNat % 8 = 0 ∧ (reqWord rDf 6).toNat % 64 = 0 ∧ (wDf rDf).quotaOk 0 (reqVi rDf) (fld (reqWord rDf 4) 15 8) (fld (reqWord rDf 4) 39 32) = true) :=
  ⟨⟨by rfl, by decide +kernel, by decide +kernel, by decide +kernel, by decide +kernel, by decide +kernel, fun h => absurd rfl h, fun _ h => absurd rfl h⟩, by decide +kernel⟩

theorem wit_Controls : (wQh 0 rWt).Serves .weight rWt [.operator] ∧
    (wQh 0 (rRs 3)).Serves .reset (rRs 3) [.operator] ∧
    (wQh 0 rHr).Serves .hostreg rHr [.operator] ∧
    (wQh 0 rSt).Serves .store rSt [.operator] ∧
    (wQh 0 rGr).Serves .group rGr [.operator] ∧
    ((wQh 0 rWt).quotaOk 0 (reqVi rWt) 2 1 = true ∧ (wQh 1 (rRs 3)).vst 0 1 ≠ 0 ∧ ((wQh 0 (rRs 3)).part 0).running ≠ some 1 ∧ (wQh 0 rGr).groupUsed [0] 1 3 = false ∧ (wQh 0 rGr).hostAt 0 1 0x20 32 = some 0x120) :=
  ⟨⟨by rfl, by decide +kernel, by decide +kernel, by decide +kernel, by decide +kernel, by decide +kernel, fun _ => by decide +kernel, fun _ _ => ⟨by decide +kernel, by decide +kernel, fun _ => by decide +kernel⟩⟩, ⟨by rfl, by decide +kernel, by decide +kernel, by decide +kernel, by decide +kernel, by decide +kernel, fun _ => by decide +kernel, fun _ _ => ⟨by decide +kernel, by decide +kernel, fun _ => by decide +kernel⟩⟩, ⟨by rfl, by decide +kernel, by decide +kernel, by decide +kernel, by decide +kernel, by decide +kernel, fun _ => by decide +kernel, fun _ _ => ⟨by decide +kernel, by decide +kernel, fun _ => by decide +kernel⟩⟩, ⟨by rfl, by decide +kernel, by decide +kernel, by decide +kernel, by decide +kernel, by decide +kernel, fun _ => by decide +kernel, fun _ _ => ⟨by decide +kernel, by decide +kernel, fun _ => by decide +kernel⟩⟩, ⟨by rfl, by decide +kernel, by decide +kernel, by decide +kernel, by decide +kernel, by decide +kernel, fun _ => by decide +kernel, fun _ _ => ⟨by decide +kernel, by decide +kernel, fun _ => by decide +kernel⟩⟩, by decide +kernel⟩

theorem wit_AttestAndStorage : (((wQh 0 (rAt 544)).die 0).power ≠ .halted ∧ (({ wQh 0 (rAt 544) with dies := [(0, { power := .halted })] }).die 0).power = .halted) ∧
    (wQh 0 (rAt 544)).Serves .attest (rAt 544) [.queue, .operator] ∧
    ((wQh 0 (rAt 544)).hostAt 0 (reqVi (rAt 544)) 0x10 32 = some 0x110 ∧ (wQh 0 (rAt 544)).hostAt 0 (reqVi (rAt 544)) 0x100 544 = some 0x200) ∧
    (wQh 0 (rSg 0 0x4000 1 1)).Serves .storage (rSg 0 0x4000 1 1) [.queue] ∧
    ((0x4000 : Nat) % 4096 = 0 ∧ 1 + 1 ≤ (aget 0 ((wQh 0 (rSg 0 0x4000 1 1)).part 0).winCount 1).toNat) :=
  ⟨by decide +kernel, ⟨by rfl, by decide +kernel, by decide +kernel, by decide +kernel, by decide +kernel, by decide +kernel, fun _ => by decide +kernel, fun _ _ => ⟨by decide +kernel, by decide +kernel, fun _ => by decide +kernel⟩⟩, by decide +kernel, ⟨by rfl, by decide +kernel, by decide +kernel, by decide +kernel, by decide +kernel, by decide +kernel, fun _ => by decide +kernel, fun _ _ => ⟨by decide +kernel, by decide +kernel, fun _ => by decide +kernel⟩⟩, by decide +kernel⟩

theorem wit_GuestSends : (wGs 0 gQs).Hears gQs ∧
    (wQs).Hears gQs ∧
    (wQs.lqwr 0 1 = wQs.lqrd 0 1 ∧ 6 ≤ fld gQs.w0 12 8 ∧ fld gQs.w0 12 8 ≤ 20 ∧ gQs.w1.toNat % 64 = 0 ∧ wQs.pagesMapped 0 1 0x4000 (64 * 2 ^ 6) = true ∧ (wGs 0 gQs).heardBy 0 = some 0 ∧ ({ wGs 0 gQs with dies := [(0, { power := .halted })] }).heardBy 0 = none ∧ ({ wGs 0 gQs with parts := [] }).healdHolds 0 false = true ∧ ((wGs 0 gQs).setVi 0 1 0 0).viDefined 0 1 = false) :=
  ⟨⟨by rfl, by decide +kernel, by decide +kernel, by decide +kernel, by decide +kernel, by decide +kernel, by decide +kernel⟩, ⟨by rfl, by decide +kernel, by decide +kernel, by decide +kernel, by decide +kernel, by decide +kernel, by decide +kernel⟩, by decide +kernel⟩

theorem wit_Slices : ((wTs 7).arg = .part 0 7 ∧ ((wTs 7).part 0).sliceStamp = 7 ∧ ((wTs 6).part 0).sliceStamp ≠ 7 ∧ ((wTs 7).part 0).dies ≠ [] ∧ ((wTs 7).part 0).merge = .idle ∧ ((wTs 7).part 0).running = none ∧ ((wTs 7).part 0).repairs = [] ∧ (wTs 7).nextVi 0 = none ∧ wTw.nextVi 0 = some 1 ∧ afind (wLa.part 0).retryAt 1 = some wLa.cycle ∧ afind ((wQ11 0 (.vi 0 1)).part 0).retryAt 1 ≠ some (wQ11 0 (.vi 0 1)).cycle ∧ (wLa).inRoutine 0 = false ∧ (wRn .none).inRoutine 0 = true ∧ (wRn .none).pidOf 0 = 0) :=
  by decide +kernel

theorem wit_Rma : ((wRm 0 (rR 0x4008) 1).arg = .rma (rR 0x4008) ∧ (wRm 0 (rR 0x4008) 1).silent 0 = false ∧ ({ wRm 0 (rR 0x4008) 1 with dies := [(0, { power := .tripped })] }).silent 0 = true ∧ (0x4006 : Word).toNat + widthBytes .w ≤ 2 ^ 53 ∧ 2 ^ 53 < (0x1FFFFFFFFFFFFD : Word).toNat + widthBytes .w ∧ ((wRm 0 (rR 0x4008) 1).engine 0).dies.getLsbD (unitIdent ((pR (wRm 0 (rR 0x4008) 1) 0x4008 0 4).home.getD 0) / 64) = true ∧ ((wRm 0 (rR 0x4008) 0).engine 0).dies.getLsbD (unitIdent ((pR (wRm 0 (rR 0x4008) 0) 0x4008 0 4).home.getD 0) / 64) = false ∧ (lR 0).marked.getLsbD 1 = false ∧ (lR 0).tag 1 ≠ 3 ∧ (lR 3).tag 1 = 3) ∧
    (wRm 0 rRh 1).AtHome 2 ⟨false, rRh.viid⟩ rRh.addr .read false 0x8008 eR11 (lR 0) 36 (qRm 0 rRh) ∧
    (wRm 0 rRh 1).AtHome 2 ⟨false, rRh.viid⟩ rRh.addr .write false 0x8008 eR11 (lR 0) 36 (qRm 0 rRh) ∧
    (wRm 3 rRh 1).AtHome 2 ⟨false, rRh.viid⟩ rRh.addr .write false 0x8008 eR11 (lR 3) 36 (qRm 3 rRh) ∧
    (∃ z, (qRm 0 rRh).Wrote z 2 ⟨false, rRh.viid⟩ rRh.addr 0x8008 eR11 (lR 0) (((lR 0).put 8 4 (0x12345678 % 2 ^ 32)).setTag 1 0)) ∧
    ((wUe true).arg = .ue ⟨0, true, 77⟩ ∧ (wUe false).silent 0 = false) ∧
    (((wRm 0 (rRb 5 true) 1).engine 0).rmas.find? (fun q => q.run == 5) = none ∧ ((wRm 0 (rRb 6 true) 1).engine 0).rmas.find? (fun q => q.run == 6) = some ⟨6, 77, true, 2, 0, false⟩ ∧ ((wRm 0 (rRb 7 true) 1).engine 0).rmas.find? (fun q => q.run == 7) = some ⟨7, 77, false, 1, 0x5678, false⟩) :=
  ⟨by decide +kernel, ⟨by rfl, ⟨_, by rfl, by rfl⟩, by decide +kernel⟩, ⟨by rfl, ⟨_, by rfl, by rfl⟩, by decide +kernel⟩, ⟨by rfl, ⟨_, by rfl, by rfl⟩, by decide +kernel⟩, ⟨_, _, by rfl, rfl⟩, by decide +kernel, by decide +kernel⟩

theorem wit_Merge : (wMg .idle .idle (.host rMg)).Serves .merge rMg [.operator] ∧
    ((wMg .idle .idle (.host rMg)).mergeOther rMg = some 1 ∧ (wMg .idle .idle (.host (rQ 7 .operator 5 []))).mergeOther (rQ 7 .operator 5 []) = none) ∧
    ((wMg (.asked rMg 1 7 false) .idle (mMg 0)).arg = .merge ⟨0, 0⟩ ∧ (wMg (.asked rMg 1 7 false) .idle (mMg 0)).pidOf 0 = 0 ∧ ((wMg (.asked rMg 1 7 false) .idle (mMg 0)).part 0).merge = .asked rMg 1 7 false ∧ ((wMg (.stopping rMg 1 false) .idle (mMg 0)).part 0).running = none ∧ (wMg (.stopping rMg 1 false) .idle (mMg 0)).stopDone 0 = true ∧ (wSt (.stopping rMg 1 false) (mMg 0)).stopDone 0 = false ∧ ((wMg .idle .idle (mMg 0)).part 0).merge = .idle) ∧
    (∀ p ∈ (wMg .idle .idle (mMg 0)).parts, ∀ r a e st q b, p.2.merge ≠ .routine r a e st q b) ∧
    (∀ p ∈ (wMg (.quiesced 8 5) .idle (mMg 0)).parts, ∀ r a e st q b, p.2.merge ≠ .routine r a e st q b) ∧
    (((wMg (.saved 2) .idle (mMg (8 * 2 ^ 47 + 2 ^ 53))).part 0).merge = .saved 2 ∧ (wMg (.saved 2) .idle (mMg (8 * 2 ^ 47 + 2 ^ 53))).pidOf (fld (BitVec.ofNat 64 (8 * 2 ^ 47 + 2 ^ 53) : Word) 51 47 / 8) = 1 ∧ (1 : Nat) ≠ 0) ∧
    (((wRo true 0 rMg).core 0x8000).journal ≠ [] ∧ ((wRo false 0 rMg).part 0).merge = .routine rMg 0 3 9 false false ∧ reqType rMg = 7 ∧ (wRo false 0 rMg).mergeOther rMg = some 1 ∧ canMerge ((wSp .idle 2 none).part 0 |>.dies.filter fun d => d ∉ [1]) [1] = true ∧ bitsBelow 4 (2 : BitVec 4).toNat = [1] ∧ (wSp .idle 2 none).queuesBusy 0 = false ∧ (wSp (.splitting [1]) 2 none).stopDone 0 = true ∧ (wSp (.splitting [1]) 2 (some 5)).stopDone 0 = false) :=
  ⟨⟨by rfl, by decide +kernel, by decide +kernel, by decide +kernel, by decide +kernel, by decide +kernel, fun _ => by decide +kernel, fun h _ => absurd rfl h⟩, by decide +kernel, by decide +kernel, by intro p hp r a e st q b; have h : p = (0, ({ dies := [0], merge := .idle } : Partition)) ∨ p = (1, ({ dies := [1], merge := .idle } : Partition)) := (by simpa [wMg] using hp); rcases h with rfl | rfl <;> (intro hc; cases hc), by intro p hp r a e st q b; have h : p = (0, ({ dies := [0], merge := .quiesced 8 5 } : Partition)) ∨ p = (1, ({ dies := [1], merge := .idle } : Partition)) := (by simpa [wMg] using hp); rcases h with rfl | rfl <;> (intro hc; cases hc), by decide +kernel, by decide +kernel⟩

theorem wit_MemoryWrites : (awf 0 kP.pool = true ∧ kP.rfEnd ≤ 0x8001 ∧ kP.rfEnd ≤ 0x1FFFF ∧ kP.rfEnd = 256 * kP.nslots ∧ 256 * 31 + 256 ≤ kP.rfEnd ∧ awf 0 (kP.slot 0).regs = true ∧ awf 0 (kP.slot 31).regs = true) ∧
    wM12.MemoryCanonical ∧
    lW.pa % 128 = 0 :=
  ⟨by decide +kernel, (by unfold State.MemoryCanonical; decide +kernel), by decide +kernel⟩

theorem wit_CodeLines : (lineHeads lnTwo = 2 ∧ lineOk lnTwo = true ∧ lineHeads lnNops = 32 ∧ lineOk lnNops = true ∧ lineHeads lnBad = 17 ∧ lineOk lnBad = false ∧ ((wLine lnTwo 0x10042).slot 0 0).line = some (0x10040, lnTwo) ∧ (0x10040 : Word) = 0x10042 &&& ~~~63) :=
  by decide +kernel

theorem wit_TakeException : (((wEx 5 (some 0x20000)).core 0).freeRecordNo = some 1 ∧ ((wEx 5 (some 0x20000)).handlerInfo 0 0).body = some 0x20000 ∧ awf 0 ((wEx 5 none).core 0).pool = true ∧ ((wEx 5 none).core 0).rfEnd ≤ poolSize 0 - 4096 ∧ ((wEx 0xFFFF none).core 0).freeRecordNo = none ∧ ((wEx 5 none).core 0).freeRecordNo = some 1 ∧ ((wEx 5 none).handlerInfo 0 0).body = none) ∧
    State.Ready (wEx 5 none) .always [2] [] false [0x55] (wEx 5 none) :=
  ⟨by decide +kernel, ready0 rfl rfl rfl⟩

theorem wit_ReturnFromException : (fH.code ≠ 14 ∧ fH.code ≠ 18 ∧ fH.code ≠ 32 ∧ fH.code ≠ 33 ∧ (wRt.slot 0 0).holds = [.fault 3 fH] ∧ (wRt.slot 0 0).asyncs = [] ∧ (wRt.slot 0 0).ending = none ∧ (3 : Nat) < 16) :=
  by decide +kernel

theorem wit_FalseGuardOnlyAdvances : (encode (.trap .ifP0 2 0) ≠ none ∧ (tRegs []).arg = .none ∧ (tRegs []).cur.guard .ifP0 = false) ∧
    (∃ w, encode (.trap .ifP0 2 0) = some w ∧ headG w.head = .ifP0) ∧
    ((∃ w, encode (.mzero .ifP0 3) = some w ∧ [0x78, 0x79, 0x7A, 0x7B, 0x7C].contains (headOp w.head).toNat = true) ∧ isService wSvc12.curUnit = true ∧ isService (tRegs []).curUnit = false) :=
  ⟨by decide +kernel, ⟨_, rfl, by decide +kernel⟩, ⟨⟨_, rfl, by decide +kernel⟩, by decide +kernel, by decide +kernel⟩⟩

theorem wit_StepRunsDecoded : ((wSt12 lnTwo).due = none ∧ (wSt12 lnTwo).pick = some (0, 0) ∧ ((wSt12 lnTwo).slot 0 0).nextAsync = none ∧ ((wSt12 lnTwo).slot 0 0).line = some (((wSt12 lnTwo).slot 0 0).pc &&& ~~~63, lnTwo) ∧ ((wSt12 lnTwo).slot 0 0).pc.getLsbD 0 = false ∧ ((wSt12 lnTwo).slot 0 0).pc.toNat % 64 / 2 < lineHeads lnTwo) ∧
    (lineHalf lnTwo 1 = 0x230C ∧ lineTail lnTwo 1 = 0x1000FFF8) ∧
    decode 0x230C 0x1000FFF8 = .ok (.addi .always false 3 2 0xFFF8) ∧
    ((wSt12 lnIll).due = none ∧ (wSt12 lnIll).pick = some (0, 0) ∧ ((wSt12 lnIll).slot 0 0).nextAsync = none ∧ ((wSt12 lnIll).slot 0 0).line = some (((wSt12 lnIll).slot 0 0).pc &&& ~~~63, lnIll) ∧ ((wSt12 lnIll).slot 0 0).pc.getLsbD 0 = false ∧ ((wSt12 lnIll).slot 0 0).pc.toNat % 64 / 2 < lineHeads lnIll) ∧
    (lineHalf lnIll 1 = 0x0E04 ∧ lineTail lnIll 1 = 0) ∧
    decode 0x0E04 0 = .error .rsv ∧
    (State.reset.due ≠ none ∧ (tOf (tCore {})).due = none ∧ (tOf (tCore {})).pick = none) :=
  ⟨by decide +kernel, by decide +kernel, by rfl, by decide +kernel, by decide +kernel, by rfl, by decide +kernel⟩

theorem wit_RegisterOperands : (wRo12.cur.guard .always = true ∧ wRs.cur.badSrc 4 = true ∧ wRs.cur.badDst 4 = true ∧ isWindow 5 = true ∧ isWindow 6 = true ∧ wRo12.cur.isFull 5 = false ∧ wRo12.cur.isFull 6 = false ∧ wRo12.cur.isPend 6 = true ∧ wRo12.cur.isPend 5 = false ∧ wRo12.cur.role 6 = .loc) ∧
    (∀ r ∈ ([2, 3, 0, 30, 31] : List Reg), wRo12.cur.plainSrc r) ∧
    (∀ r ∈ ([4, 0, 31, 5] : List Reg), wRo12.cur.plainDst r) ∧
    (wRo12.checkRegs [5, 3] [4] false = .ok () ∧ wRo12.checkRegs [6, 3] [4] false = .ok () ∧ wRo12.checkRegs [3, 5] [4] false = .ok () ∧ wRo12.checkRegs [3, 6] [4] false = .ok ()) :=
  ⟨by decide +kernel, (by unfold Slot.plainSrc; decide +kernel), (by unfold Slot.plainDst; decide +kernel), ⟨rfl, rfl, rfl, rfl⟩⟩

theorem wit_RegisterResultFrame : (awf 0 wRf.cur.regs = true ∧ fld wRf.curCore.qchain 31 31 = 0 ∧ isWindow 6 = true ∧ wRf.cur.role 6 = .loc ∧ isWindow 3 = true ∧ wRf.cur.role 3 = .shared) :=
  by decide +kernel

theorem wit_StepOutcomes : (encode (.trap .ifP0 2 0) ≠ none ∧ (tRegs []).arg = .none ∧ (wSt12 lnTwo).cores.Pairwise (fun p q => p.1 < q.1) ∧ (wSt12 lnTwo).pick = some (0, 0)) :=
  by decide +kernel

theorem wit_ProgramsAndUsers : (encode (.add .always false 4 2 3) ≠ none ∧ (tRegs []).arg = .none ∧ (tRegs []).sysOf (tRegs []).curUnit = false) ∧
    (∃ t, exec (.add .always false 4 2 3) (tRegs []) = .next t) :=
  ⟨by decide +kernel, ⟨_, rfl⟩⟩

theorem wit_InvariantsKept : (wM12.MemoryCanonical ∧ State.reset.MemoryCanonical) ∧
    ((wSt12 lnTwo).CoresCanonical ∧ State.reset.CoresCanonical) ∧
    (∃ t, step wM12 = .next t) ∧
    (∃ t, step (wSt12 lnTwo) = .next t) :=
  ⟨(by unfold State.MemoryCanonical; decide +kernel), (by unfold State.CoresCanonical Core.Canonical; decide +kernel), nextOf (by decide +kernel), nextOf (by decide +kernel)⟩

theorem wit_DecodeEncodeRoundTrip : ((Instr.bfi .always 4 2 3 63 0).wf = true ∧ ∃ w, encode (.bfi .always 4 2 3 63 0) = some w) :=
  ⟨by decide +kernel, _, rfl⟩

theorem wit_OtherTurns : (wTd.due = none ∧ wTd.pick = some (0, 0) ∧ (wTd.slot 0 0).trip ≠ .none ∧ wTo.pick = some (0, 0) ∧ (wTk12.slot 0 0).nextAsync.isSome = true ∧ wTk12.pick = some (0, 0) ∧ (wTj.slot 0 0).nextAsync = none ∧ wTj.pick = some (0, 0) ∧ lineHeads lnTwo ≤ (wTj.slot 0 0).pc.toNat % 64 / 2 ∧ wTf.pick = some (0, 0) ∧ wTm.due = none ∧ wTm.pick = some (0x8001, 0) ∧ isService 0x8001 = true) ∧
    (∀ a line, (wTf.slot 0 0).line = some (a, line) → a ≠ (wTf.slot 0 0).pc &&& ~~~63) ∧
    (match decode (lineHalf lnMat 1) (lineTail lnMat 1) with | .ok _ => false | .error e => e.code != 1) = true :=
  ⟨by decide +kernel, by intro a line h; have h' : a = 0x10040 := (by have : (wTf.slot 0 0).line = some (0x10040, lnTwo) := (by decide +kernel); rw [this] at h; cases h; rfl); subst h'; decide +kernel, by decide +kernel⟩
end

section
/-! PROOF. The integer and control instructions of rules R120, R122 and R135: LEA, PLOG and NOP. -/

namespace Sys2Proof.Machine

/-! ## Shared rules -/

/-- A three-register instruction whose operands are ready writes its value and goes on (R113). -/
theorem regOp2_of_ready {s t : State} {g : Guard} {a b c : Reg} {x y : Word} (f : Word → Word → Word)
    (h : s.Ready g [b, c] [a] false [x, y] t) : regOp2 s a b c f = .ok (t.writeDst a (f x y)).advance := by
  simp only [regOp2, h.named, h.r2, h.d1, bind, Except.bind]

/-- A bit of a word after one of its bits is written. -/
theorem getLsbD_setBitN {n : Nat} (v : BitVec n) (i : Nat) (b : Bool) {k : Nat} (hk : k < n) :
    (setBitN v i b).getLsbD k = if k = i then b else v.getLsbD k := by
  have hm : (1#n <<< i).getLsbD k = decide (k = i) := by
    simp only [← BitVec.twoPow_eq, BitVec.getLsbD_twoPow, eq_comm (a := i)]
    simpa using fun h : k = i => h ▸ hk
  cases b with
  | false =>
    simp only [setBitN, Bool.false_eq_true, if_false, BitVec.getLsbD_and, BitVec.getLsbD_not, hm, hk, decide_true, Bool.true_and]
    by_cases hi : k = i <;> simp [hi]
  | true =>
    simp only [setBitN, if_true, BitVec.getLsbD_or, hm]
    by_cases hi : k = i <;> simp [hi]

/-- Writing a predicate changes that predicate alone (R106). -/
theorem Slot.onlyPred_setP (x : Slot) (p : Pred) (v : Bool) : onlyPred (x.setP p v).pred x.pred p v :=
  fun _ hk => getLsbD_setBitN x.pred p.toNat v hk

/-- An issue uses up its core's cycle: the next pick starts at the core after it (R309). -/
theorem State.advance_issued_cursor (s : State) (u : UnitId) (i : Nat) : (s.issued u i).advance.cursor = u + 1 := rfl

/-- The step in which a picked slot issues an instruction runs it in the issued state (R309, R310). -/
theorem step_of_issue {s : State} {u : UnitId} {i : Nat} {ins : Instr} (hd : s.due = none) (hp : s.pick = some (u, i))
    (ht : (s.slot u i).turn = .issue ins) : step s = exec ins (s.issued u i) := by
  simp only [step, hd, hp, ht, State.issued]

/-! ## LEA -/

/-- A power of two as a word. -/
theorem ofInt_two_pow (w n : Nat) : BitVec.ofInt w (2 ^ n) = BitVec.twoPow w n := by
  have hcast : BitVec.ofInt w (2 ^ n) = BitVec.ofNat w (2 ^ n) := by
    rw [← BitVec.ofInt_natCast, Int.natCast_pow, Int.cast_ofNat_Int]
  rw [hcast]
  exact BitVec.eq_of_toNat_eq (by rw [BitVec.toNat_ofNat, BitVec.toNat_twoPow])

/-- The word arithmetic of LEA is the whole-number sum modulo 2^64. -/
theorem lea_sum (x y : Word) (sh : BitVec 2) (imm : BitVec 16) :
    x + (y <<< sh.toNat) + imm.signExtend 64 = BitVec.ofInt 64 (x.toInt + y.toInt * 2 ^ sh.toNat + imm.toInt) := by
  simp only [BitVec.ofInt_add, BitVec.ofInt_mul, BitVec.ofInt_toInt, ofInt_two_pow, BitVec.shiftLeft_eq_mul_twoPow, BitVec.signExtend]

/-- LEA issues as a three-register instruction with that sum (R120). -/
theorem exec_lea (g : Guard) (a b c : Reg) (sh : BitVec 2) (imm : BitVec 16) (s : State) :
    exec (.lea g a b c sh imm) s =
      issue g s fun s => regOp2 s a b c fun x y => x + (y <<< sh.toNat) + imm.signExtend 64 := rfl

/-- Settles O3: the operands being ready, LEA writes the sum of its word arithmetic and goes on. -/
theorem leaAddress : Obligations.LeaAddress := by
  intro g a b c sh imm s x y t h
  rw [← lea_sum, exec_lea]
  exact issue_ok h.guard (regOp2_of_ready _ h)

/-! ## PLOG -/

/-- PLOG issues as a write of one predicate, from the predicates before it (R122). -/
theorem exec_plog (g : Guard) (pk pj pi : Pred) (tt : BitVec 4) (s : State) :
    exec (.plog g pk pj pi tt) s =
      issue g s fun s => .ok (s.modCur fun x => x.setP pk (plogBit tt (x.p pj) (x.p pi))).advance := rfl

/-- The truth-table bit of PLOG, by the numbers of the two predicates (R122). -/
theorem plogBit_eq (tt : BitVec 4) (j i : Bool) :
    plogBit tt j i = tt.getLsbD (2 * (if j then 1 else 0) + if i then 1 else 0) := by
  simp only [plogBit, Bool.toNat, Bool.cond_eq_ite]

/-- Settles O4: PLOG writes one predicate, with the truth-table bit that the old predicates select. -/
theorem predicateLogic : Obligations.PredicateLogic := by
  intro g pk pj pi tt s hg
  rw [exec_plog, ← plogBit_eq]
  exact ⟨(s.cur.setP pk (plogBit tt (s.cur.p pj) (s.cur.p pi))).pred, issue_ok hg rfl, s.cur.onlyPred_setP pk _⟩

/-! ## NOP -/

/-- NOP goes on whatever its guard (R135). -/
theorem exec_nop (g : Guard) (s : State) : exec (.nop g) s = .next s.advance := by
  change issue g s (fun s => .ok s.advance) = .next s.advance
  cases hg : s.cur.guard g with
  | false => exact issue_false _ hg
  | true => exact issue_ok hg rfl

/-- A head of NOP's opcode with no tail is NOP, or RSV when its field A is not 0 (R82, R135). -/
theorem decode_nop_head {h : Half} (t : BitVec 64) (hop : headOp h = 7) (htl : headTl h = 0) :
    decode h t = if headA h = 0 then .ok (.nop (headG h)) else .error .rsv := by
  have hd : decode h t = decodeH 7 (headG h) (headA h) := by
    simp [decode, hop, htl, formTl]
  rw [hd]
  by_cases ha : headA h = 0 <;> simp [decodeH, chk, ha]

/-- Settles O6: from what NOP does, what its heads decode to, and the step that issues it. -/
theorem nopHasNoEffect : Obligations.NopHasNoEffect :=
  ⟨exec_nop, fun _ t hop htl => decode_nop_head t hop htl, rfl, fun s u i g hd hp ht =>
    ⟨(step_of_issue hd hp ht).trans (exec_nop g _), s.advance_issued_cursor u i⟩⟩

end Sys2Proof.Machine
end
